-- ==== Sys2Proof/Word.lean ====
section
/-! DEFINITION. The word types of the XK-960 (R3, R4, R60). -/

namespace Sys2Proof

/-- One byte of memory (R3). -/
abbrev Byte := BitVec 8

/-- A 32-bit word: a lane of a vector register, a scalar register, an instruction word (R36, R60). -/
abbrev Word := BitVec 32

/-- A 64-bit address or scalar pair (R3, R202). -/
abbrev Addr := BitVec 64

/-- One bit for each of the 32 lanes of a wave (R151). -/
abbrev Mask := BitVec 32

end Sys2Proof
end

