-- ==== Sys2Proof/Machine/Flags.lean ====
section
/-! DEFINITION. The exception flags of FP.FLAGS (R71), the number formats (R62) and the rounding of an
exact magnitude to a format with the flags it sets (R67-R70). -/

namespace Sys2Proof.Machine

open Sys2Proof

/-- FP.FLAGS [5:0] (R71): SA, NV, DZ, OF, UF, NX. -/
abbrev FlagSet := BitVec 6

/-- Inexact (R71 bit 0). -/
def flNX : FlagSet := 1
/-- Underflow (R71 bit 1). -/
def flUF : FlagSet := 2
/-- Overflow (R71 bit 2). -/
def flOF : FlagSet := 4
/-- Division by zero (R71 bit 3). -/
def flDZ : FlagSet := 8
/-- Invalid operation (R71 bit 4). -/
def flNV : FlagSet := 16
/-- A saturating operation clamped (R71 bit 5). -/
def flSA : FlagSet := 32

/-- The flag when `c` holds, else none. -/
def flIf (c : Bool) (f : FlagSet) : FlagSet := if c then f else 0

/-- A floating-point format (R62): widths of exponent and fraction, bias, and whether it has
infinities (E4M3 has none). -/
structure Fmt where
  expBits : Nat
  fracBits : Nat
  bias : Nat
  hasInf : Bool
  deriving DecidableEq, Repr

/-- binary32. -/
def fmtFP32 : Fmt := ⟨8, 23, 127, true⟩
/-- binary16. -/
def fmtFP16 : Fmt := ⟨5, 10, 15, true⟩
/-- BF16. -/
def fmtBF16 : Fmt := ⟨8, 7, 127, true⟩
/-- E5M2. -/
def fmtE5M2 : Fmt := ⟨5, 2, 15, true⟩
/-- E4M3. -/
def fmtE4M3 : Fmt := ⟨4, 3, 7, false⟩

/-- Place of the sign bit. -/
def Fmt.signPos (f : Fmt) : Nat := f.expBits + f.fracBits
/-- The magnitude bits of infinity (IEEE formats). -/
def Fmt.infBits (f : Fmt) : Nat := (2 ^ f.expBits - 1) * 2 ^ f.fracBits
/-- The magnitude bits of the largest finite value (R62). -/
def Fmt.maxBits (f : Fmt) : Nat :=
  if f.hasInf then f.infBits - 1 else 2 ^ (f.expBits + f.fracBits) - 2
/-- The canonical NaN (R64). -/
def Fmt.nanBits (f : Fmt) : Nat :=
  if f.hasInf then f.infBits + 2 ^ (f.fracBits - 1) else 2 ^ (f.expBits + f.fracBits) - 1
/-- The sign bit in place. -/
def Fmt.signBits (f : Fmt) (neg : Bool) : Nat := if neg then 2 ^ f.signPos else 0

/-- Rounding modes (R43, R67); SR carries its 16 random bits (R70). -/
inductive Mode where
  | rn
  | rz
  | ru
  | rd
  | sr (r : Nat)
  deriving DecidableEq, Repr

/-- Whether a value `t + rem/den` units is rounded to `t + 1` in magnitude (R67, R70). -/
def roundsUp (mode : Mode) (neg : Bool) (t rem den : Nat) : Bool :=
  match mode with
  | .rn => decide (2 * rem > den) || (decide (2 * rem = den) && decide (t % 2 = 1))
  | .rz => false
  | .ru => decide (rem ≠ 0) && !neg
  | .rd => decide (rem ≠ 0) && neg
  | .sr r => decide (rem * 65536 / den + r ≥ 65536)

/-- floor(log2 (num / den)) for positive `num` and `den`. -/
def ratLog2 (num den : Nat) : Int :=
  let a := num.log2
  let b := den.log2
  let lt := if a ≥ b then decide (num < den <<< (a - b)) else decide (num <<< (b - a) < den)
  (a : Int) - (b : Int) - (if lt then 1 else 0)

/-- `num / den × 2^e` in units of 2^q, as numerator and denominator. -/
def scaleTo (num den : Nat) (e q : Int) : Nat × Nat :=
  if e ≥ q then (num <<< (e - q).toNat, den) else (num, den <<< (q - e).toNat)

/-- The magnitude rounded in units of 2^q, and whether it was exact. -/
def roundAt (mode : Mode) (neg : Bool) (num den : Nat) (e q : Int) : Nat × Bool :=
  let nd := scaleTo num den e q
  let t := nd.1 / nd.2
  let r := nd.1 % nd.2
  (if roundsUp mode neg t r nd.2 then t + 1 else t, decide (r = 0))

/-- What an overflow delivers (R68): magnitude bits and whether SAT clamped. -/
def overflowBits (f : Fmt) (mode : Mode) (sat neg : Bool) : Nat × Bool :=
  let toMax : Bool := match mode with
    | .rn => false
    | .rz => true
    | .ru => neg
    | .rd => !neg
    | .sr _ => false
  if toMax then (f.maxBits + f.signBits neg, false)
  else if f.hasInf then (f.infBits + f.signBits neg, false)
  else if sat then (f.maxBits + f.signBits neg, true)
  else (f.nanBits, false)

/-- The exact nonzero value (−1)^neg × num/den × 2^e rounded once to `f`, with its flags (R67-R70). -/
def roundMag (f : Fmt) (mode : Mode) (sat neg : Bool) (num den : Nat) (e : Int) : Nat × FlagSet :=
  let ex := ratLog2 num den + e
  let emin : Int := 1 - (f.bias : Int)
  let frac : Int := f.fracBits
  let qmin : Int := emin - frac
  let q := max (ex - frac) qmin
  let r := roundAt mode neg num den e q
  let bits := (q - qmin).toNat * 2 ^ f.fracBits + r.1
  if bits > f.maxBits then
    let o := overflowBits f mode sat neg
    (o.1, flOF ||| flNX ||| flIf o.2 flSA)
  else
    let tiny := decide (ex < emin) &&
      !(decide (ex + 1 = emin) &&
        decide ((roundAt mode neg num den e (ex - frac)).1 = 2 ^ (f.fracBits + 1)))
    (bits + f.signBits neg, flIf (!r.2) flNX ||| flIf (tiny && !r.2) flUF)

end Sys2Proof.Machine
end

