-- ==== Sys2Proof/Machine/Number.lean ====
section
/-! DEFINITION. Exact arithmetic on the values of the formats (R62-R66, R73-R82): reading a value, exact
products and sums, one rounding, comparisons, conversions and the SFU functions (R116, R117). -/

namespace Sys2Proof.Machine

open Sys2Proof

/-- A value read from a format (R62, R64): a NaN (signalling or not), an infinity, or
(−1)^neg × m × 2^e. -/
inductive Num where
  | nan (sig : Bool)
  | inf (neg : Bool)
  | fin (neg : Bool) (m : Nat) (e : Int)
  deriving DecidableEq, Repr

/-- The value of bits in a format. -/
def unpack (f : Fmt) (w : Nat) : Num :=
  let neg := w.testBit f.signPos
  let fr := w % 2 ^ f.fracBits
  let ef := (w / 2 ^ f.fracBits) % 2 ^ f.expBits
  if f.hasInf && ef == 2 ^ f.expBits - 1 then
    if fr = 0 then .inf neg else .nan (!(fr.testBit (f.fracBits - 1)))
  else if !f.hasInf && w % 2 ^ f.signPos == 2 ^ f.signPos - 1 then .nan false
  else if ef = 0 then .fin neg fr (1 - (f.bias : Int) - f.fracBits)
  else .fin neg (2 ^ f.fracBits + fr) ((ef : Int) - f.bias - f.fracBits)

/-- FP32 value of a word. -/
def f32 (w : Word) : Num := unpack fmtFP32 w.toNat

/-- Is a value a NaN? -/
def Num.isNaN : Num → Bool
  | .nan _ => true
  | _ => false

/-- Is a value a signalling NaN? -/
def Num.isSig : Num → Bool
  | .nan s => s
  | _ => false

/-- The value with the opposite sign. -/
def Num.negate : Num → Num
  | .nan s => .nan s
  | .inf n => .inf (!n)
  | .fin n m e => .fin (!n) m e

/-- Exact product (R65, R66); an invalid product is a signalling NaN. -/
def Num.mul : Num → Num → Num
  | .nan a, y => .nan (a || y.isSig)
  | _, .nan b => .nan b
  | .inf a, .inf b => .inf (a != b)
  | .inf a, .fin b m _ => if m = 0 then .nan true else .inf (a != b)
  | .fin a m _, .inf b => if m = 0 then .nan true else .inf (a != b)
  | .fin a m e, .fin b n f => .fin (a != b) (m * n) (e + f)

/-- The least exponent of the finite nonzero terms, or 0. -/
def minExp : List Num → Option Int
  | [] => none
  | .fin _ m e :: t => if m = 0 then minExp t else
      match minExp t with
      | none => some e
      | some k => some (min e k)
  | _ :: t => minExp t

/-- The finite terms in units of 2^q, added exactly. -/
def sumUnits (q : Int) : List Num → Int
  | [] => 0
  | .fin n m e :: t =>
    let v : Int := ((m <<< (e - q).toNat : Nat) : Int)
    (if m = 0 then 0 else if n then -v else v) + sumUnits q t
  | _ :: t => sumUnits q t

/-- A term that is a zero of the given sign. -/
def Num.isZero (neg : Bool) : Num → Bool
  | .fin n m _ => decide (m = 0) && n == neg
  | _ => false

/-- A term that is an infinity of the given sign. -/
def Num.isInf (neg : Bool) : Num → Bool
  | .inf n => n == neg
  | _ => false

/-- The exact sum of terms (R66, R74, R75): the value, and whether it is invalid. -/
def exactSum (mode : Mode) (ts : List Num) : Num × Bool :=
  let posInf := ts.any (Num.isInf false)
  let negInf := ts.any (Num.isInf true)
  let nv := ts.any Num.isSig || (posInf && negInf)
  if ts.any Num.isNaN || (posInf && negInf) then (.nan false, nv)
  else if posInf then (.inf false, nv)
  else if negInf then (.inf true, nv)
  else
    let q := (minExp ts).getD 0
    let s := sumUnits q ts
    if s = 0 then
      let neg := if ts.all (Num.isZero true) then true
        else if ts.all (Num.isZero false) then false
        else decide (mode = .rd)
      (.fin neg 0 0, nv)
    else (.fin (decide (s < 0)) s.natAbs q, nv)

/-- A value delivered in a format: rounded once, canonical NaN, infinity, signed zero. An infinity
that E4M3 cannot hold is given by R82. -/
def deliver (f : Fmt) (mode : Mode) (sat : Bool) : Num → Nat × FlagSet
  | .nan _ => (f.nanBits, 0)
  | .inf n =>
    if f.hasInf then (f.infBits + f.signBits n, 0)
    else if sat then (f.maxBits + f.signBits n, flNV ||| flSA)
    else (f.nanBits, flNV)
  | .fin n m e => if m = 0 then (f.signBits n, 0) else roundMag f mode sat n m 1 e

/-- An exact sum delivered in a format, with NV when it is invalid. -/
def deliverSum (f : Fmt) (mode : Mode) (sat : Bool) (ts : List Num) : Nat × FlagSet :=
  let s := exactSum mode ts
  let d := deliver f mode sat s.1
  (d.1, d.2 ||| flIf s.2 flNV)

/-- A word result of a sum in FP32 (R101, R106). -/
def sum32 (mode : Mode) (ts : List Num) : Word × FlagSet :=
  let d := deliverSum fmtFP32 mode false ts
  (BitVec.ofNat 32 d.1, d.2)

/-- Conversion of a value to a format, NV for a signalling NaN (R113). -/
def convertTo (f : Fmt) (mode : Mode) (x : Num) : Nat × FlagSet :=
  let d := deliver f mode false x
  (d.1, d.2 ||| flIf x.isSig flNV)

/-- FP32 bits as an integer whose order is the order of the values; both zeros are 0. -/
def orderKey (w : Word) : Int :=
  let m : Int := ((w.toNat % 2 ^ 31 : Nat) : Int)
  if w.msb then -m else m

/-- minimumNumber and maximumNumber (R66, R102). -/
def fminmax (isMax : Bool) (a b : Word) : Word × FlagSet :=
  let x := f32 a
  let y := f32 b
  let fl := flIf (x.isSig || y.isSig) flNV
  if x.isNaN && y.isNaN then (0x7FC00000#32, fl)
  else if x.isNaN then (b, fl)
  else if y.isNaN then (a, fl)
  else
    let ka := orderKey a
    let kb := orderKey b
    let aLess := decide (ka < kb) || (decide (ka = kb) && a.msb)
    (if aLess != isMax then a else b, fl)

/-- FCMP (R49, R65): the bit and NV. -/
def fcmpBit (c : Nat) (a b : Word) : Bool × FlagSet :=
  let x := f32 a
  let y := f32 b
  let uno := x.isNaN || y.isNaN
  let sig := x.isSig || y.isSig
  let ka := orderKey a
  let kb := orderKey b
  match c with
  | 0 => (!uno && decide (ka = kb), flIf sig flNV)
  | 1 => (uno || decide (ka ≠ kb), flIf sig flNV)
  | 2 => (!uno && decide (ka < kb), flIf uno flNV)
  | 3 => (!uno && decide (ka ≤ kb), flIf uno flNV)
  | 4 => (!uno && decide (ka > kb), flIf uno flNV)
  | 5 => (!uno && decide (ka ≥ kb), flIf uno flNV)
  | 6 => (!uno, flIf sig flNV)
  | _ => (uno, flIf sig flNV)

/-- A finite value rounded to an integer under a mode, and whether it was exact (R73, R103). -/
def roundInt (mode : Mode) (n : Bool) (m : Nat) (e : Int) : Int × Bool :=
  let r := roundAt mode n m 1 e 0
  (if n then -(r.1 : Int) else (r.1 : Int), r.2)

/-- F2I and F2U (R73, R113). NX says that rounding changed the value, whether or not the integer is then in range
(DEDUCED, log 49). -/
def toIntWord (signed : Bool) (mode : Mode) (sat : Bool) (x : Num) : Word × FlagSet :=
  let lo : Int := if signed then -(2 ^ 31) else 0
  let hi : Int := if signed then 2 ^ 31 - 1 else 2 ^ 32 - 1
  let bad : Word := if signed then 0x80000000#32 else 0xFFFFFFFF#32
  let outside (v : Int) : Word × FlagSet := if sat then (BitVec.ofInt 32 v, flNV ||| flSA) else (bad, flNV)
  match x with
  | .nan _ => (if sat then 0 else bad, flNV)
  | .inf n => if n then outside lo else outside hi
  | .fin n m e =>
    let r := roundInt mode n m e
    let y : Word × FlagSet := if r.1 > hi then outside hi else if r.1 < lo then outside lo else (BitVec.ofInt 32 r.1, 0)
    (y.1, y.2 ||| flIf (!r.2) flNX)

/-- An integer as an exact value. -/
def numOfInt (i : Int) : Num := .fin (decide (i < 0)) i.natAbs 0

/-- FLOOR, CEIL, TRUNC and RINT (R103): the integral value keeps the sign of a. -/
def integral (mode : Mode) (a : Word) : Word × FlagSet :=
  match f32 a with
  | .nan s => (0x7FC00000#32, flIf s flNV)
  | .inf _ => (a, 0)
  | .fin n m e =>
    let r := roundInt mode n m e
    let d := if r.1 = 0 then (fmtFP32.signBits n, (0 : FlagSet))
      else roundMag fmtFP32 .rn false n r.1.natAbs 1 0
    (BitVec.ofNat 32 d.1, flIf (!r.2) flNX)

/-- FRACT (R103). -/
def fract (a : Word) : Word × FlagSet :=
  match f32 a with
  | .nan s => (0x7FC00000#32, flIf s flNV)
  | .inf _ => (0x7FC00000#32, flNV)
  | .fin n m e =>
    let fl := (roundInt .rd n m e).1
    if m = 0 then (0, 0)
    else
      let d := sum32 .rn [.fin n m e, (numOfInt fl).negate]
      if d.1.toNat > 0x3F7FFFFF then (0x3F7FFFFF#32, d.2) else d

/-- CLASS (R103). -/
def fclass (a : Word) : Word :=
  match f32 a with
  | .nan s => if s then 1 else 2
  | .inf n => if n then 4 else 512
  | .fin n m e =>
    if m = 0 then (if n then 32 else 64)
    else if e = 1 - 127 - 23 ∧ m < 2 ^ 23 then (if n then 16 else 128)
    else (if n then 8 else 256)

/-- LDEXP (R104). An exponent beyond ±1000 gives the same result as ±1000 does, and is brought there. -/
def ldexpWord (mode : Mode) (a b : Word) : Word × FlagSet :=
  let n : Int := max (-1000) (min 1000 b.toInt)
  match f32 a with
  | .nan s => (0x7FC00000#32, flIf s flNV)
  | .inf _ => (a, 0)
  | .fin s m e =>
    let d := deliver fmtFP32 mode false (.fin s m (e + n))
    (BitVec.ofNat 32 d.1, d.2)

/-- Fraction bits of the fixed-point numbers from which the SFU functions are rounded (R116): far more
than the distance from any inexact result to a rounding boundary. -/
def fxBits : Nat := 400

/-- e^x - 1 by its series: x is fixed-point below 1. -/
def expSeries (x : Nat) : Nat → Nat → Nat → Nat
  | 0, _, _ => 0
  | n + 1, k, term =>
    let t := (term * x) >>> fxBits / k
    t + expSeries x n (k + 1) t

/-- e^x in fixed point for x below 1. -/
def expFx (x : Nat) : Nat := 2 ^ fxBits + expSeries x 100 1 (2 ^ fxBits)

/-- Σ z^(2k+1) / (2k+1), with z = zn/zd. -/
def atanhSeries (zn zd : Nat) : Nat → Nat → Nat → Nat
  | 0, _, _ => 0
  | n + 1, k, p => p / k + atanhSeries zn zd n (k + 2) (p * zn * zn / (zd * zd))

/-- ln (num / den) in fixed point, for 1 ≤ num / den ≤ 2. -/
def lnFx (num den : Nat) : Nat :=
  2 * atanhSeries (num - den) (num + den) 140 1 ((num - den) * 2 ^ fxBits / (num + den))

/-- arctan (1/n) in fixed point. -/
def atanInv (n : Nat) : Nat → Nat → Nat → Int
  | 0, _, _ => 0
  | f + 1, k, p => ((p / k : Nat) : Int) - atanInv n f (k + 2) (p / (n * n))

/-- π in fixed point (Machin). -/
def piFx : Nat :=
  (16 * atanInv 5 100 1 (2 ^ fxBits / 5) - 4 * atanInv 239 40 1 (2 ^ fxBits / 239)).toNat

/-- Terms of the sine series. -/
def sinSeries (x2 : Nat) : Nat → Nat → Nat → Int
  | 0, _, _ => 0
  | f + 1, k, p => (p : Int) - sinSeries x2 f (k + 2) ((p * x2) >>> fxBits / ((k + 1) * (k + 2)))

/-- sin (π r) in fixed point for r in [0, 1/2]. -/
def sinFx (r : Nat) : Nat :=
  let x := (piFx * r) >>> fxBits
  (sinSeries ((x * x) >>> fxBits) 60 1 x).toNat

/-- An inexact positive value known in fixed point: a sticky bit is put below it and it is rounded
once. -/
def deliverFx (neg : Bool) (v den : Nat) : Word × FlagSet :=
  let d := roundMag fmtFP32 .rn false neg (2 * v + 1) den (-(fxBits : Int) - 1)
  (BitVec.ofNat 32 d.1, d.2 ||| flNX)

/-- An exact value rounded once to FP32 under RN. -/
def deliver32 (x : Num) : Word × FlagSet :=
  let d := deliver fmtFP32 .rn false x
  (BitVec.ofNat 32 d.1, d.2)

/-- The canonical FP32 NaN (R64). -/
def nan32 : Word := 0x7FC00000#32

/-- √(m × 2^e), rounded once: `inv` gives 1/√ (R117). -/
def sfuRoot (inv : Bool) (m : Nat) (e : Int) : Word × FlagSet :=
  let odd := e % 2 ≠ 0
  let m2 := if odd then 2 * m else m
  let e2 := if odd then (e - 1) / 2 else e / 2
  let k : Nat := 200
  if inv then
    let q := 2 ^ (2 * k) / m2
    let r := q.sqrt
    let exact := r * r * m2 = 2 ^ (2 * k)
    let d := roundMag fmtFP32 .rn false false (2 * r + (if exact then 0 else 1)) 1 (-e2 - k - 1)
    (BitVec.ofNat 32 d.1, d.2)
  else
    let n := m2 * 2 ^ (2 * k)
    let r := n.sqrt
    let exact := r * r = n
    let d := roundMag fmtFP32 .rn false false (2 * r + (if exact then 0 else 1)) 1 (e2 - k - 1)
    (BitVec.ofNat 32 d.1, d.2)

/-- 2^(±m × 2^e), rounded once; a magnitude above 256 acts as 256. -/
def sfuExp2 (n : Bool) (m : Nat) (e : Int) : Word × FlagSet :=
  let mag := if e ≥ 0 then (if m * 2 ^ (min e 16).toNat > 256 then 256 * 2 ^ fxBits else m * 2 ^ (e.toNat + fxBits))
    else min (256 * 2 ^ fxBits) (m * 2 ^ fxBits / 2 ^ (-e).toNat)
  let a : Int := if n then -(mag : Int) else (mag : Int)
  let ip := a / (2 ^ fxBits : Int)
  let fp := (a - ip * 2 ^ fxBits).toNat
  if fp = 0 then deliver32 (.fin false 1 ip)
  else
    let x := (fp * lnFx 2 1) >>> fxBits
    let d := roundMag fmtFP32 .rn false false (2 * expFx x + 1) 1 (ip - fxBits - 1)
    (BitVec.ofNat 32 d.1, d.2)

/-- log2 of a positive value. -/
def sfuLog2 (m : Nat) (e : Int) : Word × FlagSet :=
  let k := m.log2
  let ip : Int := e + k
  if m = 2 ^ k then deliver32 (numOfInt ip)
  else
    let fr := lnFx m (2 ^ k) * 2 ^ fxBits / lnFx 2 1
    let v : Int := ip * 2 ^ fxBits + fr
    deliverFx (decide (v < 0)) v.natAbs 1

/-- sin (π a) or cos (π a) for finite nonzero a (R117). -/
def sfuTrig (isCos : Bool) (n : Bool) (m : Nat) (e : Int) : Word × FlagSet :=
  let one := 2 ^ fxBits
  -- |a| in fixed point, reduced exactly modulo 2
  let r := if e ≥ 0 then (m * 2 ^ (min e 1).toNat % 2) * one else (m * one / 2 ^ (-e).toNat) % (2 * one)
  -- cos (π r) = sin (π (r + 1/2)); sine is odd
  let t := if isCos then (r + one / 2) % (2 * one) else r
  let sgn := decide (t ≥ one) != (n && !isCos)
  let u := t % one
  let v := if u > one / 2 then one - u else u
  if v = 0 then (if isCos then 0 else if n then 0x80000000#32 else 0, 0)
  else if v = one / 2 then (if sgn then 0xBF800000#32 else 0x3F800000#32, 0)
  else deliverFx sgn (sinFx v) 1

/-- e^(2a) - 1 over e^(2a) + 1 for positive a; a above 64 acts as 64. -/
def sfuTanh (n : Bool) (m : Nat) (e : Int) : Word × FlagSet :=
  let one := 2 ^ fxBits
  let mag := if e ≥ 0 then (if m * 2 ^ (min e 8).toNat > 64 then 64 * one else m * 2 ^ e.toNat * one)
    else min (64 * one) (m * one / 2 ^ (-e).toNat)
  let sq (x : Nat) : Nat := (x * x) >>> fxBits
  let x := expFx (2 * mag / 256)
  let big := sq (sq (sq (sq (sq (sq (sq (sq x)))))))
  deliverFx n ((big - one) * one / (big + one)) 1

/-- The SFU functions 0-7 (R116, R117). -/
def sfuWord (fn : Nat) (a : Word) : Word × FlagSet :=
  match f32 a with
  | .nan s => (nan32, flIf s flNV)
  | .inf n =>
    match fn with
    | 0 => (if n then 0x80000000#32 else 0, 0)
    | 1 => if n then (nan32, flNV) else (0, 0)
    | 2 => if n then (nan32, flNV) else (a, 0)
    | 3 => (if n then 0 else a, 0)
    | 4 => if n then (nan32, flNV) else (a, 0)
    | 5 => (nan32, flNV)
    | 6 => (nan32, flNV)
    | _ => (if n then 0xBF800000#32 else 0x3F800000#32, 0)
  | .fin n m e =>
    if m = 0 then
      match fn with
      | 0 => (if n then 0xFF800000#32 else 0x7F800000#32, flDZ)
      | 1 => (if n then 0xFF800000#32 else 0x7F800000#32, flDZ)
      | 2 => (a, 0)
      | 3 => (0x3F800000#32, 0)
      | 4 => (0xFF800000#32, flDZ)
      | 5 => (a, 0)
      | 6 => (0x3F800000#32, 0)
      | _ => (a, 0)
    else
      match fn with
      | 0 =>
        let d := roundMag fmtFP32 .rn false n 1 m (-e)
        (BitVec.ofNat 32 d.1, d.2)
      | 1 => if n then (nan32, flNV) else sfuRoot true m e
      | 2 => if n then (nan32, flNV) else sfuRoot false m e
      | 3 => sfuExp2 n m e
      | 4 => if n then (nan32, flNV) else sfuLog2 m e
      | 5 => sfuTrig false n m e
      | 6 => sfuTrig true n m e
      | _ => sfuTanh n m e

/-- The largest magnitude of FP32 words (R80): +0 of none, canonical NaN when one is a NaN. -/
def amax (ws : List Word) : Word × FlagSet :=
  if ws.any (fun w => (f32 w).isNaN) then (nan32, flIf (ws.any fun w => (f32 w).isSig) flNV)
  else (ws.foldl (fun m w => if (w &&& 0x7FFFFFFF#32).toNat > m.toNat then w &&& 0x7FFFFFFF#32 else m) 0, 0)

/-- QSCALE (R81). -/
def qscaleWord (compat : Bool) (a : Word) : Word × FlagSet :=
  match f32 a with
  | .nan _ => (nan32, flNV)
  | .inf _ => (0x7F800000#32, 0)
  | .fin _ m e =>
    if m = 0 then (0x3F800000#32, 0)
    else if compat then deliver32 (.fin false 1 (max (ratLog2 m 1 + e - 8) (-127)))
    else
      let d := roundMag fmtFP32 .ru false false m 448 e
      (BitVec.ofNat 32 d.1, d.2)

/-- One value of F8PACK (R82): the exact product with the reciprocal scale, to E4M3. -/
def packE4M3 (mode : Mode) (sat : Bool) (x rs : Num) : Nat × FlagSet :=
  deliverSum fmtE4M3 mode sat [x.mul rs]

/-- The counter generator (R83): the four output words. -/
def rngRounds : Nat → Word → Word → Word → Word → Word → Word → List Word
  | 0, _, _, c0, c1, c2, c3 => [c0, c1, c2, c3]
  | n + 1, k0, k1, c0, c1, c2, c3 =>
    let p0 : BitVec 64 := c0.zeroExtend 64 * 0xE817FB2D#64
    let p1 : BitVec 64 := c2.zeroExtend 64 * 0xA5CB9243#64
    rngRounds n (k0 + 0x61C88647#32) (k1 + 0x3C6EF372#32)
      (p1.extractLsb' 32 32 ^^^ c1 ^^^ k0) (p1.extractLsb' 0 32)
      (p0.extractLsb' 32 32 ^^^ c3 ^^^ k1) (p0.extractLsb' 0 32)

/-- The generator for a key and a counter. -/
def rngWords (k0 k1 c0 c1 c2 : Word) : List Word :=
  rngRounds 8 k0 k1 c0 c1 c2 0x58C31F27#32

/-- The operators of WRED and WSCAN (R48, R77). -/
def combOp (op : Nat) (a b : Word) : Word × FlagSet :=
  match op with
  | 0 => (a + b, 0)
  | 1 => (if a.toInt ≤ b.toInt then a else b, 0)
  | 2 => (if a.toInt ≤ b.toInt then b else a, 0)
  | 3 => (if a.toNat ≤ b.toNat then a else b, 0)
  | 4 => (if a.toNat ≤ b.toNat then b else a, 0)
  | 5 => (a &&& b, 0)
  | 6 => (a ||| b, 0)
  | 7 => (a ^^^ b, 0)
  | 8 => sum32 .rn [f32 a, f32 b]
  | 9 => fminmax false a b
  | _ => fminmax true a b

/-- The combining step: an absent side passes the other on (R77). -/
def comb (op : Nat) : Option Word → Option Word → Option Word × FlagSet
  | none, b => (b, 0)
  | a, none => (a, 0)
  | some a, some b => let r := combOp op a b; (some r.1, r.2)

/-- Neighbouring pairs combined: one level of the tree of R77. -/
def combPairs (op : Nat) : List (Option Word) → List (Option Word) × FlagSet
  | a :: b :: t =>
    let r := comb op a b
    let q := combPairs op t
    (r.1 :: q.1, r.2 ||| q.2)
  | l => (l, 0)

/-- The tree of R77 over 2^n leaves. -/
def combTree (op : Nat) : Nat → List (Option Word) → Option Word × FlagSet
  | 0, l => (l.head?.join, 0)
  | n + 1, l =>
    let r := combPairs op l
    let q := combTree op n r.1
    (q.1, r.2 ||| q.2)

/-- One step of WSCAN (R77): every position i ≥ d combines with i - d. -/
def scanStep (op d : Nat) (l : List (Option Word)) : List (Option Word) × FlagSet :=
  let rs := (List.range l.length).map fun i =>
    if i < d then ((l.getD i none), (0 : FlagSet)) else comb op (l.getD (i - d) none) (l.getD i none)
  (rs.map (·.1), rs.foldl (fun f r => f ||| r.2) 0)

/-- The five steps of WSCAN. -/
def scanAll (op : Nat) : Nat → Nat → List (Option Word) → List (Option Word) × FlagSet
  | 0, _, l => (l, 0)
  | n + 1, d, l =>
    let r := scanStep op d l
    let q := scanAll op n (2 * d) r.1
    (q.1, r.2 ||| q.2)

/-- The identity of an operator (R78). -/
def combIdentity (op : Nat) : Word :=
  match op with
  | 1 => 0x7FFFFFFF#32
  | 2 => 0x80000000#32
  | 3 => 0xFFFFFFFF#32
  | 5 => 0xFFFFFFFF#32
  | 8 => 0x80000000#32
  | 9 => 0x7F800000#32
  | 10 => 0xFF800000#32
  | _ => 0

/-- A result of a floating operator: a NaN is delivered canonical (R77, R126). -/
def canonWord (op : Nat) (w : Word) : Word :=
  if op ≥ 8 ∧ (f32 w).isNaN then nan32 else w

end Sys2Proof.Machine
end

