-- ==== Sys2Proof/Config.lean ====
section
/-! DEFINITION. The figures that are fixed for the XK-960 (R1, R6, R27, R308, R382-R384) and the free
values: constants with no body, so that nothing can be proved about a value the spec leaves open. -/

namespace Sys2Proof.Config

/-- Cores of the device (R1). -/
def nCores : Nat := 768
/-- Cores of a compute die (R1). -/
def coresPerDie : Nat := 96
/-- Sub-cores of a core (R1, R6). -/
def nSub : Nat := 6
/-- Wave slots of a sub-core (R1, R6). -/
def nSlots : Nat := 16
/-- Vector registers of a sub-core's file (R154). -/
def vectorFile : Nat := 2048
/-- Block memory of a core in bytes (R1). -/
def blockMemory : Nat := 524288
/-- Core cycles before an effect leaves the core (R21). -/
def strikeWindow : Nat := 256
/-- Device-local physical addresses lie below this (R206). -/
def paLimit : Nat := 2 ^ 40
/-- First address of the block-memory aperture (R203). -/
def aperture : Nat := 0xFFFFFFFFFF000000
/-- Lines of 128 bytes in a die's RDC of 32 MiB (R1). -/
def rdcLines : Nat := 262144
/-- Lines of 128 bytes in a die's L2 of 192 MiB (R1). -/
def l2Lines : Nat := 1572864
/-- Pseudo-channels of a die (R206). -/
def pcPerDie : Nat := 384
/-- Device ids of a Svacon domain (R357). -/
def nDevices : Nat := 993
/-- Descriptors of a copy queue and copies of a token (R244). -/
def copyDepth : Nat := 64
/-- Chunks of the Mantle buffer (R398). -/
def nChunks : Nat := 1024
/-- Mantle cycles before a chunk is lost (R410). -/
def chunkTimeout : Nat := 2 ^ 24

/-- Free value: a 32-bit value the spec does not give, numbered by `State.free` (log 9). -/
opaque freeWord : Nat → BitVec 32
/-- Free value: how far a core's cycle counter stands ahead of the model's count, since the cores leave reset at
times the spec does not give (R317; log 18). -/
opaque coreSkew : Nat → Nat
/-- Free value: one byte the spec does not give, by number and place (log 9, log 12). -/
opaque freeByte : Nat → Nat → BitVec 8
/-- Free value: the rank of a lane in an order the spec leaves undefined (R215, R218; log 10, log 11). -/
opaque freeRank : Nat → Nat → Nat
/-- Free value: the order in which a ray query visits the children of a node (R278, R283, R286; log 19). -/
opaque freeChildRank : Nat → Nat → Nat
/-- Free value: how many steal requests answered with none an idle core has sent since the one before (R309: the time of
a request and its answer is not given; log 2). -/
opaque freeSteals : Nat → Nat
/-- Free value: the SHA-256 of the verification public key that is fused at manufacture (R467; log 21). -/
opaque fusedKey : List (BitVec 8)
/-- Free value: the least VERSION of an image, fused at manufacture (R467; log 21). -/
opaque fusedVersion : Nat
/-- Free value: the verification public key that a firmware image carries, as 64 bytes (R467; log 21: the layout of an
image is not in the spec). -/
opaque imageKey : List (BitVec 8) → Vector (BitVec 8) 64
/-- Free value: VERSION of a firmware image (R467; log 21). -/
opaque imageVersion : List (BitVec 8) → Nat
/-- Free value: the bytes of a firmware image that its signature covers (R467; log 21). -/
opaque imageBody : List (BitVec 8) → List (BitVec 8)
/-- Free value: the signature in a firmware image, r and s (R467; log 21). -/
opaque imageSignature : List (BitVec 8) → Nat × Nat
/-- Free value: the unit a firmware image is for (R452, R467; log 21). -/
opaque imageUnit : List (BitVec 8) → Nat
/-- Free value: the digests of the boot code, 0, and of the controller firmware, 1, that the device is made with (R468;
log 21). -/
opaque measurement : Nat → BitVec 256
/-- Free value: the signature of the device identity key over a report (R468; log 21). -/
opaque identitySign : List (BitVec 8) → BitVec 512

end Sys2Proof.Config
end

