-- ==== Sys2Proof/Machine/Map.lean ====
section
/-! DEFINITION. Sparse storage in one canonical form: a list of (index, value) pairs with indexes
strictly rising and no value equal to the default, so that equal contents are equal lists. Memories,
register files, block memory, windows and tiles are all held so. -/

namespace Sys2Proof.Machine

/-- Sparse contents: index and value, canonical (`cellsWf`). -/
abbrev Cells (α : Type) := List (Nat × α)

/-- What index `k` holds; an unlisted index holds the default `d`. -/
def getAt {α : Type} (d : α) : Cells α → Nat → α
  | [], _ => d
  | (a, v) :: t, k => if a = k then v else getAt d t k

/-- The contents without index `k`. -/
def dropKey {α : Type} (m : Cells α) (k : Nat) : Cells α := m.filter fun e => e.1 != k

/-- Store `v` at index `k`; storing the default removes the entry. -/
def setAt {α : Type} [DecidableEq α] (d : α) : Cells α → Nat → α → Cells α
  | [], k, v => if v = d then [] else [(k, v)]
  | (a, u) :: t, k, v =>
    if k < a then (if v = d then dropKey ((a, u) :: t) k else (k, v) :: (a, u) :: t)
    else if k = a then (if v = d then dropKey t k else (k, v) :: t)
    else (a, u) :: setAt d t k v

/-- Every index of the list is above `k`. -/
def cellsAbove {α : Type} (k : Nat) : Cells α → Bool
  | [] => true
  | (a, _) :: _ => k < a

/-- The canonical form: indexes strictly rising, no entry equal to the default. -/
def cellsWf {α : Type} [DecidableEq α] (d : α) : Cells α → Bool
  | [] => true
  | (a, v) :: t => decide (v ≠ d) && cellsAbove a t && cellsWf d t

/-- Store a list of values at consecutive indexes from `k`. -/
def setRun {α : Type} [DecidableEq α] (d : α) (m : Cells α) (k : Nat) : List α → Cells α
  | [] => m
  | v :: vs => setRun d (setAt d m k v) (k + 1) vs

/-- The `n` values at consecutive indexes from `k`. -/
def getRun {α : Type} (d : α) (m : Cells α) (k n : Nat) : List α :=
  (List.range n).map fun i => getAt d m (k + i)

/-- The entry of an association list that `p` finds, or a default. -/
def findD {α : Type} (p : α → Bool) (d : α) (l : List α) : α := (l.find? p).getD d

/-- Replace the first element that `p` finds by its image; append `d`'s image when none is found. -/
def upsert {α : Type} (p : α → Bool) (d : α) (f : α → α) : List α → List α
  | [] => [f d]
  | x :: xs => if p x then f x :: xs else x :: upsert p d f xs

/-- Apply `f` to the first element that `p` finds. -/
def updFirst {α : Type} (p : α → Bool) (f : α → α) : List α → List α
  | [] => []
  | x :: xs => if p x then f x :: xs else x :: updFirst p f xs

/-- Element `i` replaced by its image. -/
def updIdx {α : Type} (i : Nat) (f : α → α) : List α → List α
  | [] => []
  | x :: xs => match i with
    | 0 => f x :: xs
    | j + 1 => x :: updIdx j f xs

end Sys2Proof.Machine
end

