-- ==== Sys2Proof/Syntax.lean ====
section
/-! DEFINITION. The instructions of the XK-960 as syntax: one constructor for each row of
spec/opcode_table.json. The encoded words carry the fields of their format (R36, R50-R55); the
device's other steps (95_what_each_step_holds.md) carry the operands their rule names. -/

namespace Sys2Proof

/-- A Svacon flit (R365): the header fields and the payload bytes. -/
structure Flit where
  typ : BitVec 4
  hop : BitVec 2
  dst : BitVec 10
  src : BitVec 10
  via : BitVec 10
  tagIdx : BitVec 10
  tagGen : BitVec 3
  ctx : BitVec 6
  cls : BitVec 7
  cvc : BitVec 3
  ccnt : BitVec 7
  lack : BitVec 4
  sec : BitVec 2
  lseq : BitVec 11
  payload : List Byte
  deriving DecidableEq, Repr

/-- What the sensors read (R462, R469): module input power in mW, a die's hottest sensor in °C, the coolant inlet in
m°C. -/
structure Reading where
  power : Nat
  temp : Nat
  coolin : Nat
  deriving DecidableEq, Repr

/-- What one HBM4E burst sequence meets outside the controller (R445-R448): how many attempts
fail parity, the first failing beat and parity halves, the lane a lane test would find, the array
status, and the place the stack reports (its own layout, 21_prog_dram.md). -/
structure Burst where
  fails : Nat
  beat : BitVec 4
  half : BitVec 2
  lane : Option (BitVec 6)
  corrected : Bool
  uncorrectable : Bool
  bit : BitVec 9
  bank : BitVec 4
  row : BitVec 18
  burst : BitVec 6
  deriving DecidableEq, Repr

/-- The SRAM word in which a double-bit error is found, and who reads it (R449, R450). -/
inductive SramWord where
  /-- Eight bytes of a line of a core's L1. -/
  | l1 (core ctx line word : Nat)
  /-- A line of a core's instruction cache. -/
  | icache (core ctx line : Nat)
  /-- A line of a core's ray node cache. -/
  | ray (core ctx line : Nat)
  /-- A leaf in the translation cache of a core, or of a die. -/
  | tlb (core : Option Nat) (die ctx page : Nat) (big : Bool)
  /-- Eight bytes of a line of the home L2. -/
  | l2 (line word : Nat)
  /-- A line of a die's remote data cache, borrowed when it names a context. -/
  | rdc (die : Nat) (ctx : Option Nat) (dev line : Nat)
  /-- Words of structure 3, 4, 6 or 7 that lanes of a wave read. -/
  | lanes (kind b wv : Nat) (mask : BitVec 32)
  /-- A scalar register or a predicate that a wave reads. -/
  | scalar (b wv : Nat)
  /-- A word of structure 3, 6 or 7 that a matrix stream reads. -/
  | stream (kind b : Nat)
  /-- A chunk in the Mantle buffer that the next step of a communicator reads. -/
  | mantle (id : Nat)
  deriving DecidableEq, Repr

/-- Which access of a wave's lanes meets an abort, so that none of one that a rollback has discarded is taken for
another's (R439). -/
inductive Access where
  /-- A vector load, ALD or TLD, by the time it issued. -/
  | load (issued : Nat)
  /-- The wave's oldest atomic that has left the core. -/
  | atom
  /-- A store to another device, by its request. -/
  | store (rid : Nat)
  /-- A ray query, by the time it is due. -/
  | ray (due : Nat)
  /-- A WAITV that waits, by the time it issued. -/
  | waitv (issued : Nat)
  deriving DecidableEq, Repr

/-- Whose access a withheld datum belongs to (the consumer column of R437). -/
inductive AbortSite where
  /-- The lanes of a wave's vector load, atomic, TLD, WAITV read, ray query or remote store (R161, R235). -/
  | lanes (b wv : Nat) (acc : Access) (mask : BitVec 32)
  /-- SLDW, SLDD or LAUNCH packet read of a part, by the time it issued: every live lane of the part. -/
  | part (b wv part issued : Nat)
  /-- The next sector of the core's oldest copy (R248). -/
  | copy (core : Nat)
  /-- A matrix-stream fetch or read (R257). -/
  | stream (b : Nat)
  /-- A save-area read during a restore (R335 reason 9). -/
  | save (b : Nat)
  /-- A launch set-table or memory-wait read (R300). -/
  | launch (l : Nat)
  /-- A chunk the Mantle reads for a communicator (R410, R411). -/
  | mantle (id : Nat)
  /-- An SRAM word that SECDED corrects, on a die or (8) on the I/O die: nothing is withheld (R442, R449). -/
  | corrected (die : Nat)
  /-- An SRAM word found uncorrectable, with its index (R449). -/
  | sram (w : SramWord) (index : BitVec 64)
  deriving DecidableEq, Repr

/-- One step of the XK-960: an encoded word, or one of the device's own steps. -/
inductive Instr where
  /-- IADD (R93). Adds two vector operands per executing lane, with optional signed saturation under XC SAT. -/
  | iadd (n : Bool) (d : BitVec 8) (a : BitVec 8) (b : BitVec 8)
  /-- ISUB (R93). Subtracts B from A per executing lane, with optional signed saturation. -/
  | isub (n : Bool) (d : BitVec 8) (a : BitVec 8) (b : BitVec 8)
  /-- IMUL (R93). Writes the low 32 bits of A times B per lane. -/
  | imul (n : Bool) (d : BitVec 8) (a : BitVec 8) (b : BitVec 8)
  /-- IMULHS (R93). Writes the high 32 bits of the signed 64-bit product. -/
  | imulhs (n : Bool) (d : BitVec 8) (a : BitVec 8) (b : BitVec 8)
  /-- IMULHU (R93). Writes the high 32 bits of the unsigned 64-bit product. -/
  | imulhu (n : Bool) (d : BitVec 8) (a : BitVec 8) (b : BitVec 8)
  /-- IMAD (R93). Writes A times B plus C modulo 2^32 per lane. -/
  | imad (n : Bool) (d : BitVec 8) (a : BitVec 8) (b : BitVec 8)
  /-- IMIN (R93). Writes the signed minimum of A and B. -/
  | imin (n : Bool) (d : BitVec 8) (a : BitVec 8) (b : BitVec 8)
  /-- IMAX (R93). Writes the signed maximum of A and B. -/
  | imax (n : Bool) (d : BitVec 8) (a : BitVec 8) (b : BitVec 8)
  /-- UMIN (R93). Writes the unsigned minimum of A and B. -/
  | umin (n : Bool) (d : BitVec 8) (a : BitVec 8) (b : BitVec 8)
  /-- UMAX (R93). Writes the unsigned maximum of A and B. -/
  | umax (n : Bool) (d : BitVec 8) (a : BitVec 8) (b : BitVec 8)
  /-- AND (R93). Writes the bitwise AND of A and B. -/
  | and (n : Bool) (d : BitVec 8) (a : BitVec 8) (b : BitVec 8)
  /-- OR (R93). Writes the bitwise OR of A and B. -/
  | or (n : Bool) (d : BitVec 8) (a : BitVec 8) (b : BitVec 8)
  /-- XOR (R93). Writes the bitwise XOR of A and B. -/
  | xor (n : Bool) (d : BitVec 8) (a : BitVec 8) (b : BitVec 8)
  /-- ANDN (R93). Writes A AND NOT B. -/
  | andn (n : Bool) (d : BitVec 8) (a : BitVec 8) (b : BitVec 8)
  /-- SHL (R93). Shifts A left by B[4:0]. -/
  | shl (n : Bool) (d : BitVec 8) (a : BitVec 8) (b : BitVec 8)
  /-- SHR (R93). Shifts A right logically by B[4:0]. -/
  | shr (n : Bool) (d : BitVec 8) (a : BitVec 8) (b : BitVec 8)
  /-- SAR (R93). Shifts A right arithmetically by B[4:0]. -/
  | sar (n : Bool) (d : BitVec 8) (a : BitVec 8) (b : BitVec 8)
  /-- ROTL (R93). Rotates A left by B[4:0]. -/
  | rotl (n : Bool) (d : BitVec 8) (a : BitVec 8) (b : BitVec 8)
  /-- IUN (R96). Applies the unary integer function selected by the function code to A. -/
  | iun (n : Bool) (d : BitVec 8) (a : BitVec 8) (f : BitVec 8)
  /-- BFX (R97). Extracts a zero-extended bit field of A at the per-lane offset and width in B. -/
  | bfx (n : Bool) (d : BitVec 8) (a : BitVec 8) (b : BitVec 8)
  /-- BFI (R97). Inserts the low bits of A into C at the per-lane field given by B. -/
  | bfi (n : Bool) (d : BitVec 8) (a : BitVec 8) (b : BitVec 8)
  /-- IADDI (R95). Adds a sign-extended immediate to A. -/
  | iaddi (n : Bool) (d : BitVec 8) (a : BitVec 8) (i : BitVec 8)
  /-- SHLI (R95). Shifts A left by an immediate 0-31. -/
  | shli (n : Bool) (d : BitVec 8) (a : BitVec 8) (i : BitVec 5)
  /-- SHRI (R95). Shifts A right logically by an immediate 0-31. -/
  | shri (n : Bool) (d : BitVec 8) (a : BitVec 8) (i : BitVec 5)
  /-- SARI (R95). Shifts A right arithmetically by an immediate 0-31. -/
  | sari (n : Bool) (d : BitVec 8) (a : BitVec 8) (i : BitVec 5)
  /-- ANDI (R95). ANDs A with a sign-extended immediate. -/
  | andi (n : Bool) (d : BitVec 8) (a : BitVec 8) (i : BitVec 8)
  /-- ORI (R95). ORs A with a sign-extended immediate. -/
  | ori (n : Bool) (d : BitVec 8) (a : BitVec 8) (i : BitVec 8)
  /-- XORI (R95). XORs A with a sign-extended immediate. -/
  | xori (n : Bool) (d : BitVec 8) (a : BitVec 8) (i : BitVec 8)
  /-- MOVI (R98). Writes a sign-extended immediate to each executing lane. -/
  | movi (n : Bool) (d : BitVec 8) (i : BitVec 16)
  /-- MOVHI (R98). Replaces the high half of the destination with imm16, keeping its low half. -/
  | movhi (d : BitVec 8) (i : BitVec 16)
  /-- MOV (R98). Copies A, possibly permuted by XP, into the destination. -/
  | mov (n : Bool) (d : BitVec 8) (a : BitVec 8)
  /-- ICMP (R99). Compares A and B as integers per lane and writes the result into a predicate. -/
  | icmp (c : BitVec 4) (p : BitVec 4) (w : Bool) (a : BitVec 8) (b : BitVec 8)
  /-- FADD (R101). Adds two FP32 operands with one rounding. -/
  | fadd (n : Bool) (d : BitVec 8) (a : BitVec 8) (b : BitVec 8)
  /-- FSUB (R101). Subtracts FP32 operands with one rounding. -/
  | fsub (n : Bool) (d : BitVec 8) (a : BitVec 8) (b : BitVec 8)
  /-- FMUL (R101). Multiplies FP32 operands with one rounding. -/
  | fmul (n : Bool) (d : BitVec 8) (a : BitVec 8) (b : BitVec 8)
  /-- FFMA (R101). Forms A times B plus C in FP32 with one rounding. -/
  | ffma (n : Bool) (d : BitVec 8) (a : BitVec 8) (b : BitVec 8)
  /-- FMIN (R102). Writes the IEEE minimumNumber of two FP32 operands. -/
  | fmin (n : Bool) (d : BitVec 8) (a : BitVec 8) (b : BitVec 8)
  /-- FMAX (R102). Writes the IEEE maximumNumber of two FP32 operands. -/
  | fmax (n : Bool) (d : BitVec 8) (a : BitVec 8) (b : BitVec 8)
  /-- FUN (R103). Applies the unary floating-point function selected by the function code. -/
  | fun (n : Bool) (d : BitVec 8) (a : BitVec 8) (f : BitVec 8)
  /-- FCMP (R99). Compares A and B as FP32 and writes the result into a predicate. -/
  | fcmp (c : BitVec 4) (p : BitVec 4) (w : Bool) (a : BitVec 8) (b : BitVec 8)
  /-- SEL (R100). Selects A or B per lane by the predicate named in the XC. -/
  | sel (n : Bool) (d : BitVec 8) (a : BitVec 8) (b : BitVec 8)
  /-- BADD2 (R105). Adds packed BF16 pairs element by element. -/
  | badd2 (n : Bool) (d : BitVec 8) (a : BitVec 8) (b : BitVec 8)
  /-- BMUL2 (R105). Multiplies packed BF16 pairs element by element. -/
  | bmul2 (n : Bool) (d : BitVec 8) (a : BitVec 8) (b : BitVec 8)
  /-- BFMA2 (R105). Fused multiply-add on packed BF16 pairs. -/
  | bfma2 (n : Bool) (d : BitVec 8) (a : BitVec 8) (b : BitVec 8)
  /-- HADD2 (R105). Adds packed FP16 pairs element by element. -/
  | hadd2 (n : Bool) (d : BitVec 8) (a : BitVec 8) (b : BitVec 8)
  /-- HMUL2 (R105). Multiplies packed FP16 pairs element by element. -/
  | hmul2 (n : Bool) (d : BitVec 8) (a : BitVec 8) (b : BitVec 8)
  /-- HFMA2 (R105). Fused multiply-add on packed FP16 pairs. -/
  | hfma2 (n : Bool) (d : BitVec 8) (a : BitVec 8) (b : BitVec 8)
  /-- DOT4I (R106). Sums four signed INT8 products and C modulo 2^32. -/
  | dot4i (n : Bool) (d : BitVec 8) (a : BitVec 8) (b : BitVec 8)
  /-- DOT2B (R106). Sums two BF16 products and FP32 C exactly and rounds once. -/
  | dot2b (n : Bool) (d : BitVec 8) (a : BitVec 8) (b : BitVec 8)
  /-- DOT4F8 (R106). Sums four E4M3 products and FP32 C exactly and rounds once. -/
  | dot4f8 (n : Bool) (d : BitVec 8) (a : BitVec 8) (b : BitVec 8)
  /-- LDEXP (R104). Scales an FP32 value by 2^n with one rounding. -/
  | ldexp (n : Bool) (d : BitVec 8) (a : BitVec 8) (b : BitVec 8)
  /-- CVT (R112). Converts between number formats as the function code selects. -/
  | cvt (n : Bool) (d : BitVec 8) (a : BitVec 8) (f : BitVec 8)
  /-- F8PACK (R114). Scales four FP32 registers by a reciprocal scale and packs them as E4M3 bytes. -/
  | f8pack (n : Bool) (d : BitVec 8) (a : BitVec 8) (b : BitVec 8)
  /-- F8UNPK (R115). Unpacks four E4M3 bytes into four FP32 registers times a scale. -/
  | f8unpk (d : BitVec 8) (a : BitVec 8) (b : BitVec 8)
  /-- SFU (R116). Evaluates the correctly rounded transcendental function selected by the function code. -/
  | sfu (n : Bool) (d : BitVec 8) (a : BitVec 8) (f : BitVec 8)
  /-- QAMAX (R118). Writes the largest magnitude over four registers of executing lanes to an S register. -/
  | qamax (d : BitVec 8) (a : BitVec 8)
  /-- QSCALE (R119). Forms a native or compatibility block scale from an S register. -/
  | qscale (d : BitVec 8) (a : BitVec 8) (m : Bool)
  /-- RNG (R120). Writes four words of the counter generator per lane. -/
  | rng (d : BitVec 8) (a : BitVec 8) (b : BitVec 8)
  /-- SHFL (R122). Gathers A from the lane that B names. -/
  | shfl (n : Bool) (d : BitVec 8) (a : BitVec 8) (b : BitVec 8)
  /-- PERM (R123). Scatters A to the lane that B names. -/
  | perm (n : Bool) (d : BitVec 8) (a : BitVec 8) (b : BitVec 8)
  /-- VOTE (R124). Writes ANY, ALL or UNI of a predicate over executing lanes. -/
  | vote (c : BitVec 4) (p : BitVec 4) (w : Bool) (s : BitVec 4)
  /-- BALLOT (R125). Writes a mask of executing lanes whose predicate is true to an S register. -/
  | ballot (d : BitVec 8) (p : BitVec 4)
  /-- WRED (R126). Reduces A over executing lanes by a fixed tree into an S register. -/
  | wred (d : BitVec 8) (a : BitVec 8) (f : BitVec 8)
  /-- WSCAN (R127). Writes the inclusive prefix of A over present lanes. -/
  | wscan (n : Bool) (d : BitVec 8) (a : BitVec 8) (f : BitVec 8)
  /-- V2S (R128). Copies one lane of A into an S register. -/
  | v2s (d : BitVec 8) (a : BitVec 8) (l : BitVec 5)
  /-- S2V (R128). Copies an S register into every executing lane. -/
  | s2v (n : Bool) (d : BitVec 8) (a : BitVec 8)
  /-- SADD (R134). Adds two scalar registers. -/
  | sadd (d : BitVec 8) (a : BitVec 8) (b : BitVec 8)
  /-- SSUB (R134). Subtracts two scalar registers. -/
  | ssub (d : BitVec 8) (a : BitVec 8) (b : BitVec 8)
  /-- SMUL (R134). Multiplies two scalar registers modulo 2^32. -/
  | smul (d : BitVec 8) (a : BitVec 8) (b : BitVec 8)
  /-- SAND (R134). Bitwise AND of two scalar registers. -/
  | sand (d : BitVec 8) (a : BitVec 8) (b : BitVec 8)
  /-- SOR (R134). Bitwise OR of two scalar registers. -/
  | sor (d : BitVec 8) (a : BitVec 8) (b : BitVec 8)
  /-- SXOR (R134). Bitwise XOR of two scalar registers. -/
  | sxor (d : BitVec 8) (a : BitVec 8) (b : BitVec 8)
  /-- SSHL (R134). Shifts a scalar register left. -/
  | sshl (d : BitVec 8) (a : BitVec 8) (b : BitVec 8)
  /-- SSHR (R134). Shifts a scalar register right logically. -/
  | sshr (d : BitVec 8) (a : BitVec 8) (b : BitVec 8)
  /-- SSAR (R134). Shifts a scalar register right arithmetically. -/
  | ssar (d : BitVec 8) (a : BitVec 8) (b : BitVec 8)
  /-- SMIN (R134). Signed minimum of two scalar registers. -/
  | smin (d : BitVec 8) (a : BitVec 8) (b : BitVec 8)
  /-- SMAX (R134). Signed maximum of two scalar registers. -/
  | smax (d : BitVec 8) (a : BitVec 8) (b : BitVec 8)
  /-- SADDI (R136). Adds a sign-extended immediate to a scalar register. -/
  | saddi (d : BitVec 8) (a : BitVec 8) (i : BitVec 8)
  /-- SMOVI (R136). Writes a sign-extended immediate to a scalar register. -/
  | smovi (d : BitVec 8) (i : BitVec 16)
  /-- SCMP (R138). Compares two scalar registers and writes the bit to all 32 lanes of a predicate. -/
  | scmp (c : BitVec 4) (p : BitVec 4) (w : Bool) (a : BitVec 8) (b : BitVec 8)
  /-- SADD64 (R135). Adds two 64-bit scalar pairs. -/
  | sadd64 (d : BitVec 8) (a : BitVec 8) (b : BitVec 8)
  /-- SSEL (R139). Selects one of two scalar registers by the lead lane's predicate. -/
  | ssel (d : BitVec 8) (a : BitVec 8) (b : BitVec 8)
  /-- TLD (R143). Loads 16 bytes per executing lane into a tile register. -/
  | tld (t : BitVec 5) (v : BitVec 8) (n : BitVec 5)
  /-- TST (R143). Stores 16 bytes per executing lane of a tile register. -/
  | tst (t : BitVec 5) (v : BitVec 8) (n : BitVec 5)
  /-- TMMA (R147). Accumulates a 16x16 fragment product of two tiles into eight vector registers. -/
  | tmma (d : BitVec 8) (a : BitVec 5) (b : BitVec 5) (t : BitVec 4)
  /-- TMMAC (R148). Accumulates a complex 8x16 fragment product into eight vector registers. -/
  | tmmac (d : BitVec 8) (a : BitVec 5) (b : BitVec 5) (t : BitVec 4)
  /-- TZERO (R144). Clears all 512 bytes of a tile in every lane. -/
  | tzero (t : BitVec 5)
  /-- TMOV (R145). Moves 16 bytes per lane between a tile and four vector registers. -/
  | tmov (r : Bool) (v : BitVec 8) (t : BitVec 5)
  /-- MOVL (R98). Writes the following literal word to each executing lane. -/
  | movl (n : Bool) (d : BitVec 8) (lit : BitVec 32)
  /-- SMOVL (R137). Writes the following literal word to a scalar register. -/
  | smovl (d : BitVec 8) (lit : BitVec 32)
  /-- LDB (R234). Loads a zero-extended byte per executing lane. -/
  | ldb (d : BitVec 8) (v : BitVec 8) (n : BitVec 5) (i : BitVec 3) (z : Bool)
  /-- LDH (R234). Loads a zero-extended halfword per executing lane. -/
  | ldh (d : BitVec 8) (v : BitVec 8) (n : BitVec 5) (i : BitVec 3) (z : Bool)
  /-- LDW (R234). Loads a word per executing lane. -/
  | ldw (d : BitVec 8) (v : BitVec 8) (n : BitVec 5) (i : BitVec 3) (z : Bool)
  /-- LDD (R234). Loads eight bytes per executing lane into two registers. -/
  | ldd (d : BitVec 8) (v : BitVec 8) (n : BitVec 5) (i : BitVec 3) (z : Bool)
  /-- LDQ (R234). Loads sixteen bytes per executing lane into four registers. -/
  | ldq (d : BitVec 8) (v : BitVec 8) (n : BitVec 5) (i : BitVec 3) (z : Bool)
  /-- STB (R234). Stores a byte per executing lane. -/
  | stb (d : BitVec 8) (v : BitVec 8) (n : BitVec 5) (i : BitVec 3) (z : Bool)
  /-- STH (R234). Stores a halfword per executing lane. -/
  | sth (d : BitVec 8) (v : BitVec 8) (n : BitVec 5) (i : BitVec 3) (z : Bool)
  /-- STW (R234). Stores a word per executing lane. -/
  | stw (d : BitVec 8) (v : BitVec 8) (n : BitVec 5) (i : BitVec 3) (z : Bool)
  /-- STD (R234). Stores eight bytes per executing lane. -/
  | std (d : BitVec 8) (v : BitVec 8) (n : BitVec 5) (i : BitVec 3) (z : Bool)
  /-- STQ (R234). Stores sixteen bytes per executing lane. -/
  | stq (d : BitVec 8) (v : BitVec 8) (n : BitVec 5) (i : BitVec 3) (z : Bool)
  /-- SLDW (R234). Loads one word into a scalar register. -/
  | sldw (d : BitVec 8) (n : BitVec 5) (i : BitVec 3)
  /-- SLDD (R234). Loads eight bytes into a scalar register pair. -/
  | sldd (d : BitVec 8) (n : BitVec 5) (i : BitVec 3)
  /-- ATOM (R236). Performs an atomic read-modify-write per lane and returns the old value. -/
  | atom (f : BitVec 4) (d : BitVec 8) (v : BitVec 8) (n : BitVec 5)
  /-- ATOMN (R236). Performs an atomic read-modify-write per lane without returning a value. -/
  | atomn (f : BitVec 4) (d : BitVec 8) (v : BitVec 8) (n : BitVec 5)
  /-- FENCE (R238). Orders memory and named engine queues at a scope and holds the wave until it completes. -/
  | fence (s : BitVec 2) (k : BitVec 2) (m : BitVec 5)
  /-- DRAIN (R239). Waits until the core's accepted copies to the named paths have performed every write. -/
  | drain (p : BitVec 5)
  /-- COPY (R246). Hands a strided copy descriptor to the copy engine on a token. -/
  | copy (b : BitVec 9) (k : BitVec 3)
  /-- COPYG (R246). Hands a per-lane gather copy to the copy engine. -/
  | copyg (b : BitVec 9) (k : BitVec 3) (i : BitVec 8)
  /-- COPYS (R246). Hands a per-lane scatter copy to the copy engine. -/
  | copys (b : BitVec 9) (k : BitVec 3) (i : BitVec 8)
  /-- KSTAT (R251). Writes a copy token's status to an S register. -/
  | kstat (d : BitVec 9) (k : BitVec 3)
  /-- RAYQ (R279). Starts one BVH ray query per executing lane. -/
  | rayq (q : BitVec 8) (r : BitVec 8) (n : BitVec 5) (f : BitVec 3)
  /-- ALD (R267). Loads accumulator-window elements or the saturation count per lane. -/
  | ald (v : BitVec 8) (o : BitVec 8) (w : BitVec 8)
  /-- AST (R267). Stores accumulator-window elements or the saturation count per lane. -/
  | ast (v : BitVec 8) (o : BitVec 8) (w : BitVec 8)
  /-- CSEND (R391). Issues a send of bytes into a communicator's send stream. -/
  | csend (b : BitVec 9) (k : BitVec 3)
  /-- COLL (R390). Issues a collective operation to the Mantle. -/
  | coll (b : BitVec 9) (k : BitVec 3)
  /-- WREC_POST (R416). Posts one work record per executing lane to a peer device against its credits. -/
  | wrecPost (p : BitVec 4) (v : BitVec 8) (q : BitVec 8)
  /-- WREC_TAKE (R416). Takes the oldest received work record per executing lane. -/
  | wrecTake (p : BitVec 4) (v : BitVec 8)
  /-- WREC_RETURN (R416). Returns taken slots to their senders. -/
  | wrecReturn
  /-- BRA (R180). Branches the whole split by the lead lane's predicate. -/
  | bra (p : BitVec 4) (g : Bool) (s : BitVec 18)
  /-- BRC (R181). Branches per lane, dividing or joining splits when lanes disagree. -/
  | brc (p : BitVec 4) (g : Bool) (s : BitVec 18)
  /-- CALL (R179). Pushes a return entry and branches the split. -/
  | call (p : BitVec 4) (g : Bool) (s : BitVec 18)
  /-- RCV (R156). Pushes the current reconvergence address and sets a new one. -/
  | rcv (s : BitVec 18)
  /-- NOP (R186). Does nothing. -/
  | nop
  /-- RET (R183). Pops a return entry and branches to it. -/
  | ret
  /-- EXIT (R187). Ends the executing lanes of the split. -/
  | exit
  /-- YIELD (R186). Lets the slot pass the wave over at its next choice. -/
  | yield
  /-- TRAP (R189). Parks the wave and writes a service-call request entry for the host. -/
  | trap (c : BitVec 16)
  /-- BKPT (R192). Halts the block with cause breakpoint. -/
  | bkpt (c : BitVec 16)
  /-- BAR (R193). Arrives at a block barrier, optionally waiting for its phase. -/
  | bar (b : BitVec 4) (w : Bool)
  /-- GSYNC (R195). Arrives at a set barrier and waits for the phase. -/
  | gsync (s : BitVec 8)
  /-- MBAR (R196). Waits at, arrives at, or syncs on the wave side of a matrix barrier. -/
  | mbar (b : BitVec 4) (m : BitVec 2)
  /-- WAITV (R197). Waits until a memory word compares true with an S register. -/
  | waitv (n : BitVec 5) (c : BitVec 3) (k : BitVec 3) (v : BitVec 8)
  /-- STEP (R344). Records the wave's step number and reports it during a cut. -/
  | step (n : BitVec 19)
  /-- LAUNCH (R313). Reads a launch packet from memory and enters it into a launch queue. -/
  | launch (n : BitVec 5) (q : BitVec 4)
  /-- GROW (R314). Adds blocks to the grid's live block count. -/
  | grow (i : BitVec 8) (d : BitVec 8)
  /-- CHSEND (R198). Appends one entry to a block channel for the whole wave. -/
  | chsend (c : BitVec 4) (d : BitVec 8)
  /-- CHRECV (R198). Takes the oldest entry of a block channel for the whole wave. -/
  | chrecv (c : BitVec 4) (d : BitVec 8) (p : BitVec 4)
  /-- CHCLOSE (R198). Closes a block channel. -/
  | chclose (c : BitVec 4)
  /-- PREF (R241). Prefetches lines into the L1, home L2 or RDC. -/
  | pref (n : BitVec 5) (o : BitVec 8) (l : BitVec 2)
  /-- CINV (R242). Writes back and invalidates named or all L1 lines of the context. -/
  | cinv (n : BitVec 5) (o : BitVec 8) (a : Bool)
  /-- RDCPURGE (R243). Removes named or all borrowed lines from the die's RDC. -/
  | rdcpurge (n : BitVec 5) (o : BitVec 8) (a : Bool)
  /-- CSRR (R315). Reads a CSR into an S register. -/
  | csrr (s : BitVec 11) (d : BitVec 8)
  /-- CSRW (R315). Writes an S register to a CSR. -/
  | csrw (s : BitVec 11) (r : BitVec 8)
  /-- SLEEP (R188). Makes the wave not ready for n core cycles. -/
  | sleep (n : BitVec 19)
  /-- BRX (R184). Branches the split to a 64-bit target, optionally with a return entry. -/
  | brx (n : BitVec 5) (c : Bool)
  /-- XP (R41). Extension word that permutes the A, B and C operands of the next word. -/
  | xp (a : BitVec 3) (b : BitVec 5) (c : BitVec 3) (d : BitVec 5) (e : BitVec 3) (f : BitVec 5)
  /-- XC (R43). Extension word supplying predicate, C operand, rounding, saturation, ninth bits and immediate bits. -/
  | xc (p : BitVec 4) (g : Bool) (c : BitVec 8) (r : BitVec 3) (s : Bool) (n : BitVec 3) (i : BitVec 5)
  /-- MEND (R265). Ends the matrix stream and frees the array. -/
  | mend
  /-- MMAC (R258). Forms E4M3 row-by-column products into the partial buffer. -/
  | mmac (acc : Bool) (m : BitVec 6) (t : BitVec 7) (x : BitVec 3) (off : BitVec 20) (stride : BitVec 13)
  /-- MMACB (R258). Forms BF16 products over a tile pair into the partial buffer. -/
  | mmacb (acc : Bool) (m : BitVec 6) (t : BitVec 7) (x : BitVec 3) (off : BitVec 20) (stride : BitVec 13)
  /-- MMACI (R258). Forms INT8 products into the partial buffer modulo 2^32. -/
  | mmaci (acc : Bool) (m : BitVec 6) (t : BitVec 7) (x : BitVec 3) (off : BitVec 20) (stride : BitVec 13)
  /-- MCMAC (R258). Forms complex BF16 products over a tile quadruple. -/
  | mcmac (acc : Bool) (m : BitVec 6) (t : BitVec 7) (x : BitVec 3) (off : BitVec 20) (stride : BitVec 13)
  /-- MMACE5 (R258). Forms E5M2 products into the partial buffer. -/
  | mmace5 (acc : Bool) (m : BitVec 6) (t : BitVec 7) (x : BitVec 3) (off : BitVec 20) (stride : BitVec 13)
  /-- MSA (R259). Scales partial-buffer rows by sa times sb and adds them into a window. -/
  | msa (w : BitVec 8) (m : BitVec 6) (s : BitVec 3) (x : BitVec 3) (off : BitVec 19)
  /-- MSAI (R260). Adds integer partial entries into a window, wrapping or saturating. -/
  | msai (w : BitVec 8) (m : BitVec 6) (sat : Bool)
  /-- MCLR (R261). Clears the partial buffer or a range of windows. -/
  | mclr (win : Bool) (w : BitVec 8) (c : BitVec 8)
  /-- MOUT (R262). Converts window rows and writes them to block memory. -/
  | mout (w : BitVec 8) (m : BitVec 6) (fmt : BitVec 3) (x : BitVec 3) (off : BitVec 19) (stride : BitVec 13)
  /-- STREAM_MBAR (R263). Stream-side wait, arrive or sync at a matrix barrier. -/
  | streamMbar (b : BitVec 4) (mode : BitVec 2)
  /-- MSET (R264). Sets an X register, or its high 16 bits. -/
  | mset (x : BitVec 3) (hi : Bool) (imm : BitVec 48)
  /-- MADV (R264). Adds a signed immediate to an X register. -/
  | madv (d : BitVec 3) (x : BitVec 3) (imm : BitVec 40)
  /-- MLOOP (R264). Decrements a counter X register and loops back while it exceeds one. -/
  | mloop (x : BitVec 3) (off : BitVec 18)
  /-- ATOPK (R270). Writes the top k elements of a vocabulary vector with their indices. -/
  | atopk (w : BitVec 8) (c : BitVec 8) (k : BitVec 10) (len : BitVec 3) (x : BitVec 3) (off : BitVec 19)
  /-- ASMAX (R271). Replaces a vocabulary vector with its base-2 softmax. -/
  | asmax (w : BitVec 8) (c : BitVec 8) (k : BitVec 3) (len : BitVec 3)
  /-- ASAMPLE (R272). Draws one position from a weight vector or ATOPK list. -/
  | asample (w : BitVec 8) (c : BitVec 8) (list : Bool) (key : BitVec 3) (ctr : BitVec 3) (d : BitVec 3) (len : BitVec 3) (x : BitVec 3) (off : BitVec 19)
  /-- MSTEP (R265). Records the stream's step number. -/
  | mstep (n : BitVec 32)
  /-- MNOP (R265). Stream word with no effect. -/
  | mnop
  /-- CLAUSE_SELECT (R11). A free issue slot chooses the next clause among its ready waves. -/
  | clauseSelect (core sub : Nat) (slot1 : Bool)
  /-- DEFERRED_MOVE (R158). The deferred path moves into a free split entry at a clause boundary. -/
  | deferredMove (b wv : Nat)
  /-- INSTRUCTION_FETCH_COMPLETE (R8). A clause's instruction-cache miss completes and the wave may become ready. -/
  | instructionFetchComplete (core cx line : Nat)
  /-- WAVE_PROMOTE (R12). A wave's starvation counter reaches its limit and the wave is promoted. -/
  | wavePromote (b wv : Nat)
  /-- RESULT_WRITEBACK (R13). A word's result is written back after its latency and its pending bits clear. -/
  | resultWriteback (b wv : Nat)
  /-- STORE_LEAVE_CORE (R21). A store, atomic, send, post or other external effect leaves the core once its word is over 256 cycles old. -/
  | storeLeaveCore (b wv : Nat)
  /-- LOAD_COMPLETE (R234). A load's data return and its destinations are written. -/
  | loadComplete (b wv : Nat)
  /-- ATOM_RETURN (R237). An atomic is performed at its point of coherence and its old value returns. -/
  | atomReturn (b wv : Nat)
  /-- ABORT_COMPLETION (R437). An abort completion withholds a datum and kills lanes or fails sectors per consumer. -/
  | abortCompletion (site : AbortSite)
  /-- STRIKE_ROLLBACK (R19). A core strike report restores the core's state to 256 cycles before it. -/
  | strikeRollback (core : Nat)
  /-- STRIKE_UNCORE (R440). A strike report outside the cores advances its counter and writes a record without rollback. -/
  | strikeUncore (die : Nat)
  /-- RESIDUE_REISSUE (R24). A word whose residue check failed is reissued, and a recurrence kills the lane and engages the spare. -/
  | residueReissue (core sub phys : Nat) (recurs : Bool)
  /-- COLUMN_REMAP (R26). A recurring array-column mismatch copies the B slice and remaps the column to the spare. -/
  | columnRemap (core col : Nat) (recurs : Bool)
  /-- DEADLOCK_DETECT (R171). A block whose live waves stay stuck 4,096 cycles traps with deadlock. -/
  | deadlockDetect (b : Nat)
  /-- SLEEP_EXPIRE (R188). A sleeping wave's time runs out and it becomes ready. -/
  | sleepExpire (b wv : Nat)
  /-- SET_PHASE_COMPLETE (R195). Every member block has arrived at a set barrier and its waiting waves continue. -/
  | setPhaseComplete (l set : Nat)
  /-- WAITV_REREAD (R197). A waiting WAITV rereads its word on a write report or every 4,096 cycles. -/
  | waitvReread (b wv : Nat)
  /-- FENCE_COMPLETE (R224). A FENCE's waits are satisfied and its wave becomes ready. -/
  | fenceComplete (b wv : Nat)
  /-- DRAIN_COMPLETE (R226). The copies a DRAIN waits on have performed their writes. -/
  | drainComplete (b wv : Nat)
  /-- COPY_SECTOR (R248). The copy engine moves one sector of a copy, failing it on an abort. -/
  | copySector (core : Nat)
  /-- STREAM_OWNER_CHANGE (R255). Ownership of the array passes to the other stream context at a word boundary. -/
  | streamOwnerChange (core : Nat)
  /-- STREAM_FAULT (R257). A stream word fails a check and halts the block. -/
  | streamFault (b : Nat)
  /-- RAYQ_COMPLETE (R280). Every lane's ray query has ended and the result registers are written. -/
  | rayqComplete (b wv : Nat)
  /-- LAUNCH_PACKET (R298). A committed launch packet is checked, numbered and entered into its queue. -/
  | launchPacket (ap : Nat) (ws : List (BitVec 32))
  /-- RESUME (R319). A committed RESUME packet restores a parked wave or resumes a halted block. -/
  | resume (ap : Nat) (ws : List (BitVec 32))
  /-- QOWN_WRITE (R296). A write to QOWN assigns a queue and resets its sequence and drop count. -/
  | qownWrite (q : Nat) (v : BitVec 32)
  /-- REGISTER_WRITE (R294). A host write to a BAR0 register with no behaviour of its own. -/
  | registerWrite (off : Nat) (v : BitVec 32)
  /-- LAUNCH_START (R302). A queued launch whose dependences and memory wait are satisfied starts. -/
  | launchStart (q : Nat)
  /-- MEMORY_WAIT_REREAD (R304). The dispatcher rereads a launch's memory-wait word on a write report or timer. -/
  | memoryWaitReread (q : Nat)
  /-- DISPATCH_BLOCK (R305). In one dispatcher cycle the dispatcher places or distributes one block of the chosen launch. -/
  | dispatchBlock
  /-- BLOCK_START (R308). A queue engine starts its first admissible pending block on its core. -/
  | blockStart (core : Nat)
  /-- STEAL_REQUEST (R309). An idle core steps its LFSR and requests a pending block from a victim. -/
  | stealRequest (core : Nat)
  /-- BLOCK_END (R312). A block whose waves exited ends after its fabric-scope release and outstanding work complete. -/
  | blockEnd (b : Nat)
  /-- LAUNCH_COMPLETE (R299). The completion record of a launch is written and its vector raised. -/
  | launchComplete (l : Nat)
  /-- POCKET_FRAME_GRANT (R332). A freed Pocket frame lets a waiting TRAP park its wave. -/
  | pocketFrameGrant (cx : Nat)
  /-- REQUEST_ENTRY_WRITE (R318). A service-call request entry is written into the ring when it has room. -/
  | requestEntryWrite (cx : Nat)
  /-- BLOCK_HALT (R330). A trap cause halts every wave, stream and engine of the block. -/
  | blockHalt (b : Nat)
  /-- HALT_SAVE (R331). After a halt completes, save areas are written into Pocket frames. -/
  | haltSave (b : Nat)
  /-- TRAP_RECORD_WRITE (R336). A trap record is written when the trap area has room and the vector is raised. -/
  | trapRecordWrite (cx : Nat)
  /-- DEADLINE_EXPIRE (R339). A core's pre-emption deadline expires and the context enters RESETTING. -/
  | deadlineExpire (core cx : Nat)
  /-- CUT_REPORT (R345). Step reports are gathered into a target and units below it are released. -/
  | cutReport (l : Nat)
  /-- CUT_COMPLETE (R346). All units are held at the target, the cut area is written and the grid ends. -/
  | cutComplete (l : Nat)
  /-- HOST_WRITE (R470). A host PCIe write to device memory is written through the home L2. -/
  | hostWrite (pa : Nat) (data : List (BitVec 8))
  /-- LINK_TRAINING (R359). A Svacon port trains, exchanges LINK flits and comes up or stays down. -/
  | linkTraining (port peer peerPort : Nat)
  /-- NULL_FLIT (R366). A received NULL flit returns credits. -/
  | nullFlit (port : Nat) (f : Flit)
  /-- READ_FLIT (R374). A remote READ request is checked at ingress and answered with RDATA or ABORT. -/
  | readFlit (port : Nat) (f : Flit)
  /-- WRITE_FLIT (R374). A remote WRITE request is checked and performed at the home L2, then acknowledged. -/
  | writeFlit (port : Nat) (f : Flit)
  /-- ATOM_FLIT (R374). A remote ATOM request is performed indivisibly and answered with ARSP. -/
  | atomFlit (port : Nat) (f : Flit)
  /-- REC_FLIT (R415). A work-record POST or RETURN arrives and is queued or credited. -/
  | recFlit (port : Nat) (f : Flit)
  /-- COLL_FLIT (R407). A Mantle data, header or acknowledge flit arrives in its communicator class. -/
  | collFlit (port : Nat) (f : Flit)
  /-- RDATA_FLIT (R383). A read data reply arrives and completes its tag or is dropped as late. -/
  | rdataFlit (port : Nat) (f : Flit)
  /-- WACK_FLIT (R383). A write acknowledgement completes its request. -/
  | wackFlit (port : Nat) (f : Flit)
  /-- ARSP_FLIT (R383). An atomic reply returns the old value. -/
  | arspFlit (port : Nat) (f : Flit)
  /-- ABORT_FLIT (R379). An ABORT reply ends a remote request with its reason. -/
  | abortFlit (port : Nat) (f : Flit)
  /-- TOTALS_FLIT (R372). A received TOTALS flit, if newer, updates the freed count and limit. -/
  | totalsFlit (port : Nat) (f : Flit)
  /-- LEND_FLIT (R369). A sender applies new VC buffer limits from a LEND flit. -/
  | lendFlit (port : Nat) (f : Flit)
  /-- LINK_NAK (R367). A LINK NAK makes the sender replay data flits from the named sequence number. -/
  | linkNak (port : Nat) (f : Flit)
  /-- FLIT_FORWARD (R363). A router forwards an arriving flit toward VIA or DST, or drops it. -/
  | flitForward (port : Nat) (f : Flit)
  /-- LENDING_ROUND (R369). Every 1,024 flit cycles the receiver recomputes VC limits and sends stage-1 LEND. -/
  | lendingRound (port : Nat)
  /-- LEND_RESEND (R369). A LEND without matching LACK for 64 flit cycles is sent again. -/
  | lendResend (port : Nat)
  /-- TOTALS_SEND (R371). A device sends TOTALS for a peer and class when a count or timer trigger fires. -/
  | totalsSend (peer cls : Nat)
  /-- REQUEST_TIMEOUT (R383). A remote request times out, is aborted, and its tag is quarantined. -/
  | requestTimeout (target idx : Nat)
  /-- TAG_QUARANTINE_END (R383). A quarantined tag index becomes free again. -/
  | tagQuarantineEnd (target idx : Nat)
  /-- STALE_DROP (R384). A flit that waited 2^19 Svacon cycles in a buffer is dropped. -/
  | staleDrop (port : Nat)
  /-- TARGET_TICK (R378). The device's 11-bit target tick advances every 2^22 Svacon cycles. -/
  | targetTick
  /-- COLL_ACCEPT (R392). A COLL or CSEND reaches the Mantle and is accepted or completed with BADCOMM. -/
  | collAccept (b wv : Nat)
  /-- CHUNK_STEP (R399). At a chunk boundary the Mantle starts the next step of the highest-priority ready communicator. -/
  | chunkStep
  /-- PRIORITY_AGEING (R399). A communicator ready 65,536 Mantle cycles without a step gains one priority level. -/
  | priorityAgeing (id : Nat)
  /-- CHUNK_LOST (R410). A chunk not arriving in time, or given up by UET, is replaced by background or zero. -/
  | chunkLost (id : Nat)
  /-- UET_MESSAGE (R408). An Ultra Ethernet message carrying one chunk arrives. -/
  | uetMessage (src : Nat) (data : List (BitVec 8))
  /-- COMM_FREE (R387). A retired communicator's id is freed after quiescence and the final exchanges. -/
  | commFree (id : Nat)
  /-- HBM_READ_TRANSFER (R446). The controller reads a 64-byte transfer with retries, lane test and swap. -/
  | hbmReadTransfer (pa : Nat) (x : Burst)
  /-- HBM_WRITE_TRANSFER (R447). The controller writes a 64-byte transfer with parity retries, dropping it after five attempts. -/
  | hbmWriteTransfer (pa : Nat) (x : Burst)
  /-- THROTTLE_STEP (R462, R469). A die clock falls or rises by 100 MHz on power or temperature conditions: its
  sensors are read, 1 ms after the last reading that met the condition, or 10 ms after one that did not. -/
  | throttleStep (die : Nat) (x : Reading)
  /-- FIRMWARE_ACTIVATE (R452). An accepted firmware image takes effect in a unit at its idle point. -/
  | firmwareActivate (unit : Nat)
  /-- RESET (R443). A reset frees cleared repair entries, applies the repair table and clears counters and logs. -/
  | reset
  /-- MCHK_ENTRY_FREE (R27). Writing 1 to a machine-check record's VALID frees the entry. -/
  | mchkEntryFree (core j : Nat)
  /-- LOG_ENTRY_FREE (R448). Writing 1 to a stack log entry's VALID frees it. -/
  | logEntryFree (stack : Nat) (xfer : Bool) (j : Nat)
  /-- MREAD (R464). Reads words of the management space. -/
  | mread (tag off n : Nat)
  /-- MWRITE (R464). Writes words of the management space, ignoring RO fields. -/
  | mwrite (tag off : Nat) (ws : List (BitVec 32))
  /-- CTXWRITE (R322). Writes a context descriptor, creating or tearing down the context. -/
  | ctxwrite (tag cx : Nat) (desc : List (BitVec 32))
  /-- PREEMPT (R338). Moves a context to DRAINING, restarting eligible blocks. -/
  | preempt (tag cx : Nat)
  /-- PREEMPT_CUT (R345). Moves a context to CUTTING and starts a cut of the named launch. -/
  | preemptCut (tag cx q : Nat) (sq : BitVec 32)
  /-- UNPREEMPT (R338). Returns a PREEMPTED context to ACTIVE. -/
  | unpreempt (tag cx : Nat)
  /-- RESETCTX (R342). Force-resets a context. -/
  | resetctx (tag cx : Nat)
  /-- INVALIDATE (R328). Drops a context's translations over a range and waits for dependent accesses. -/
  | invalidate (tag cx : Nat) (base len : BitVec 64)
  /-- COMMCREATE (R386). Reads a communicator record and creates a communicator, returning its COMM word. -/
  | commcreate (tag cx : Nat) (rec : BitVec 64)
  /-- COMMRETIRE (R387). Moves a communicator to RETIRING. -/
  | commretire (tag id : Nat)
  /-- RECAREA (R415). Sets a context's work-record area and sender credits. -/
  | recarea (tag cx : Nat) (addr : BitVec 64) (slots : Nat)
  /-- UETPEER (R409). Writes a UET peer endpoint entry. -/
  | uetpeer (tag idx : Nat) (entry : List (BitVec 32))
  /-- KEYSET (R466). Fills a context's token-key slot. -/
  | keyset (tag cx slot : Nat) (key : BitVec 128)
  /-- KEYEMPTY (R466). Empties a context's token-key slot. -/
  | keyempty (tag cx slot : Nat)
  /-- MINT (R381). Mints and returns a grant token. -/
  | mint (tag dev cx rights win ext sub life : Nat)
  /-- WINDOW (R378). Writes a window-table entry. -/
  | window (tag idx : Nat) (entry : BitVec 64)
  /-- FENCE_COMMAND (R451). Fences one part and responds when it has stopped. -/
  | fenceCommand (tag kind part : Nat)
  /-- UNFENCE (R452). Returns a fenced part to service. -/
  | unfence (tag kind part : Nat)
  /-- ROUTE (R361). Replaces one router-table entry. -/
  | route (tag dst : Nat) (entry : BitVec 128)
  /-- FWUPDATE (R467). Verifies and accepts a signed firmware image. -/
  | fwupdate (tag : Nat) (addr : BitVec 64) (len : Nat)
  /-- ATTEST (R468). Returns a signed measurement report over a nonce. -/
  | attest (tag : Nat) (nonce : List (BitVec 8))
  /-- CLOCK (R462). Sets a lower clock ceiling for a die. -/
  | clock (tag die mhz : Nat)
  /-- FREEZE (R453). Stops every clock and link for read-out. -/
  | freeze (tag : Nat)
  /-- REPAIRCLR (R444). Marks a repair-table entry to be freed at the next reset. -/
  | repairclr (tag idx : Nat)
  /-- UNDEFINED_OPCODE (R33). A word whose opcode is undefined, or whose fixed bits match no encoding, reaches issue and traps with illegal-instruction. -/
  | undefinedOpcode (w : BitVec 32)
  /-- CRC_FAILURE (R367). A flit arrives on a Svacon link with a failing CRC after the FEC and is discarded, with a NAK sent for a data flit. -/
  | crcFailure (port : Nat) (f : Flit)
  /-- LINK_DOWN (R450). A Svacon port, die-to-die link or Ultra Ethernet port goes down of itself and a LINK record is written. -/
  | linkDown (kind num : Nat)
  /-- UNLISTED_COMMAND_CODE (R464). A management request with a CODE not in the command table arrives and is answered BADARG. -/
  | unlistedCommandCode (code tag : Nat)
  /-- UET_RETRANSMISSION (R408). The UET packet delivery sublayer's retransmission timer expires and a lost packet is sent again. -/
  | uetRetransmission (peer : Nat)
  /-- UET_ACKNOWLEDGEMENT (R409). A UET acknowledgement arrives from a peer, and packet delivery contexts may close once every packet is acknowledged. -/
  | uetAcknowledgement (peer : Nat)
  deriving DecidableEq, Repr

end Sys2Proof
end

