-- ==== Sys2Proof/Machine/State.lean ====
section
/-! DEFINITION. The whole state of one XK-960 as plain data. Every table that the device holds in
full is a sparse list here: an entry that is not listed reads as its reset value (INVENTORY.md). -/

namespace Sys2Proof.Machine

open Sys2Proof

/-- Bytes by address, canonical; an unlisted byte reads as zero (log 3). -/
abbrev Memory := Cells Byte

/-- Words by number, canonical; an unlisted word is zero (R152). -/
abbrev Words := Cells Word

/-- Why a step stops. None of these is a rule of the spec: each names a state the spec does not
describe, and stopping is safe. -/
inductive Fault where
  /-- Raised by the meaning of a clause word in a state where no wave holds an issue slot. Safe. -/
  | noIssuingWave
  /-- Raised by the meaning of a stream word in a state where no stream owns the array. Safe. -/
  | noRunningStream
  deriving DecidableEq, Repr

/-- Why a step gives no answer. -/
inductive Refusal where
  /-- Raised by the dispatcher for an instruction that has no meaning yet. Safe. -/
  | notModelled (mnemonic : String)
  deriving DecidableEq, Repr

/-- What a part of a wave waits for (R157, R156, R160, R193, R195, R198). -/
inductive PartWait where
  | none
  /-- Merged at its PC, where it executes next (R157). -/
  | merged
  /-- At its reconvergence address (R157). -/
  | reconv
  /-- A divergent BRC that finds no room (R156). -/
  | room
  /-- BAR b executed; the wave has not arrived in the current phase (R160, R193). -/
  | bar (b : Nat) (arriveOnly : Bool)
  /-- Arrived; waits until barrier b reaches this phase. -/
  | barPhase (b phase : Nat)
  /-- GSYNC s executed; the wave has not arrived (R160, R195). -/
  | gsync (s : Nat)
  /-- The wave has arrived; waits until set s reaches this phase. -/
  | gsyncPhase (s phase : Nat)
  /-- MBAR m: waits until the barrier reaches a later phase than this (R196). -/
  | mbar (m phase : Nat)
  /-- MBAR m: the wave side has already arrived in this phase; arrives in the next (R196). -/
  | mbarAgain (m : Nat) (sync : Bool)
  /-- CHSEND of vector code v on channel c (R198). -/
  | chsend (c : Nat) (v : BitVec 8) (since : Nat)
  /-- CHRECV into vector v and predicate p (R198). -/
  | chrecv (c : Nat) (v : BitVec 8) (p : BitVec 4) (since : Nat)
  deriving DecidableEq, Repr

/-- A split, or the deferred path (R155). The stack's top is first. -/
structure Part where
  pc : Addr
  /-- The word of the clause to issue next, 0 for its header (R334). -/
  word : Nat
  mask : Mask
  rho : Addr
  stack : List (BitVec 64)
  wait : PartWait
  deriving DecidableEq, Repr

/-- A FENCE, DRAIN, CINV, LAUNCH or GROW that holds its wave (R224, R226, R242, R313, R314). -/
structure Hold where
  /-- The primary opcode, for a trap record. -/
  opcode : Nat
  pos : Addr
  part : Nat
  acq : Bool
  rel : Bool
  scope : BitVec 2
  mask : BitVec 5
  /-- Copies accepted before this number belong to Before(F) (R224, R226). -/
  mark : Nat
  /-- When it issued (R21). -/
  since : Nat
  /-- CINV: the lines it names, or every line of the context (R242). -/
  inval : Option (Option (List Nat))
  deriving DecidableEq, Repr

/-- A WAITV that waits (R197): its part, address, compare and value, and when it issued; at which count of its core's
cycles it reads next in any case; the line of this device it watches and the number of the last write to that line it
has seen; and the request that asks another device for the word. -/
structure Await where
  part : Nat
  addr : Addr
  cmp : BitVec 3
  val : Word
  pos : Addr
  since : Nat
  next : Nat
  line : Option Nat
  seen : Nat
  asked : Option Nat
  deriving DecidableEq, Repr

/-- What the whole wave is doing (R171, R172, R188, R189, R196, R197, R238, R330, R345). -/
inductive WaveRun where
  | running
  /-- Until its core has counted so many cycles (R188). -/
  | sleeping (wake : Nat)
  | waitv (a : Await)
  | fence (h : Hold)
  | drain (h : Hold)
  /-- LAUNCH or GROW under way (R313, R314). -/
  | entering (h : Hold)
  /-- TRAP waiting for its stores or for a Pocket frame, with the requesting lanes and WAVE.DEAD as it issued;
  `released` says that step 2 has taken place (R189, R190, R332). -/
  | trapping (part : Nat) (code : BitVec 16) (mask dead : Mask) (since : Nat) (released : Bool)
  /-- Parked in a frame (R172, R189). -/
  | parked (handle : BitVec 64) (frame : Nat)
  /-- Held at a STEP during a cut, since when (R345). -/
  | held (since : Nat)
  | exited
  deriving DecidableEq, Repr

/-- Register numbers of the four files (R13). -/
structure Regs where
  v : List Nat
  s : List Nat
  p : List Nat
  t : List Nat
  deriving DecidableEq, Repr

/-- Registers that a word issued earlier will write, and when (R13, R14). -/
structure Pend where
  regs : Regs
  due : Nat
  deriving DecidableEq, Repr

/-- The allocation and the flags that a block has from its launch packet (R153, R165-R169). -/
structure Decl where
  vregs : Nat
  sregs : Nat
  tregs : Nat
  awin : Nat
  btiles : Nat
  bmem : Nat
  waves : Nat
  producer : Nat
  /-- 0 concurrent, 1 parallel, 2 weakly parallel. -/
  cls : Nat
  prio : Nat
  filler : Bool
  idem : Bool
  deriving DecidableEq, Repr

/-- Where a load's data go (R234, R143). -/
inductive LoadDest where
  /-- `count` vector registers from D. -/
  | vec (d count : Nat)
  /-- `count` scalar registers from D. -/
  | scalar (d count : Nat)
  | tile (t : Nat)
  /-- An ATOM.CAS on another device: V[D] receives the old value, and V[D+1] may not be written before (R237). -/
  | cas (d : Nat)
  /-- The packet that a LAUNCH reads from another device, sector by sector (R313). -/
  | packet
  deriving DecidableEq, Repr

/-- A load that has issued and not returned: the data of each lane, lanes whose data are withheld, and
the remote requests still to be answered (R234, R235, R383). -/
structure LoadOp where
  part : Nat
  dest : LoadDest
  data : List (Nat × List Byte)
  killed : Mask
  /-- Remote requests: lane, request, physical address there and size. -/
  waits : List (Nat × Nat × Nat × Nat)
  acqScope : Option (BitVec 2)
  /-- When its word issued, and when its data are due. -/
  issued : Nat
  due : Nat
  deriving DecidableEq, Repr

/-- One lane of an atomic: lane, address, operand, new value (R236). -/
abbrev AtomLane := Nat × Addr × Word × Word

/-- An effect that leaves the core only once its word is over 256 cycles old (R21). -/
inductive Effect where
  /-- Stored bytes of each lane, with the release scope if any (R234). -/
  | store (part : Nat) (lanes : List (Nat × Addr × List Byte)) (rel : Option (BitVec 2)) (pos : Addr)
  | atom (part : Nat) (fn : BitVec 4) (dest : Option Nat) (lanes : List AtomLane) (acq rel : Option (BitVec 2)) (pos : Addr)
  | gsync (set : Nat)
  | launch (h : Hold) (q : Nat) (addr : Addr)
  | grow (h : Hold) (d : Nat) (inc : Word)
  | coll (csend : Bool) (name token : Nat) (desc : List Word)
  /-- WREC.POST into predicate p: lane, device, record (R416). -/
  | post (part p : Nat) (lanes : List (Nat × Nat × List Word))
  /-- WREC.TAKE into predicate p and the record at v, for the lanes of a mask (R416). -/
  | take (part p v : Nat) (lanes : Mask)
  | giveBack
  deriving DecidableEq, Repr

/-- A RAYQ word that has not completed (R280): its result block, each lane's ray block, the root and flags,
the number of its free order (log 19), the remote lines received and asked for, and lanes to be killed. -/
structure RayOp where
  part : Nat
  res : Nat
  rays : List (Nat × List Word)
  root : BitVec 64
  flags : BitVec 3
  order : Nat
  /-- Device, line there and its 128 bytes. -/
  got : List (Nat × Nat × List Byte)
  asked : List Nat
  killed : Mask
  due : Nat
  deriving DecidableEq, Repr

/-- A wave (R151, R152, R155). -/
structure Wave where
  idx : Nat
  sub : Nat
  slot : Nat
  /-- V registers: word 32 n + l is lane l of Vn. -/
  v : Words
  s : Words
  /-- P registers, one mask each; P15 is never listed and reads as all ones. -/
  p : Words
  /-- T registers: byte 512 n + b is byte b of Tn. -/
  t : Cells Byte
  splits : List (Option Part)
  deferred : Option Part
  /-- Lanes that have executed EXIT (R187). -/
  exitedLanes : Mask
  dead : Mask
  flags : BitVec 6
  starve : Word
  /-- Starvation count, when it last became ready, and when it was promoted (R12). -/
  starveCnt : Nat
  readySince : Option Nat
  promoted : Option Nat
  /-- Slots whose next choice passes the wave over (R11): bit 0, bit 1. -/
  yielded : BitVec 2
  /-- The split whose clause issued last (R10). -/
  turn : Nat
  step : Word
  lastSeq : Word
  cycleHi : Word
  pend : List Pend
  loads : List LoadOp
  /-- Store queue: issue time and effect, oldest first (R208). -/
  sq : List (Nat × Effect)
  /-- Atomics that have left and not returned (R237). -/
  atoms : List Effect
  /-- Posted remote stores not yet acknowledged: request, lane, address and size (R212, R235). -/
  acks : List (Nat × Nat × Addr × Nat)
  rays : List RayOp
  /-- COLL and CSEND words of the wave not complete (R223). -/
  colls : List Nat
  run : WaveRun
  /-- ARGS of an accepted RESUME, by lane (R191). -/
  args : Option (Mask × List (Nat × List Word))
  /-- Words issued after the halt signal, and its own cause when it would have faulted (R330). -/
  skid : Nat
  faulted : Option Nat
  /-- The requesting part, code and lanes of its TRAP, and the ring entry that holds its ARGS once it is written
  (R190, R191). -/
  service : Option (Nat × BitVec 16 × Mask × Option Nat)
  deriving DecidableEq, Repr

/-- A block barrier (R193): the phase and the waves that have arrived in it. -/
structure Barrier where
  phase : Nat
  arrived : List Nat
  deriving DecidableEq, Repr

/-- A matrix barrier (R196): the phase and its two sides. -/
structure MBarrier where
  phase : Nat
  waveSide : Bool
  streamSide : Bool
  deriving DecidableEq, Repr

/-- A channel (R173). The entry masks are oldest first; `head` is the oldest entry's place. -/
structure Channel where
  closed : Bool
  head : Nat
  masks : List Mask
  deriving DecidableEq, Repr

/-- A copy token (R251). -/
structure Token where
  /-- Names of its outstanding copies and operations. -/
  outst : List Nat
  abort : Bool
  failed : Nat
  /-- A COLL or CSEND has completed on it, so that observing it is an acquire (R396). -/
  coll : Bool
  deriving DecidableEq, Repr

/-- What a matrix stream is doing (R196, R255, R257, R265, R345). -/
inductive StreamRun where
  | running
  /-- Waits until matrix barrier m reaches this phase. -/
  | mbar (m phase : Nat)
  /-- A second arrival in one phase (R196). -/
  | mbarAgain (m : Nat) (sync : Bool)
  | held (since : Nat)
  | ended
  deriving DecidableEq, Repr

/-- A matrix stream with its context's partial buffer (R252, R254). -/
structure Stream where
  pc : Addr
  x : List Addr
  step : Nat
  partials : Words
  run : StreamRun
  readySince : Nat
  deriving DecidableEq, Repr

/-- A halt of a block, from its cause to its record (R330-R336). -/
structure Halt where
  cause : Nat
  reason : Nat
  /-- Faulting wave, 0xFE the stream, 0xFF none. -/
  wave : Nat
  opcode : Nat
  pos : Addr
  addr : Addr
  mask : Mask
  code : BitVec 16
  born : Nat
  signalled : Bool
  saved : Bool
  recorded : Bool
  frames : List (Nat × Nat)
  handle : BitVec 64
  deriving DecidableEq, Repr

/-- A block (R151) and all that lives from its start to its end. -/
structure Block where
  uid : Nat
  core : Nat
  launch : Nat
  ctx : Nat
  index : Nat
  decl : Decl
  started : Nat
  waves : List Wave
  bmem : Cells Byte
  /-- Word 4096 w + e is element e of window w (R252). -/
  win : Words
  satCount : Words
  /-- Byte 8192 t + b is byte b of B-store tile t (R253). -/
  tiles : Cells Byte
  /-- The column whose slice the spare slice of the B-store holds, and byte 128 t + b of that slice's tile t, once
  the core's spare column is in use (R253, R273). -/
  spare : Option (Nat × Cells Byte)
  bars : List (Nat × Barrier)
  mbars : List (Nat × MBarrier)
  chans : List (Nat × Channel)
  tokens : List (Nat × Token)
  stream : Option Stream
  halt : Option Halt
  /-- The side-effect bit (R340). -/
  sideEffect : Bool
  /-- GSYNC arrivals: set and waves of the block that have arrived (R195). -/
  gsync : List (Nat × List Nat)
  /-- When every live wave became stuck (R171). -/
  stuckSince : Option Nat
  deriving DecidableEq, Repr

/-- A clause that holds an issue slot, or both (R7, R8), with its latches (R15; log 6). -/
structure Issue where
  core : Nat
  sub : Nat
  slot1 : Bool
  mix : Bool
  block : Nat
  wave : Nat
  /-- Split 0-3, or 4 for the deferred path. -/
  part : Nat
  pc : Addr
  header : Word
  /-- The next word to issue, 1 to N. -/
  k : Nat
  xc : Option Word
  xp : Option Word
  /-- Word index of the first extension of the next instruction (R334). -/
  ext : Option Nat
  lat0 : List (List Word)
  lat1 : List (List Word)
  deriving DecidableEq, Repr

/-- Part of a sector that a copy has read, has asked another device for (device, slot, address and the page's policy), or
could not read (R247, R248). -/
inductive ReadPart where
  | bytes (bs : List Byte)
  | wait (dev slot pa policy : Nat)
  | lost
  deriving DecidableEq, Repr

/-- A copy accepted by the copy engine (R244-R249): its rows in order, the sector it has come to, and
the remote sectors asked for and received, and posted writes not acknowledged. -/
structure CopyJob where
  seq : Nat
  block : Nat
  wave : Nat
  token : Nat
  opcode : Nat
  pos : Addr
  len : Nat
  srcKind : Nat
  dstKind : Nat
  /-- Source and destination of each row. -/
  rows : List (Nat × Nat)
  row : Nat
  sector : Nat
  /-- The next sector's read has received an abort (R248). -/
  failedNow : Bool
  halted : Bool
  issued : Nat
  asked : List Nat
  /-- Device, sector number and its 64 bytes; no bytes where the read has met an abort. -/
  got : List (Nat × Nat × List Byte)
  /-- Sectors from the one it has come to that were read or asked for at issue, for a destination outside the core (R21,
  R247). -/
  ahead : List (List ReadPart)
  /-- Posted remote writes not acknowledged: request and virtual address. -/
  acks : List (Nat × Nat)
  /-- Stream position of the row under way, for a network destination (R413). -/
  base : Nat
  deriving DecidableEq, Repr

/-- One checkpoint for the strike rollback: the core's blocks and copies at the start or the end of a
clause of the named wave, or (`floor`) after an event of the named block that is never undone. `last` is
the cycle its clause ended in, none while it issues; the undo lists hold, newest first, the cycle, lane and
place and the old value of everything the clause has written to shared storage: block memory, windows,
saturation counts (R19, R20; log 8). -/
structure Snapshot where
  cycle : Nat
  block : Nat
  wave : Nat
  atStart : Bool
  floor : Bool
  last : Option Nat
  blocks : List Block
  copies : List CopyJob
  /-- The queue engine's pending blocks and LFSR, and the array's owner (R19). -/
  pending : List (Nat × Nat)
  lfsr : BitVec 16
  owner : Option Nat
  undoB : List (Nat × Nat × Nat × Byte)
  undoW : List (Nat × Nat × Nat × Word)
  undoC : List (Nat × Nat × Nat × Word)
  deriving DecidableEq, Repr

/-- The word last issued on a sub-core, with its wave and its clause as they stood before it (R24). -/
structure LastWord where
  sub : Nat
  block : Nat
  wave : Nat
  cycle : Nat
  before : Wave
  issue : Issue
  /-- The flags that each lane's own results set, for a fragment word (R72, R150). -/
  laneFlags : List (BitVec 6)
  deriving DecidableEq, Repr

/-- A core's own state beside its blocks (R6, R27, R308, R309, R317, R441). -/
structure Core where
  id : Nat
  lfsr : BitVec 16
  /-- Pending blocks of the queue engine: launch and index, in its order (R308). -/
  pending : List (Nat × Nat)
  strike : Word
  replay : Word
  /-- Repair bytes of sub-cores 0-5, then of the array (R441). -/
  repair : List (BitVec 8)
  /-- Parts fenced by management: core, sub-cores, array (R451). -/
  fenced : Bool
  fencedSubs : List Nat
  fencedArray : Bool
  /-- Machine-check queue: four records of four words (R27). -/
  mchk : List (List Word)
  /-- The entry of that queue last written. -/
  mchkLast : Nat
  /-- The block whose stream owns the array (R255). -/
  owner : Option Nat
  copies : List CopyJob
  history : List Snapshot
  /-- The word last issued on each sub-core (R24). -/
  lastWord : List LastWord
  /-- The block that issued the array's last word, as it stood before it (R26). -/
  lastStream : Option Block
  /-- When the core's queue engine last sent a steal request (R309). -/
  stealAt : Option Nat
  deriving DecidableEq, Repr

/-- An L1 line (R208). -/
structure L1Line where
  core : Nat
  ctx : Nat
  line : Nat
  streaming : Bool
  pinned : Bool
  valid : BitVec 128
  dirty : BitVec 128
  /-- Dirty bytes found uncorrectable: withheld from readers and never written back (R449). -/
  bad : BitVec 128
  data : Cells Byte
  deriving DecidableEq, Repr

/-- An instruction-cache line that is present: of code on another device it holds the bytes (log 7). -/
structure ICLine where
  core : Nat
  ctx : Nat
  line : Nat
  data : List Byte
  deriving DecidableEq, Repr

/-- An L2 line that is present: which 64-byte halves are dirty, and its RDC directory (R210, R470). -/
structure L2Line where
  line : Nat
  dirty : BitVec 2
  dir : BitVec 8
  deriving DecidableEq, Repr

/-- A remote-data-cache line: borrowed when it names a context (R210, R211). -/
structure RdcLine where
  die : Nat
  ctx : Option Nat
  dev : Nat
  line : Nat
  /-- Of a streaming page: the first candidate for replacement (R209). -/
  streaming : Bool
  data : List Byte
  deriving DecidableEq, Repr

/-- A cached leaf (R327): of a core's cache, or of a die's when `core` is none. -/
structure TlbEntry where
  core : Option Nat
  die : Nat
  ctx : Nat
  big : Bool
  page : Nat
  leaf : BitVec 64
  deriving DecidableEq, Repr

/-- The state of a context (R338). -/
inductive Phase where
  | active
  | draining
  | cutting
  | resetting
  | preempted
  deriving DecidableEq, Repr

/-- A context: descriptor, ring, keys, record area, pre-emption (R318, R322, R332, R338, R415, R466). -/
structure Ctx where
  id : Nat
  root : BitVec 64
  toktab : BitVec 64
  trapArea : BitVec 64
  trapSize : Nat
  deadline : Nat
  pocket : BitVec 64
  frames : Nat
  phase : Phase
  cutArea : BitVec 64
  cutSize : BitVec 64
  rbase : BitVec 64
  rsize : BitVec 5
  rprod : Word
  rcons : Word
  keys : List (Nat × BitVec 128)
  nextHandle : BitVec 64
  usedFrames : List Nat
  /-- Request entries waiting for the ring: handle and the 256 words (R189). -/
  entryWait : List (BitVec 64 × List Word)
  /-- Trap records waiting for room: the block, if any, and the 256 words (R329, R336). -/
  trapWait : List (Option Nat × List Word)
  recAddr : BitVec 64
  recSlots : Nat
  /-- Credits by device, where they differ from `recSlots` (R415). -/
  credits : Cells Nat
  recQueue : List (Nat × List Word)
  taken : Cells Nat
  /-- Pre-emption timers: core and the cycle they expire (R339). -/
  timers : List (Nat × Nat)
  /-- The launch a cut names (R345). -/
  cutLaunch : Option Nat
  deriving DecidableEq, Repr

/-- A launch queue (R296); `assign` counts its assignments (R303). -/
structure Queue where
  id : Nat
  valid : Bool
  ctx : Nat
  next : Word
  drops : Word
  assign : Nat
  deriving DecidableEq, Repr

/-- A set's phase: member blocks that have arrived (R195). -/
structure SetPhase where
  phase : Nat
  arrived : List Nat
  deriving DecidableEq, Repr

/-- A launch, from commit to record (R297-R314). -/
structure Launch where
  uid : Nat
  queue : Nat
  ctx : Nat
  seq : Word
  order : Nat
  packet : List Word
  /-- The queue assignments its dependences are bound to (R303). -/
  stamps : List Nat
  status : Option Nat
  started : Bool
  /-- A concurrent launch's reservation: the core of each block (R307). -/
  reserved : List Nat
  /-- Members of each set as ranges (R301), and its phase. -/
  sets : List (List (Nat × Nat))
  phases : List (Nat × SetPhase)
  /-- Indices returned by restarts, ahead of the next new index (R341). -/
  returned : List Nat
  nextIdx : Nat
  live : Nat
  ended : Nat
  ran : Nat
  killed : Nat
  faults : Nat
  maxStep : Nat
  lastRead : Option Nat
  /-- The number of the last write to the memory wait's line that its last read has seen (R304). -/
  waitSeen : Nat
  /-- The scope at which its blocks' starts acquire: 2 device, 3 fabric (R304, R311). -/
  waitScope : Nat
  waitDone : Bool
  /-- Its set table is being read from another device (R301). -/
  checking : Bool
  /-- A cut under way: the target so far (R345). -/
  cut : Option Nat
  cutDone : Bool
  deriving DecidableEq, Repr

/-- A virtual-channel side of a Svacon port (R366-R369). -/
structure Port where
  id : Nat
  up : Bool
  peer : Nat
  fenced : Bool
  /-- Limits the peer grants this sender, and its outstanding counts, by VC. -/
  limits : List Nat
  outst : List Nat
  /-- Limits this receiver grants, the limits of the round under way, its epoch and stage. -/
  granted : List Nat
  newLimits : List Nat
  epoch : BitVec 4
  stage : Nat
  /-- Flit cycles at which the last round began and the last LEND was sent. -/
  roundAt : Nat
  lendAt : Nat
  /-- Epoch of the last LEND applied as a sender, and the last LACK seen as a receiver. -/
  applied : BitVec 4
  lackSeen : BitVec 4
  /-- Flits received on each VC in this interval, and credits to return. -/
  counts : List Nat
  owed : List Nat
  sendSeq : BitVec 11
  expect : BitVec 11
  replay : List Flit
  /-- Flits that wait to be forwarded: the Svacon cycle they arrived in, and the port chosen for them then (R361). -/
  rx : List (Nat × Nat × Flit)
  tx : List Flit
  deriving DecidableEq, Repr

/-- Running totals of one peer and class (R371, R372). -/
structure Totals where
  peer : Nat
  cls : Nat
  sent : Word
  freed : Word
  limit : Nat
  tseq : BitVec 16
  lastApplied : Option (BitVec 16)
  peerFreed : Word
  peerLimit : Nat
  lastReported : Word
  /-- When its last TOTALS was sent, the first change since, and the counts at that time (R371). -/
  lastAt : Option Nat
  changed : Option Nat
  sent0 : Word
  freed0 : Word
  deriving DecidableEq, Repr

/-- Who waits for a remote request (R373, R383). -/
inductive ReqOwner where
  | load (b wv : Nat)
  | store (b wv lane : Nat)
  | atom (b wv lane : Nat)
  | copy (core seq : Nat)
  | waitv (b wv : Nat)
  /-- A line that a lane's ray query reads (R289). -/
  | ray (b wv lane : Nat)
  /-- An instruction fetch: the core and the virtual line (R8). -/
  | code (core line : Nat)
  /-- A prefetch, for which nothing waits (R241). -/
  | pref
  /-- A WREC POST: it has no reply but an abort (R416, R417). -/
  | post (b wv lane : Nat)
  /-- A WREC RETURN, which has no reply either (R416). -/
  | giveBack
  /-- The memory wait of a launch (R304). -/
  | wait (l : Nat)
  /-- A completion record for a launch of queue `q`: after the body STATUS is written, at the given device, slot and
address, and after that the vector raised, if any (R299). -/
  | record (q : Nat) (head : Option (Nat × Nat × Nat × List Byte)) (vec : Option Nat)
  /-- A COLL flit, which has no reply but an abort (R366, R382), and the chunk step that sends it: communicator,
  operation and number (R397). -/
  | coll (step : Option (Nat × Nat × Nat))
  /-- Dirty bytes of a core's L1 whose page has come to lie on another device (R213, R329). -/
  | evict (core : Nat)
  /-- A sector that the Mantle reads, for a communicator or a set table (R301, R386, R396). -/
  | mread
  /-- Bytes that the Mantle writes (R395, R396, R413). -/
  | mput
  deriving DecidableEq, Repr

/-- A remote request: its name, the device it goes to, first 64-byte sector and count, the context, the die whose RDC its line
fills with its streaming mark (R209), and who waits for it (R373, R375). -/
structure Request where
  rid : Nat
  dev : Nat
  sector : Nat
  count : Nat
  ctx : Nat
  fill : Option (Nat × Bool)
  /-- The core and virtual line of the L1 line that the answer fills too (R209). -/
  l1 : Option (Nat × Nat)
  /-- The entry of its context's token table that is read as it is sent (R381). -/
  slot : Option Nat
  owner : ReqOwner
  deriving DecidableEq, Repr

/-- The flits that keep one path (R362): a message or a reply, the stream to a rank, records to a device. -/
inductive Packet where
  | single (n : Nat)
  | stream (id peer : Nat)
  | records (dev : Nat)
  deriving DecidableEq, Repr

/-- A flit in the egress queue, since when; a request keeps its place until it may be sent (R372, R375, R382). -/
structure Queued where
  flit : Flit
  req : Option Request
  packet : Packet
  since : Nat
  deriving DecidableEq, Repr

/-- An outstanding remote request with the sectors already received (R382). -/
structure Tag where
  target : Nat
  idx : Nat
  gen : BitVec 3
  req : Request
  sent : Nat
  got : List (Nat × List Byte)
  /-- Class and SENT of a REC or COLL flit, which has no reply: the peer's FREED reaching it ends it (R371). -/
  mark : Option (Nat × Word)
  deriving DecidableEq, Repr

/-- The fabric side of the device (R357-R385). -/
structure Svacon where
  ports : List Port
  router : Cells (BitVec 128)
  lfsr : BitVec 16
  totals : List Totals
  tags : List Tag
  /-- Generation of tag index 1024 target + idx. -/
  gens : Cells (BitVec 3)
  /-- Timed-out tags: target, index, end in Svacon cycles, sector if it names one (R375, R383). -/
  quarantine : List (Nat × Nat × Nat × Option Nat)
  egress : List Queued
  /-- The intermediate device chosen for a packet under way (R362). -/
  paths : List (Packet × Nat)
  windows : Cells (BitVec 64)
  tick : BitVec 11
  /-- TOK.FAIL(1-7) at 1-7, LATE.REPLY 8, STALE.DROP 9, BAD.FLIT 10, CRC.REPLAY 11, BAD.LINK 12, UNREACH 13. -/
  counters : Cells Word
  deriving DecidableEq, Repr

/-- A Mantle message that has arrived from a rank, or is arriving flit by flit (R407). -/
structure MMsg where
  peer : Nat
  opseq : Nat
  step : Nat
  chunk : Nat
  kind : Nat
  incomplete : Bool
  /-- Declared lost (R410): what arrives of it later is dropped. -/
  lost : Bool
  /-- A loss of every chunk of the step. -/
  allChunks : Bool
  /-- What has arrived by flit, and the last flit's number. -/
  pieces : List (Nat × List Byte)
  last : Option Nat
  /-- It has a chunk of the partition (R398), and how many of its flits are not freed yet (R371). -/
  landed : Bool
  unfreed : Nat
  /-- All of it has arrived. -/
  closed : Bool
  data : List Byte
  deriving DecidableEq, Repr

/-- A COLL or CSEND with its descriptor (R389-R391) and its number (R393). -/
structure CollOp where
  csend : Bool
  name : Nat
  block : Nat
  wave : Nat
  token : Nat
  ctx : Nat
  desc : List Word
  seq : Nat
  /-- Position in the send stream of a CSEND's first byte (R413). -/
  pos : Nat
  deriving DecidableEq, Repr

/-- One chunk step of a collective (R397, R400, R420-R422): `s` the algorithm step, `c` the chunk. -/
inductive CollAct where
  | emaxReduce (s c : Nat)
  | emaxGather (s c : Nat)
  | emaxLast (c : Nat)
  | data (s c : Nat)
  | own (c : Nat)
  | resGather (s c : Nat)
  | resLast (c : Nat)
  | gather (s c : Nat)
  | gatherLast (c : Nat)
  | bcast (c : Nat)
  | barrier (s : Nat)
  | barrierLast
  | swapSend (j : Nat)
  | swapMerge (j : Nat)
  | ring (s c : Nat)
  /-- A part's owner merges a chunk of LO, and of HI (R406). -/
  | ringLo (c : Nat)
  | ringHi (c : Nat)
  /-- One rank: DST receives SRC (R400). -/
  | copy (c : Nat)
  deriving DecidableEq, Repr

/-- The operation a communicator is running (R397, R421, R422). -/
structure CollRun where
  op : CollOp
  todo : List CollAct
  /-- Codes of the e_max pass, by block. -/
  codes : Cells Nat
  /-- Tiles of the rank's own region: index and 192 bytes. -/
  image : List (Nat × List Byte)
  /-- Entries of `image` that lost something: what is sent of them is INCOMPLETE (R410, R411). -/
  spoiled : List Nat
  status : Nat
  sat : Nat
  lost : Nat
  /-- Ranks to which the operation header has been sent, and whose header has arrived and agrees. -/
  hdrSent : List Nat
  hdrGot : List Nat
  /-- When the next chunk step's wait began (R410). -/
  since : Nat
  deriving DecidableEq, Repr

/-- A CSEND under way in its send stream: bytes sent, and LOST sectors (R411, R413). -/
structure SendJob where
  op : CollOp
  peer : Nat
  /-- Position of its first byte in the stream. -/
  start : Nat
  sent : Nat
  lost : Nat
  deriving DecidableEq, Repr

/-- The state of a communicator (R387). -/
inductive CommPhase where
  | active
  | retiring
  | quiescent
  deriving DecidableEq, Repr

/-- A communicator that is not freed (R386). -/
structure Comm where
  id : Nat
  gen : Nat
  phase : CommPhase
  nranks : Nat
  rank : Nat
  prio : Nat
  uet : Bool
  minChunks : Nat
  ctx : Nat
  rxSlice : Nat
  tclass : Nat
  members : List Nat
  tokens : List (BitVec 64)
  rxBase : BitVec 64
  opseq : Nat
  /-- CSEND words accepted for each peer (R393). -/
  sendSeq : Cells Nat
  queue : List CollOp
  run : Option CollRun
  sends : List SendJob
  /-- Ends of CSENDs and copy rows that the receiver has not acknowledged: peer, position, the CSEND
  with its lost sectors, and since when. -/
  awaits : List (Nat × Nat × Option (CollOp × Nat) × Nat)
  inbox : List MMsg
  readySince : Option Nat
  raise : Nat
  /-- Position of the send stream to each rank, and from each rank (R413). -/
  sendPos : Cells Nat
  recvPos : Cells Nat
  /-- Ranks of whose CSEND or copy row under way a flit has been lost (R410). -/
  recvBad : List Nat
  /-- Operations that have ended: number, descriptor, and the ranks that have had this rank's header (R393). -/
  past : List (Nat × List Word × List Nat)
  /-- Peers whose TOTALS have been applied since quiescence (R387). -/
  exchanges : List Nat
  /-- Ends of CSENDs and copy rows whose position word is still to be written: sending rank and position (R413). -/
  ends : List (Nat × Nat)
  /-- The first access of the next step meets an abort (R411, R437). -/
  abortNext : Bool
  deriving DecidableEq, Repr

/-- A sector on another device that the Mantle asks for: its request, whose it is (a communicator's id, 64 the record
of COMMCREATE, 65 + uid a launch's set table), and its bytes once answered, none in that after an abort (R301, R386,
R396). -/
structure MRead where
  rid : Nat
  key : Nat
  dev : Nat
  sector : Nat
  data : Option (Option (List Byte))
  deriving DecidableEq, Repr

/-- What a write of the Mantle to another device belongs to (R395, R396, R413): a step of an operation, with what
was then left of it, a send stream, its position word, or a completion record. -/
inductive PostUse where
  | dst (id name step : Nat)
  | stream (id peer : Nat)
  | word (id peer reached : Nat)
  | record (name : Nat)
  deriving DecidableEq, Repr

/-- Such a write; once answered, whether it has been performed. -/
structure MPost where
  rid : Nat
  use : PostUse
  done : Option Bool
  deriving DecidableEq, Repr

/-- A completion record that is being written (R395): what it says, whether its token completes, whether STATUS has
been written or sent, and whether a write has failed. -/
structure MRecord where
  op : CollOp
  status : Nat
  sat : Nat
  lost : Nat
  comm : Nat
  withToken : Bool
  head : Bool
  failed : Bool
  deriving DecidableEq, Repr

/-- A message on Ultra Ethernet (R407-R409): communicator, peer endpoint's index and entry as it is sent, delivery
in order or not, a send or a write, the DSCP codepoint, and the bytes. -/
structure UetMsg where
  comm : Nat
  peer : Nat
  endpoint : List Word
  ordered : Bool
  send : Bool
  dscp : Nat
  data : List Byte
  deriving DecidableEq, Repr

/-- The Mantle (R386-R422). -/
structure Mantle where
  comms : List Comm
  /-- Generation an id will next be issued with. -/
  gens : Cells Nat
  /-- COLL and CSEND words that have left their cores and wait at the Mantle. -/
  arriving : List CollOp
  /-- UET messages sent, oldest first. -/
  out : List UetMsg
  /-- STALE.GEN 0, BAD.TILE 1, LOST.TILE 2, LOST.SECT 3, SAT.ELEM 4, UET.GIVEUP 5, DROP.REC 6. -/
  counters : Cells Word
  /-- UET peer table: word 16 i + j (R409). -/
  peers : Words
  /-- Messages not yet acknowledged, and open packet delivery contexts: communicator, peer endpoint,
ordered or not (R408, R409). -/
  unacked : List UetMsg
  openPdc : List (Nat × Nat × Bool)
  /-- Sectors asked for, writes not answered and records under way on other devices' pages (R301, R386, R395, R396). -/
  reads : List MRead
  posts : List MPost
  records : List MRecord
  deriving DecidableEq, Repr

/-- Errors, repairs and logs (R437-R453). -/
structure Rel where
  /-- STRIKE.UNCORE, SRAM.CE, SRAM.UE of die d at 4 d, 4 d + 1, 4 d + 2. -/
  die : Words
  /-- CELL.CE, XFER.ERR, XFER.UE, SWAPS of stack h at 4 h ... 4 h + 3. -/
  stack : Words
  /-- Array log of stack h, entry j: word 256 h + 4 j + k; transfer logs beside it. -/
  arrayLog : Words
  xferLog : Words
  /-- Events of each pseudo-channel since reset: 192 h + pch. -/
  arrayCount : Cells Nat
  xferCount : Cells Nat
  /-- Repair table: word 4 i + k (R444). -/
  repairs : Words
  /-- Error-log ring: word 8 (SEQ mod 4096) + k, and NEXT (R450). -/
  errLog : Words
  errNext : Word
  /-- The entry last written of each stack's logs: 2 h array, 2 h + 1 transfer. -/
  logLast : Cells Nat
  /-- Physical addresses of bytes that read as uncorrectable (R235, R446). -/
  badBytes : List Nat
  /-- Physical addresses of bytes whose cells in the HBM4E read as uncorrectable, whatever the L2 holds of them (R446,
  R447). -/
  badCells : List Nat
  /-- Half lines written to the HBM4E whose transfer has not been reported: address, the bytes that were there and
  those of them that read as uncorrectable (R447). -/
  writes : List (Nat × List Byte × List Nat)
  /-- Fenced pseudo-channel groups: 16 h + g (R451). -/
  fencedGroups : List Nat
  frozen : Bool
  errorIrq : Nat
  deriving DecidableEq, Repr

/-- A change of a die's clock: when, the core cycles its die had counted, and MHz from then on (R2, R462). -/
structure ClkMark where
  die : Nat
  time : Nat
  count : Nat
  mhz : Nat
  deriving DecidableEq, Repr

/-- The management controller's own state (R462-R469). -/
structure Mgmt where
  power : Word
  coolin : Word
  clk : Cells Nat
  /-- The changes of the dies' clocks, newest first (R2, R462). -/
  clkMarks : List ClkMark
  temp : Cells Nat
  ceiling : Cells Nat
  svTimeout : Nat
  recLim : Nat
  reqLim : Nat
  freezeMask : BitVec 8
  ownId : Word
  responses : List (List Word)
  /-- Commands that wait for their effect or their turn, oldest first: code, tag and arguments (R463). -/
  waiting : List (List Nat)
  /-- The first of them goes on in this step: no request that has arrived (log 43). -/
  retrying : Bool
  /-- Accepted firmware images that have not taken effect, and those that have, by unit. -/
  images : List (Nat × List Byte)
  running : List (Nat × List Byte)
  deriving DecidableEq, Repr

/-- The whole device. -/
structure State where
  now : Nat
  agenda : List Instr
  free : Nat
  issues : List Issue
  mem : Memory
  dram : Memory
  hostMem : Memory
  l1 : List L1Line
  l2 : List L2Line
  /-- How many writes the home L2 has reported for each line (R197, R304). -/
  reports : Cells Nat
  rdc : List RdcLine
  icache : List ICLine
  /-- Lines of the ray node caches with their bytes, newest first (R289). -/
  raycache : List ICLine
  /-- When the lines of a context last left a core's ray node cache: 64 core + ctx (R289, R290). -/
  rayClear : Cells Nat
  tlb : List TlbEntry
  ctxs : List Ctx
  queues : List Queue
  /-- Aperture slots: word 64 (16 q + slot) + k (R295). -/
  slots : Words
  /-- MSI-X table words and pending bits (R294). -/
  msix : Words
  pba : Cells Bool
  raised : List Nat
  launches : List Launch
  nextOrder : Nat
  nextUid : Nat
  cores : List Core
  blocks : List Block
  sv : Svacon
  mantle : Mantle
  rel : Rel
  mgmt : Mgmt
  deriving DecidableEq, Repr

/-- The device right after reset: no context, no launch, no block; every register the spec gives a
reset value at that value (R296, R318, R385, R418, R441, R442, R469), the others as log 1, 3, 9,
13-18 name them. -/
def State.reset : State where
  now := 0
  agenda := []
  free := 0
  issues := []
  mem := []
  dram := []
  hostMem := []
  l1 := []
  l2 := []
  reports := []
  rdc := []
  icache := []
  raycache := []
  rayClear := []
  tlb := []
  ctxs := []
  queues := []
  slots := []
  msix := []
  pba := []
  raised := []
  launches := []
  nextOrder := 0
  nextUid := 0
  cores := []
  blocks := []
  sv :=
    { ports := [], router := [], lfsr := 1, totals := [], tags := [], gens := [], quarantine := [],
      egress := [], paths := [], windows := [], tick := 0, counters := [] }
  mantle :=
    { comms := [], gens := [], arriving := [], out := [], counters := [], peers := [], unacked := [],
      openPdc := [], reads := [], posts := [], records := [] }
  rel :=
    { die := [], stack := [], arrayLog := [], xferLog := [], arrayCount := [], xferCount := [],
      repairs := [], errLog := [], errNext := 0, logLast := [], badBytes := [], badCells := [], writes := [], fencedGroups := [], frozen := false,
      errorIrq := 0 }
  mgmt :=
    { power := 0, coolin := 0, clk := [], clkMarks := [], temp := [], ceiling := [], svTimeout := 20, recLim := 8,
      reqLim := 16, freezeMask := 0, ownId := 0, responses := [], waiting := [], retrying := false, images := [], running := [] }

end Sys2Proof.Machine
end

