-- ==== Sys2Proof/Machine/Operands.lean ====
section
/-! DEFINITION. Operand forms of the clause words: vector codes, predicates, scalar registers and their
ninth bits, permutations, extension words, immediates, and the checks of R35 (R36-R45, R86-R92, R107-R111,
R130-R133). -/

namespace Sys2Proof.Machine

open Sys2Proof

/-- The word that issues: its clause, block, wave and part (R8, R155). -/
structure Cur where
  iss : Issue
  blk : Block
  wv : Wave
  pt : Part
  deriving DecidableEq, Repr

/-- Lane l of register n of a vector file. -/
def vLane (v : Words) (n l : Nat) : Word := getAt 0 v (32 * n + l)

/-- Lanes `f 0 ... f (k-1)` written into register n where `mask` is set. -/
def setLanes (mask : Mask) (n : Nat) (f : Nat → Word) : Nat → Words → Words
  | 0, v => v
  | k + 1, v =>
    let u := setLanes mask n f k v
    if mask.getLsbD k then setAt 0 u (32 * n + k) (f k) else u

/-- Write the lanes of a vector register that `mask` names. -/
def Wave.setV (w : Wave) (n : Nat) (mask : Mask) (f : Nat → Word) : Wave :=
  { w with v := setLanes mask n f 32 w.v }

/-- Scalar register n. -/
def Wave.getS (w : Wave) (n : Nat) : Word := getAt 0 w.s n

/-- Write scalar register n. -/
def Wave.setS (w : Wave) (n : Nat) (x : Word) : Wave := { w with s := setAt 0 w.s n x }

/-- Scalar pair n, n + 1 as 64 bits (R3, R60). -/
def Wave.getS64 (w : Wave) (n : Nat) : Addr := w.getS (n + 1) ++ w.getS n

/-- Write a scalar pair. -/
def Wave.setS64 (w : Wave) (n : Nat) (x : Addr) : Wave :=
  (w.setS n (x.extractLsb' 0 32)).setS (n + 1) (x.extractLsb' 32 32)

/-- Predicate register n as a mask; P15 reads as all ones (R152). -/
def Wave.getP (w : Wave) (n : Nat) : Mask := if n = 15 then 0xFFFFFFFF#32 else getAt 0 w.p n

/-- Write predicate register n; a write to P15 is ignored (R99). -/
def Wave.setP (w : Wave) (n : Nat) (x : Mask) : Wave :=
  if n = 15 then w else { w with p := setAt 0 w.p n x }

/-- Byte b of tile n. -/
def tileByte (t : Cells Byte) (n b : Nat) : Byte := getAt 0 t (512 * n + b)

/-- Lanes that can supply no value to another lane: dead, or exited (R17, R187). -/
def Wave.gone (w : Wave) : Mask := w.dead ||| w.exitedLanes

/-- Lowest set bit of a mask, from bit 32 - n up; 32 when none. -/
def firstLane (m : Mask) : Nat → Nat
  | 0 => 32
  | n + 1 => if m.getLsbD (31 - n) then 31 - n else firstLane m n

/-- The lead lane of the issuing part: the lowest lane of its mask (R131). -/
def Cur.lead (c : Cur) : Nat := firstLane (c.pt.mask &&& ~~~c.wv.gone) 32

/-- The value of a vector field code in lane l (R38); `slot1` chooses the latches (R15). -/
def Cur.vec (c : Cur) (slot1 : Bool) (code l : Nat) : Word :=
  if code < 240 then vLane c.wv.v code l
  else if code < 244 then
    ((if slot1 then c.iss.lat1 else c.iss.lat0).getD (code - 240) []).getD l 0
  else match code with
    | 244 => 0
    | 245 => BitVec.ofNat 32 l
    | 246 => BitVec.ofNat 32 c.iss.part
    | 247 => BitVec.ofNat 32 (32 * c.wv.idx + l)
    | _ => 0

/-- Source lane of lane i under an XP pattern (R41). -/
def permLane (pat k i : Nat) : Nat :=
  match pat with
  | 1 => (i + k) % 32
  | 2 => k
  | 3 => i ^^^ k
  | 4 => 31 - i
  | _ => i

/-- Pattern and parameter of operand 0 (A), 1 (B) or 2 (C) in an XP word (R41). -/
def xpField (xp : Option Word) (which : Nat) : Nat × Nat :=
  match xp with
  | none => (0, 0)
  | some w =>
    match which with
    | 0 => ((w.extractLsb' 22 3).toNat, (w.extractLsb' 17 5).toNat)
    | 1 => ((w.extractLsb' 14 3).toNat, (w.extractLsb' 9 5).toNat)
    | _ => ((w.extractLsb' 6 3).toNat, (w.extractLsb' 1 5).toNat)

/-- An operand read through the crossbar: a dead source lane supplies zero (R17, R87). -/
def Cur.opnd (c : Cur) (slot1 : Bool) (which code l : Nat) : Word :=
  let x := xpField c.iss.xp which
  let j := permLane x.1 x.2 l
  if c.wv.gone.getLsbD j then 0 else c.vec slot1 code j

/-- XC PRED (R43). -/
def xcPred (x : Word) : Nat := (x.extractLsb' 21 4).toNat
/-- XC NEG. -/
def xcNeg (x : Word) : Bool := x.getLsbD 20
/-- XC C. -/
def xcC (x : Word) : Nat := (x.extractLsb' 12 8).toNat
/-- XC RND. -/
def xcRnd (x : Word) : Nat := (x.extractLsb' 9 3).toNat
/-- XC SAT. -/
def xcSat (x : Word) : Bool := x.getLsbD 8
/-- XC NINE, bit 2 for D, 1 for A, 0 for B. -/
def xcNine (x : Word) : BitVec 3 := x.extractLsb' 5 3
/-- XC IMMX. -/
def xcImm (x : Word) : BitVec 5 := x.extractLsb' 0 5

/-- The predicate mask that XC gives (R43, R86). -/
def Cur.predMask (c : Cur) : Mask :=
  match c.iss.xc with
  | none => 0xFFFFFFFF#32
  | some x => if xcNeg x then ~~~(c.wv.getP (xcPred x)) else c.wv.getP (xcPred x)

/-- The lanes that execute the word (R72, R86). -/
def Cur.execMask (c : Cur) : Mask := c.pt.mask &&& ~~~c.wv.gone &&& c.predMask

/-- Lanes of a word that takes no predicate (R142, R177). -/
def Cur.liveMask (c : Cur) : Mask := c.pt.mask &&& ~~~c.wv.gone

/-- Whether a scalar word takes effect: the lead lane's bit (R131). -/
def Cur.scalarTakes (c : Cur) : Bool :=
  match c.iss.xc with
  | none => true
  | some x => (c.wv.getP (xcPred x)).getLsbD c.lead != xcNeg x

/-- SAT of the word (R43). -/
def Cur.sat (c : Cur) : Bool := match c.iss.xc with
  | none => false
  | some x => xcSat x

/-- The C operand's code: XC C, else the code of D (R43, R87). -/
def Cur.cCode (c : Cur) (d : Nat) : Nat := match c.iss.xc with
  | none => d
  | some x => xcC x

/-- The word's rounding mode, RN when none is named; SR takes the given random bits (R67, R70). -/
def Cur.mode (c : Cur) (r : Nat) : Mode := match c.iss.xc with
  | none => .rn
  | some x => match xcRnd x with
    | 2 => .rz
    | 3 => .ru
    | 4 => .rd
    | 5 => .sr r
    | _ => .rn

/-- Is the word's mode SR? -/
def Cur.isSR (c : Cur) : Bool := match c.iss.xc with
  | none => false
  | some x => xcRnd x == 5

/-- The immediate of VI: 8 bits, 13 with an XC, sign-extended (R89). -/
def Cur.imm8 (c : Cur) (i : BitVec 8) : Word := match c.iss.xc with
  | none => i.signExtend 32
  | some x => (xcImm x ++ i).signExtend 32

/-- The immediate of VM: 16 bits, 21 with an XC, sign-extended (R89). -/
def Cur.imm16 (c : Cur) (i : BitVec 16) : Word := match c.iss.xc with
  | none => i.signExtend 32
  | some x => (xcImm x ++ i).signExtend 32

/-- The full number of an S field: XC's ninth bit above it (R40, R133); `pos` 2 for D, 1 A, 0 B. -/
def Cur.sNum (c : Cur) (pos : Nat) (f : BitVec 8) : Nat := match c.iss.xc with
  | none => f.toNat
  | some x => (if (xcNine x).getLsbD pos then 256 else 0) + f.toNat

/-- What a field of the word names, for its ninth bit (R40, R44). -/
inductive FieldKind where
  /-- An S register: a ninth bit is accepted. -/
  | sreg
  /-- A V, P, T or A operand: a ninth bit traps with illegal-operand. -/
  | reg
  /-- An immediate, a function code or zero: a ninth bit traps with illegal-instruction. -/
  | imm
  deriving DecidableEq, Repr

/-- What an XC may carry before a word (R44, R90, R109, R132). -/
structure XcRule where
  /-- No extension at all is accepted. -/
  noXc : Bool := false
  /-- The word does not execute without an XC (SEL, SSEL). -/
  needXc : Bool := false
  pred : Bool := true
  cVec : Bool := false
  /-- C is a vector operand under SR only (R109). -/
  cIfSR : Bool := false
  cSel : Bool := false
  rnd : Bool := false
  sr : Bool := false
  sat : Bool := false
  imm : Bool := false
  d : FieldKind := .reg
  a : FieldKind := .reg
  b : FieldKind := .reg
  xpA : Bool := false
  xpB : Bool := false
  xpC : Bool := false
  /-- A MEM word: RND and SAT carry scope and order (R45). -/
  memOrder : Bool := false
  deriving DecidableEq, Repr

/-- A ninth bit where the field accepts none but is a register: illegal-operand (R40). -/
def nineOperand (r : XcRule) (x : Word) : Bool :=
  let n := xcNine x
  (n.getLsbD 2 && r.d == .reg) || (n.getLsbD 1 && r.a == .reg) || (n.getLsbD 0 && r.b == .reg)

/-- The fields of an XC that are not ninth bits of registers are acceptable (R44). -/
def xcOk (r : XcRule) (x : Word) : Bool :=
  let n := xcNine x
  let rn := xcRnd x
  let isSR := rn == 5
  !r.noXc
  && (r.pred || (xcPred x == 15 && !xcNeg x))
  && (r.cVec || (r.cIfSR && isSR) || (r.cSel && (x.extractLsb' 16 4).toNat == 0) || xcC x == 0)
  && (r.memOrder || rn == 0 || (r.rnd && decide (rn ≤ 4)) || (r.sr && isSR))
  && (r.memOrder || r.sat || !xcSat x)
  && (r.imm || xcImm x == 0)
  && !(n.getLsbD 2 && r.d == .imm) && !(n.getLsbD 1 && r.a == .imm) && !(n.getLsbD 0 && r.b == .imm)

/-- One operand's pattern of an XP is acceptable (R41, R42). -/
def xpOne (allowed : Bool) (f : Nat × Nat) : Bool :=
  if allowed then decide (f.1 ≤ 4) && (f.1 == 1 || f.1 == 2 || f.1 == 3 || f.2 == 0)
  else f.1 == 0 && f.2 == 0

/-- An XP before the word is acceptable; `takesXp` says the opcode accepts one (R42). -/
def xpOk (takesXp : Bool) (r : XcRule) : Option Word → Bool
  | none => true
  | some w =>
    takesXp && xpOne r.xpA (xpField (some w) 0) && xpOne r.xpB (xpField (some w) 1)
      && xpOne r.xpC (xpField (some w) 2)

/-- The checks and the register use of a clause word. -/
structure Form where
  /-- The primary opcode. -/
  opcode : Nat
  /-- Function, condition and reserved fields are legal (R48, R49, R92). -/
  fieldsOk : Bool
  xc : XcRule
  takesXp : Bool := false
  /-- Every operand is legal (R38, R39). -/
  operandsOk : Bool
  reads : Regs
  writes : Regs
  lat : Nat
  deriving DecidableEq, Repr

/-- No registers. -/
def noRegs : Regs := { v := [], s := [], p := [], t := [] }

/-- Trap code illegal-instruction (R335). -/
def causeInstr : Nat := 1
/-- Trap code illegal-operand. -/
def causeOperand : Nat := 3

/-- The first fault of a word, in the order of R35: fields, extensions, operands. -/
def Form.fault (f : Form) (iss : Issue) : Option Nat :=
  let extOk := xpOk f.takesXp f.xc iss.xp && (match iss.xc with
    | none => !f.xc.needXc
    | some x => xcOk f.xc x)
  if !f.fieldsOk || !extOk then some causeInstr
  else if !f.operandsOk || (match iss.xc with
    | none => false
    | some x => nineOperand f.xc x) then some causeOperand
  else none

/-- A vector source code is legal: not 248-255, and within the declared registers (R38, R39). -/
def Cur.srcOk (c : Cur) (code : Nat) : Bool :=
  decide (code < c.blk.decl.vregs) || (decide (240 ≤ code) && decide (code < 248))

/-- `n` vector registers from a code, starting on a multiple of `al`, are declared (R39). -/
def Cur.vregsOk (c : Cur) (code n al : Nat) : Bool :=
  decide (code + n ≤ c.blk.decl.vregs) && decide (code % al = 0)

/-- A vector destination is legal; with nwb set D is zero and nothing is named (R37, R88). -/
def Cur.dstOk (c : Cur) (nwb : Bool) (code : Nat) : Bool := nwb || c.vregsOk code 1 1

/-- `n` scalar registers from a number, on a multiple of `al`, are declared (R39). -/
def Cur.sregsOk (c : Cur) (num n al : Nat) : Bool :=
  decide (num + n ≤ c.blk.decl.sregs) && decide (num % al = 0)

/-- Registers a vector source code reads: none for a latch or a constant. -/
def srcRegs (code n : Nat) : List Nat := if code < 240 then List.range' code n else []

/-- Predicates that the XC of a word reads. -/
def Cur.xcReads (c : Cur) : List Nat := match c.iss.xc with
  | none => []
  | some x => [xcPred x]

/-- Registers that an outstanding load or atomic of the wave will write (R13). -/
def loadRegs : LoadDest → Regs
  | .vec d n => { noRegs with v := List.range' d n }
  | .scalar d n => { noRegs with s := List.range' d n }
  | .tile t => { noRegs with t := [t] }
  | .cas d => { noRegs with v := [d, d + 1] }
  | .packet => noRegs

/-- A predicate register that a word will write; P15 is never written (R99). -/
def predReg (p : Nat) : List Nat := if p = 15 then [] else [p]

/-- Registers that a queued effect, or an outstanding atomic, will write (R13, R416). -/
def effectRegs : Effect → Regs
  | .atom _ fn (some d) _ _ _ _ => { noRegs with v := if fn == 9 then [d, d + 1] else [d] }
  | .post _ p _ => { noRegs with p := predReg p }
  | .take _ p v _ => { noRegs with v := List.range' v 16, p := predReg p }
  | _ => noRegs

/-- Every pending register of a wave (R13, R14). -/
def Wave.pending (w : Wave) : List Regs :=
  w.pend.map (·.regs) ++ w.loads.map (fun l => loadRegs l.dest) ++
    w.sq.map (fun e => effectRegs e.2) ++ w.atoms.map effectRegs ++
    w.rays.map (fun r => { noRegs with v := List.range' r.res 4 })

/-- Do two register sets meet? -/
def Regs.meets (a b : Regs) : Bool :=
  a.v.any b.v.contains || a.s.any b.s.contains || a.p.any b.p.contains || a.t.any b.t.contains

/-- A word waits while a register it reads or writes is pending (R13). -/
def Form.waits (f : Form) (w : Wave) : Bool :=
  w.pending.any fun r => r.meets f.reads || r.meets f.writes

end Sys2Proof.Machine
end

