-- ==== Sys2Proof/Machine/Ops.lean ====
section
/-! DEFINITION. The named operations over cores, blocks, waves and parts; the issue of a word with its
checks, its scoreboard wait and its retirement (R8, R13, R15, R35); taking a trap (R330, R331, R334) and
the return from one (R176, R337). -/

namespace Sys2Proof.Machine

open Sys2Proof

/-- The answer of a meaning. -/
abbrev Out := Host.Outcome State Fault Refusal

/-- A core nothing has touched: LFSR at core number + 1 (R309), counters zero (R441). -/
def Core.fresh (c : Nat) : Core :=
  { id := c, lfsr := BitVec.ofNat 16 (c + 1), pending := [], strike := 0, replay := 0, repair := [],
    fenced := false, fencedSubs := [], fencedArray := false, mchk := [], mchkLast := 0, owner := none, copies := [],
    history := [], lastWord := [], lastStream := none, stealAt := none }

/-- A die's clock as it was before any change. -/
def ClkMark.first (die : Nat) : ClkMark := { die := die, time := 0, count := 0, mhz := 3300 }

/-- The core cycles that a die had counted at a time: a die whose clock is slowed counts fewer (R2, R317, R462;
log 1). -/
def State.dieCount (s : State) (die t : Nat) : Nat :=
  let m := findD (fun x => x.die == die && decide (x.time ≤ t)) (ClkMark.first die) s.mgmt.clkMarks
  m.count + (t - m.time) * m.mhz / 3300

/-- The core cycles that a die has counted. -/
def State.dieCycles (s : State) (die : Nat) : Nat := s.dieCount die s.now

/-- The cycles that a core has counted, by its die's clock (R2). -/
def State.coreCycles (s : State) (core : Nat) : Nat := s.dieCycles (core / Config.coresPerDie)

/-- The cycles of its own that a core has counted since a time: what ages and time limits are counted in (R2, R462). -/
def State.since (s : State) (core t : Nat) : Nat :=
  s.coreCycles core - s.dieCount (core / Config.coresPerDie) t

/-- More than 256 of the core's cycles have passed since a time (R21). -/
def State.aged (s : State) (core t : Nat) : Bool := decide (s.since core t > Config.strikeWindow)

/-- The last time that is at least 256 of the core's cycles ago (R19). -/
def State.windowStart (s : State) (core : Nat) : Nat :=
  let die := core / Config.coresPerDie
  let n := s.dieCycles die - Config.strikeWindow
  let m := findD (fun x => x.die == die && decide (x.count ≤ n)) (ClkMark.first die) s.mgmt.clkMarks
  min s.now (m.time + ((n - m.count + 1) * 3300 - 1) / m.mhz)

/-- A core's own cycle counter, which is aligned with that of no other core (R317; log 18). -/
def State.cycleOf (s : State) (core : Nat) : Nat := s.coreCycles core + Config.coreSkew core

/-- Core `c`. -/
def State.core (s : State) (c : Nat) : Core := findD (fun x => x.id == c) (Core.fresh c) s.cores

/-- Change core `c`. -/
def State.updCore (s : State) (c : Nat) (f : Core → Core) : State :=
  { s with cores := upsert (fun x => x.id == c) (Core.fresh c) f s.cores }

/-- A block's bytes of slice `n` of the B-store (R253). -/
def Block.slice (b : Block) (n : Nat) : Cells Byte := b.tiles.filterMap fun e =>
  if e.1 % 8192 / 128 = n then some (128 * (e.1 / 8192) + e.1 % 128, e.2) else none

/-- Write bytes of B-store tiles; those of the slice that the spare slice copies go to it too (R253, R273). -/
def Block.tileWrite (b : Block) (off : Nat) (bs : List Byte) : Block :=
  let copy (n : Nat) (m : Cells Byte) (e : Nat × Byte) : Cells Byte :=
    if e.1 % 8192 / 128 = n then setAt 0 m (128 * (e.1 / 8192) + e.1 % 128) e.2 else m
  { b with
    tiles := setRun 0 b.tiles off bs
    spare := b.spare.map fun x => (x.1, (((List.range bs.length).map fun i => off + i).zip bs).foldl (copy x.1) x.2) }

/-- The repair byte of sub-core 0-5, or of the array (6), of a core (R441). -/
def Core.repairByte (k : Core) (i : Nat) : BitVec 8 := k.repair.getD i 0

/-- The column that the array's spare column serves (R26, R441). -/
def Core.spareColumn (k : Core) : Option Nat :=
  let v := k.repairByte 6
  if v.getLsbD 6 then some (v.extractLsb' 0 6).toNat else none

/-- The block named `u`, if it is resident. -/
def State.block? (s : State) (u : Nat) : Option Block := s.blocks.find? fun b => b.uid == u

/-- Change block `u`. -/
def State.updBlock (s : State) (u : Nat) (f : Block → Block) : State :=
  { s with blocks := updFirst (fun b => b.uid == u) f s.blocks }

/-- Wave `i` of a block. -/
def Block.wave? (b : Block) (i : Nat) : Option Wave := b.waves.find? fun w => w.idx == i

/-- Change wave `i` of a block. -/
def Block.updWave (b : Block) (i : Nat) (f : Wave → Wave) : Block :=
  { b with waves := updFirst (fun w => w.idx == i) f b.waves }

/-- Change wave `i` of block `u`. -/
def State.updWave (s : State) (u i : Nat) (f : Wave → Wave) : State :=
  s.updBlock u fun b => b.updWave i f

/-- Wave `i` of block `u`. -/
def State.wave? (s : State) (u i : Nat) : Option Wave := (s.block? u).bind fun b => b.wave? i

/-- Context `c`, if it exists: its ROOT is not 0 (R322). -/
def State.ctx? (s : State) (c : Nat) : Option Ctx := (s.ctxs.find? fun x => x.id == c).filter fun x => x.root != 0

/-- Change context `c`. -/
def State.updCtx (s : State) (c : Nat) (f : Ctx → Ctx) : State :=
  { s with ctxs := updFirst (fun x => x.id == c) f s.ctxs }

/-- Launch `l`. -/
def State.launch? (s : State) (l : Nat) : Option Launch := s.launches.find? fun x => x.uid == l

/-- Change launch `l`. -/
def State.updLaunch (s : State) (l : Nat) (f : Launch → Launch) : State :=
  { s with launches := updFirst (fun x => x.uid == l) f s.launches }

/-- A queue as reset leaves it (R296): not valid, QNEXT 1. -/
def Queue.fresh (q : Nat) : Queue :=
  { id := q, valid := false, ctx := 0, next := 1, drops := 0, assign := 0 }

/-- Launch queue `q`. -/
def State.queue (s : State) (q : Nat) : Queue := findD (fun x => x.id == q) (Queue.fresh q) s.queues

/-- Change launch queue `q`. -/
def State.updQueue (s : State) (q : Nat) (f : Queue → Queue) : State :=
  { s with queues := upsert (fun x => x.id == q) (Queue.fresh q) f s.queues }

/-- The clock one cycle on (log 1). -/
def State.tick (s : State) : State := { s with now := s.now + 1 }

/-- Word `k` of the MSI-X table (R294); a vector's control word has its mask bit set until it is written
(log 15). -/
def State.msixWord (s : State) (k : Nat) : Word := getAt (if k % 4 = 3 then 1 else 0) s.msix k

/-- Raise an MSI-X vector (R321): a vector that is masked is pending (R294; log 15). -/
def State.raise (s : State) (v : Nat) : State :=
  { s with
    raised := s.raised ++ [v]
    pba := if (s.msixWord (4 * v + 3)).getLsbD 0 then setAt false s.pba v true else s.pba }

/-- A datum is withheld: the error interrupt, and vector 32 c + 19 of the context whose access it was
(R438). -/
def State.withhold (s : State) (ctx : Option Nat) : State :=
  let s1 : State := { s with rel := { s.rel with errorIrq := s.rel.errorIrq + 1 } }
  match ctx with
  | some c => s1.raise (32 * c + 19)
  | none => s1

/-- The next free value's number, and the state that has used it (log 9). -/
def State.takeFree (s : State) : Nat × State := (s.free, { s with free := s.free + 1 })

/-- Split `k`, or the deferred path for 4 (R155). -/
def Wave.part? (w : Wave) (k : Nat) : Option Part :=
  if k < 4 then w.splits.getD k none else if k = 4 then w.deferred else none

/-- Replace split `k`, or the deferred path for 4. -/
def Wave.setPart (w : Wave) (k : Nat) (p : Option Part) : Wave :=
  if k < 4 then { w with splits := (List.range 4).map fun j => if j = k then p else w.splits.getD j none }
  else if k = 4 then { w with deferred := p } else w

/-- The parts of a wave with their numbers. -/
def Wave.parts (w : Wave) : List (Nat × Part) :=
  (List.range 5).filterMap fun k => (w.part? k).map fun p => (k, p)

/-- Change every part of a wave. -/
def Wave.mapParts (w : Wave) (f : Part → Part) : Wave :=
  { w with splits := w.splits.map (Option.map f), deferred := w.deferred.map f }

/-- A wave that has not exited (R158, R162). -/
def Wave.live (w : Wave) : Bool := w.run != .exited

/-- Free the entries whose mask is empty; a wave with no part left has exited (R158, R162). -/
def Wave.tidy (w : Wave) : Wave :=
  let keep : Option Part → Option Part := fun o => match o with
    | some p => if p.mask == 0 then none else some p
    | none => none
  let w1 := { w with splits := w.splits.map keep, deferred := keep w.deferred }
  if w1.parts.isEmpty && (match w.run with | .parked _ _ => false | _ => true) then
    { w1 with run := .exited } else w1

/-- Kill lanes: they leave every part's mask and are marked in WAVE.DEAD (R161). -/
def Wave.kill (w : Wave) (m : Mask) : Wave :=
  let m1 := m &&& ~~~w.exitedLanes
  ({ w with dead := w.dead ||| m1 }.mapParts fun p => { p with mask := p.mask &&& ~~~m1 }).tidy

/-- Lanes newly killed by `kill m`. -/
def Wave.newlyDead (w : Wave) (m : Mask) : Mask := m &&& ~~~w.dead &&& ~~~w.exitedLanes

/-- Number of set bits of a mask. -/
def popMask (m : Mask) : Nat := (List.range 32).foldl (fun n l => n + (if m.getLsbD l then 1 else 0)) 0

/-- Kill lanes of a wave and count them for the launch's record (R162, R311). -/
def State.killLanes (s : State) (u i : Nat) (m : Mask) : State :=
  match s.block? u, s.wave? u i with
  | some b, some w =>
    (s.updWave u i fun w => w.kill m).updLaunch b.launch fun l =>
      { l with killed := l.killed + popMask (w.newlyDead m) }
  | _, _ => s

/-- The word that issues next: the clause at the head of the list, with its block, wave and part. -/
def State.cur? (s : State) : Option Cur :=
  match s.issues with
  | [] => none
  | i :: _ =>
    match s.block? i.block with
    | none => none
    | some b =>
      match b.wave? i.wave with
      | none => none
      | some w =>
        match w.part? i.part with
        | none => none
        | some p => some { iss := i, blk := b, wv := w, pt := p }

/-- N of a clause header (R31). -/
def headerN (h : Word) : Nat := (h.extractLsb' 0 4).toNat

/-- A position (R334): the header address with the word to resume at in [63:60]. -/
def position (pc : Addr) (word : Nat) : Addr :=
  BitVec.ofNat 4 word ++ (pc.extractLsb' 0 55).signExtend 60

/-- The word of the clause at which the current instruction begins: its first extension (R334). -/
def Cur.startWord (c : Cur) : Nat := c.iss.ext.getD c.iss.k

/-- The address of the next clause. -/
def Cur.nextPc (c : Cur) : Addr := c.iss.pc + BitVec.ofNat 64 (4 * (headerN c.iss.header + 1))

/-- The slot issues nothing: the word waits in it and the other slots have their turn (R8). -/
def holdSlot (s : State) : State :=
  match s.issues with
  | [] => s.tick
  | i :: t => { s with issues := t ++ [i] }.tick

/-- What a trap reports (R336). -/
structure TrapInfo where
  cause : Nat
  reason : Nat := 0
  opcode : Nat
  addr : Addr := 0
  mask : Mask := 0
  code : BitVec 16 := 0
  deriving DecidableEq, Repr

/-- A halt that has just begun (R330). -/
def newHalt (now wave : Nat) (pos : Addr) (t : TrapInfo) : Halt :=
  { cause := t.cause, reason := t.reason, wave := wave, opcode := t.opcode, pos := pos, addr := t.addr,
    mask := t.mask, code := t.code, born := now, signalled := false, saved := false, recorded := false,
    frames := [], handle := 0 }

/-- A fault of wave `i` (0xFE the stream) is the one that a halt's record names: the halt began in this very cycle, by a
fault of a wave with a higher index, or of the stream (R331). -/
def Halt.yieldsTo (h : Halt) (now i : Nat) : Bool := h.born == now && decide (i < h.wave) && decide (h.wave ≤ 0xFE)

/-- A block takes a trap raised by its wave `i` (R330, R331): it halts; if it is halting already, the wave is
marked faulted with its own cause and no second halt begins, but for a fault of the same cycle that ranks first. -/
def Block.takeTrap (b : Block) (now i : Nat) (pos : Addr) (t : TrapInfo) : Block :=
  let faulted (k cause : Nat) : Block := b.updWave k fun w => { w with faulted := some (w.faulted.getD cause) }
  match b.halt with
  | none => { b with halt := some (newHalt now i pos t) }
  | some h =>
    if h.yieldsTo now i then { faulted h.wave h.cause with halt := some (newHalt now i pos t) } else faulted i t.cause

/-- Newest first: keep what a rollback to `t0` or later may still need (R20; log 8). -/
def trimHistory (t0 : Nat) : List Snapshot → List Snapshot
  | [] => []
  | x :: t =>
    if x.cycle ≥ t0 then x :: trimHistory t0 t
    else x :: t.filter fun y => y.floor || (y.atStart && (match y.last with
      | none => true
      | some e => decide (e ≥ t0)))

/-- Record a checkpoint of a core at the start or the end of a clause, or after an event of a block that
a rollback does not undo (R20; log 8). -/
def State.checkpoint (s : State) (core u i : Nat) (atStart floor : Bool) : State :=
  let snap : Snapshot :=
    { cycle := s.now, block := u, wave := i, atStart := atStart, floor := floor,
      last := if atStart then none else some s.now, blocks := s.blocks.filter fun b => b.core == core,
      copies := (s.core core).copies, pending := (s.core core).pending, lfsr := (s.core core).lfsr,
      owner := (s.core core).owner, undoB := [], undoW := [], undoC := [] }
  s.updCore core fun c =>
    let h := if atStart || floor then c.history else
      c.history.map fun x => if x.block == u && x.wave == i && x.atStart && x.last == none then
        { x with last := some s.now } else x
    { c with history := trimHistory (s.windowStart core) (snap :: h) }

/-- The word that a trap's record names: the faulting word, or the clause header of a TRAP that can have no
Pocket frame (R332, R334). -/
def trapWord (c : Cur) (t : TrapInfo) : Nat := if t.reason = 12 then 0 else c.startWord

/-- A part that stands at the word that issues, or its first extension (R334). -/
def Cur.stand (c : Cur) (p : Part) : Part := { p with pc := c.iss.pc, word := c.startWord }

/-- TAKING A TRAP: the one operation by which a word's fault halts its block (R330, R334). The word takes no effect
but for `at_`, which says where the part stands then; the clause leaves its slot. -/
def takeTrapAt (s : State) (c : Cur) (t : TrapInfo) (at_ : Part → Part) : State :=
  let s1 := { s with issues := s.issues.tail }
  let s2 := s1.updBlock c.blk.uid fun b =>
    (b.updWave c.iss.wave fun w =>
      match w.part? c.iss.part with
      | some p => w.setPart c.iss.part (some (at_ p))
      | none => w).takeTrap s.now c.iss.wave (position c.iss.pc (trapWord c t)) t
  (s2.checkpoint c.iss.core c.blk.uid c.iss.wave false false).tick

/-- A trap whose part stays at the word, or its first extension. -/
def takeTrap (s : State) (c : Cur) (t : TrapInfo) : State := takeTrapAt s c t c.stand

/-- Change a block now and in every checkpoint: what has left the core or returned to it is not undone
(R19, R21). -/
def State.updBlockAll (s : State) (u : Nat) (f : Block → Block) : State :=
  match s.block? u with
  | none => s
  | some b => (s.updBlock u f).updCore b.core fun c =>
      { c with
        history := c.history.map fun x => { x with blocks := updFirst (fun b => b.uid == u) f x.blocks }
        lastWord := c.lastWord.map fun x =>
          if x.block == u then { x with before := ((f { b with waves := [x.before] }).waves.headD x.before) } else x }

/-- Change a wave now and in every checkpoint. -/
def State.updWaveAll (s : State) (u i : Nat) (f : Wave → Wave) : State := s.updBlockAll u fun b => b.updWave i f

/-- Keep the old values, each with its lane, of what the issuing clause is about to write to shared storage
(R20). -/
def State.noteUndo (s : State) (c : Cur) (bs : List (Nat × Nat × Byte)) (ws cs : List (Nat × Nat × Word)) : State :=
  if bs.isEmpty && ws.isEmpty && cs.isEmpty then s
  else s.updCore c.iss.core fun x =>
    { x with history := x.history.map fun y =>
        if y.block == c.blk.uid && y.wave == c.iss.wave && y.atStart && y.last == none then
          { y with
            undoB := bs.map (fun e => (s.now, e)) ++ y.undoB
            undoW := ws.map (fun e => (s.now, e)) ++ y.undoW
            undoC := cs.map (fun e => (s.now, e)) ++ y.undoC } else y }

/-- Note the word for a residue check that fails later (R24). -/
def noteWord (s : State) (c : Cur) : State :=
  s.updCore c.iss.core fun x =>
    { x with lastWord :=
        { sub := c.iss.sub, block := c.blk.uid, wave := c.iss.wave, cycle := s.now, before := c.wv, issue := c.iss,
          laneFlags := [] } ::
        x.lastWord.filter fun e => e.sub != c.iss.sub }

/-- The flags that each lane's results set are noted with the word just issued on a sub-core (R72, R150). -/
def State.noteLaneFlags (s : State) (core sub : Nat) (fl : List FlagSet) : State :=
  s.updCore core fun x => { x with lastWord := x.lastWord.map fun e => if e.sub == sub then { e with laneFlags := fl } else e }

/-- A word that issued after its block's halt signal counts in the wave's skid (R330). -/
def countSkid (b : Block) (w : Wave) : Wave :=
  match b.halt with
  | none => w
  | some h => if h.signalled then { w with skid := w.skid + 1 } else w

/-- The last word of a clause has issued: the wave `w` (its parts already moved) leaves the slot. A yield bit (R11) stands
for each slot until that slot's next choice, also where the wave has since issued a clause without one in the other slot
(DESIGN CHOICE, log 50: the rule does not say which of the two ends it). -/
def endClause (s : State) (c : Cur) (w : Wave) : State :=
  let slots : BitVec 2 := if c.iss.mix then 3 else if c.iss.slot1 then 2 else 1
  let w1 := countSkid c.blk (if c.iss.header.getLsbD 18 then { w with yielded := slots } else w)
  let s1 := noteWord { s with issues := s.issues.tail } c
  ((s1.updWave c.blk.uid c.iss.wave fun _ => w1).checkpoint c.iss.core c.blk.uid c.iss.wave false false).tick

/-- How a word retires. -/
structure Done where
  wave : Wave
  /-- Result lanes shifted into the latches of slot 0 (false) or 1 (true). -/
  latch : Option (Bool × List Word) := none
  writes : Regs := noRegs
  lat : Nat := 0
  /-- Words of the clause the instruction took: 2 with a literal. -/
  words : Nat := 1
  deriving DecidableEq, Repr

/-- L0 takes the result, the others shift (R15). -/
def shiftLatch (lat : List (List Word)) (x : List Word) : List (List Word) := x :: lat.take 3

/-- The clause after a word: next word, no extensions, latches shifted (R15, R46). -/
def Issue.advance (i : Issue) (d : Done) : Issue :=
  let j := { i with k := i.k + d.words, xc := none, xp := none, ext := none }
  match d.latch with
  | none => j
  | some (false, x) => { j with lat0 := shiftLatch j.lat0 x }
  | some (true, x) => { j with lat1 := shiftLatch j.lat1 x }

/-- A wave with the pending bits of an issued word set (R13). -/
def Wave.addPend (w : Wave) (r : Regs) (due : Nat) : Wave :=
  if r = noRegs then w else { w with pend := w.pend ++ [{ regs := r, due := due }] }

/-- The word has issued: its wave changes, the clause moves to its next word, or ends (R8). -/
def retire (s : State) (c : Cur) (d : Done) : State :=
  let w := d.wave.addPend d.writes (s.now + d.lat)
  let i := c.iss.advance d
  if i.k > headerN i.header then
    endClause s c (match w.part? i.part with
      | some p => w.setPart i.part (some { p with pc := c.nextPc, word := 0 })
      | none => w)
  else
    let s1 := noteWord { s with issues := s.issues.tail ++ [i] } c
    (s1.updWave c.blk.uid c.iss.wave fun _ => countSkid c.blk w).tick

/-- The issue of a word: it waits while a FENCE or DRAIN holds its wave (R238), is checked (R35), and
waits for its registers (R13). -/
def runWord (s : State) (form : Cur → Form) (go : Cur → Form → Out) : Out :=
  match s.cur? with
  | none => .fault .noIssuingWave
  | some c =>
    if c.wv.run != .running then .next (holdSlot s)
    else
      match (form c).fault c.iss with
      | some cause => .next (takeTrap s c { cause := cause, opcode := (form c).opcode })
      | none => if (form c).waits c.wv then .next (holdSlot s) else go c (form c)

/-- An acquire of the wave whose value has not returned: no later access of the wave may be made before
it (R219, R221). -/
def Wave.acqPending (w : Wave) : Bool :=
  (w.loads.any fun l => l.acqScope.isSome && !l.waits.isEmpty) ||
  (w.sq.map (·.2) ++ w.atoms).any fun e => match e with
    | .atom _ _ _ _ (some _) _ _ => true
    | _ => false

/-- OR of the flags of the lanes of a mask. -/
def orFlags (m : Mask) (f : Nat → FlagSet) : Nat → FlagSet
  | 0 => 0
  | n + 1 => orFlags m f n ||| (if m.getLsbD n then f n else 0)

/-- The lanes of a result, zero outside the mask (R15). -/
def latchLanes (m : Mask) (f : Nat → Word) : List Word :=
  (List.range 32).map fun l => if m.getLsbD l then f l else 0

/-- The lanes of a mask, ascending. -/
def lanesOf (m : Mask) : List Nat := (List.range 32).filter fun l => m.getLsbD l

/-- A mask from a bit per lane. -/
def maskOf (f : Nat → Bool) : Nat → Mask
  | 0 => 0
  | n + 1 => maskOf f n ||| (if f n then (1 : Mask) <<< n else 0)

/-- Bits of `new` where `m` is set, of `old` elsewhere. -/
def blend (m old new : Mask) : Mask := (old &&& ~~~m) ||| (new &&& m)

/-- The declared bytes of a save area (R175). -/
def saveSize (d : Decl) : Nat := 1024 + 128 * d.vregs + 4 * d.sregs + 512 * d.tregs

end Sys2Proof.Machine
end

