-- ==== Sys2Proof/Machine/Vector.lean ====
section
/-! DEFINITION. Vector integer, logic, move, compare and floating-point words (04, R86-R106). -/

namespace Sys2Proof.Machine

open Sys2Proof

/-- Latency of a word: one more with an XP (R17, R29). -/
def Cur.latency (c : Cur) (n : Nat) : Nat := n + (if c.iss.xp.isSome then 1 else 0)

/-- A vector result written to V[D] in the executing lanes, or to L0 only with nwb (R15, R86, R88). -/
def vecResult (s : State) (c : Cur) (f : Form) (slot1 nwb : Bool) (d : Nat)
    (r : Nat → Word × FlagSet) : Out :=
  let m := c.execMask
  let w := if nwb then c.wv else c.wv.setV d m fun l => (r l).1
  .next (retire s c
    { wave := { w with flags := w.flags ||| orFlags m (fun l => (r l).2) 32 },
      latch := some (slot1, latchLanes m fun l => (r l).1),
      writes := f.writes, lat := f.lat })

/-- Checks and registers of a three-operand vector word (R87, R88). -/
def formV3 (op : Nat) (x : XcRule) (readsC : Bool) (lat : Nat) (n : Bool) (d a b : BitVec 8) (c : Cur) :
    Form :=
  let cc := c.cCode d.toNat
  { opcode := op, fieldsOk := !n || d == 0, xc := x, takesXp := true,
    operandsOk := c.dstOk n d.toNat && c.srcOk a.toNat && c.srcOk b.toNat && (!readsC || c.srcOk cc),
    reads := { v := srcRegs a.toNat 1 ++ srcRegs b.toNat 1 ++ (if readsC then srcRegs cc 1 else []),
               s := [], p := c.xcReads, t := [] },
    writes := { noRegs with v := if n then [] else [d.toNat] }, lat := c.latency lat }

/-- A three-operand vector word: `g` gives the result from A(l), B(l), C(l) (R93). -/
def runV3 (s : State) (op : Nat) (x : XcRule) (readsC : Bool) (lat : Nat) (n : Bool)
    (d a b : BitVec 8) (g : Cur → Word → Word → Word → Word × FlagSet) : Out :=
  runWord s (formV3 op x readsC lat n d a b) fun c f =>
    vecResult s c f false n d.toNat fun l =>
      g c (c.opnd false 0 a.toNat l) (c.opnd false 1 b.toNat l)
        (if readsC then c.opnd false 2 (c.cCode d.toNat) l else 0)

/-- XC and XP of a two-source integer word (R90, R91). -/
def xcInt : XcRule := { xpA := true, xpB := true }
/-- Of IADD and ISUB. -/
def xcIntSat : XcRule := { xpA := true, xpB := true, sat := true }
/-- Of IMAD, BFI and DOT4I. -/
def xcIntC : XcRule := { xpA := true, xpB := true, xpC := true, cVec := true }
/-- Of FADD, FSUB, FMUL, LDEXP and the packed sums and products. -/
def xcFp : XcRule := { xpA := true, xpB := true, rnd := true }
/-- Of FFMA, BFMA2, HFMA2, DOT2B and DOT4F8. -/
def xcFpC : XcRule := { xpA := true, xpB := true, xpC := true, cVec := true, rnd := true }

/-- A word result without flags. -/
def pureInt (w : Word) : Word × FlagSet := (w, 0)

/-- IADD and ISUB with SAT: the exact signed result clamped, SA where it was (R61, R94). -/
def satWord (x : Int) : Word × FlagSet :=
  if x > 2 ^ 31 - 1 then (0x7FFFFFFF#32, flSA)
  else if x < -(2 ^ 31) then (0x80000000#32, flSA)
  else (BitVec.ofInt 32 x, 0)

/-- The amount of a shift word: B[4:0] (R93). -/
def shAmt (b : Word) : Nat := b.toNat % 32

/-- IADD (R93, R94). -/
def execIadd (n : Bool) (d a b : BitVec 8) (s : State) : Out :=
  runV3 s 0x00 xcIntSat false 4 n d a b fun c x y _ =>
    if c.sat then satWord (x.toInt + y.toInt) else pureInt (x + y)
/-- ISUB (R93, R94). -/
def execIsub (n : Bool) (d a b : BitVec 8) (s : State) : Out :=
  runV3 s 0x01 xcIntSat false 4 n d a b fun c x y _ =>
    if c.sat then satWord (x.toInt - y.toInt) else pureInt (x - y)
/-- IMUL (R93). -/
def execImul (n : Bool) (d a b : BitVec 8) (s : State) : Out :=
  runV3 s 0x02 xcInt false 4 n d a b fun _ x y _ => pureInt (x * y)
/-- IMULHS (R93). -/
def execImulhs (n : Bool) (d a b : BitVec 8) (s : State) : Out :=
  runV3 s 0x03 xcInt false 4 n d a b fun _ x y _ =>
    pureInt ((x.signExtend 64 * y.signExtend 64).extractLsb' 32 32)
/-- IMULHU (R93). -/
def execImulhu (n : Bool) (d a b : BitVec 8) (s : State) : Out :=
  runV3 s 0x04 xcInt false 4 n d a b fun _ x y _ =>
    pureInt ((x.zeroExtend 64 * y.zeroExtend 64).extractLsb' 32 32)
/-- IMAD (R93). -/
def execImad (n : Bool) (d a b : BitVec 8) (s : State) : Out :=
  runV3 s 0x05 xcIntC true 4 n d a b fun _ x y z => pureInt (x * y + z)
/-- IMIN (R93). -/
def execImin (n : Bool) (d a b : BitVec 8) (s : State) : Out :=
  runV3 s 0x06 xcInt false 4 n d a b fun _ x y _ => pureInt (if x.toInt ≤ y.toInt then x else y)
/-- IMAX (R93). -/
def execImax (n : Bool) (d a b : BitVec 8) (s : State) : Out :=
  runV3 s 0x07 xcInt false 4 n d a b fun _ x y _ => pureInt (if x.toInt ≤ y.toInt then y else x)
/-- UMIN (R93). -/
def execUmin (n : Bool) (d a b : BitVec 8) (s : State) : Out :=
  runV3 s 0x08 xcInt false 4 n d a b fun _ x y _ => pureInt (if x.toNat ≤ y.toNat then x else y)
/-- UMAX (R93). -/
def execUmax (n : Bool) (d a b : BitVec 8) (s : State) : Out :=
  runV3 s 0x09 xcInt false 4 n d a b fun _ x y _ => pureInt (if x.toNat ≤ y.toNat then y else x)
/-- AND (R93). -/
def execAnd (n : Bool) (d a b : BitVec 8) (s : State) : Out :=
  runV3 s 0x0A xcInt false 4 n d a b fun _ x y _ => pureInt (x &&& y)
/-- OR (R93). -/
def execOr (n : Bool) (d a b : BitVec 8) (s : State) : Out :=
  runV3 s 0x0B xcInt false 4 n d a b fun _ x y _ => pureInt (x ||| y)
/-- XOR (R93). -/
def execXor (n : Bool) (d a b : BitVec 8) (s : State) : Out :=
  runV3 s 0x0C xcInt false 4 n d a b fun _ x y _ => pureInt (x ^^^ y)
/-- ANDN (R93). -/
def execAndn (n : Bool) (d a b : BitVec 8) (s : State) : Out :=
  runV3 s 0x0D xcInt false 4 n d a b fun _ x y _ => pureInt (x &&& ~~~y)
/-- SHL (R93). -/
def execShl (n : Bool) (d a b : BitVec 8) (s : State) : Out :=
  runV3 s 0x0E xcInt false 4 n d a b fun _ x y _ => pureInt (x <<< shAmt y)
/-- SHR (R93). -/
def execShr (n : Bool) (d a b : BitVec 8) (s : State) : Out :=
  runV3 s 0x0F xcInt false 4 n d a b fun _ x y _ => pureInt (x >>> shAmt y)
/-- SAR (R93). -/
def execSar (n : Bool) (d a b : BitVec 8) (s : State) : Out :=
  runV3 s 0x10 xcInt false 4 n d a b fun _ x y _ => pureInt (x.sshiftRight (shAmt y))
/-- ROTL (R93). -/
def execRotl (n : Bool) (d a b : BitVec 8) (s : State) : Out :=
  runV3 s 0x11 xcInt false 4 n d a b fun _ x y _ => pureInt (x.rotateLeft (shAmt y))

/-- Checks and registers of a word with one vector source and a function code or immediate (R36). -/
def formU (op : Nat) (x : XcRule) (fn : Bool) (lat : Nat) (n : Bool) (d a : BitVec 8) (c : Cur) : Form :=
  { opcode := op, fieldsOk := fn && (!n || d == 0), xc := x, takesXp := true,
    operandsOk := c.dstOk n d.toNat && c.srcOk a.toNat,
    reads := { v := srcRegs a.toNat 1, s := [], p := c.xcReads, t := [] },
    writes := { noRegs with v := if n then [] else [d.toNat] }, lat := c.latency lat }

/-- A word with one vector source. -/
def runU (s : State) (op : Nat) (x : XcRule) (fn : Bool) (lat : Nat) (n : Bool) (d a : BitVec 8)
    (g : Cur → Word → Word × FlagSet) : Out :=
  runWord s (formU op x fn lat n d a) fun c f =>
    vecResult s c f false n d.toNat fun l => g c (c.opnd false 0 a.toNat l)

/-- XC and XP of a one-source word: field B is no register (R44). -/
def xcUn : XcRule := { xpA := true, b := .imm }
/-- Of the immediate words that take IMMX. -/
def xcImmHi : XcRule := { xpA := true, b := .imm, imm := true }

/-- Bit count over 32 bits. -/
def popWord (a : Word) : Word := BitVec.ofNat 32 (popMask a)

/-- Number of 0 bits above the highest 1 bit (R96). -/
def clzWord (a : Word) : Word := if a = 0 then 32 else BitVec.ofNat 32 (31 - a.toNat.log2)

/-- Number of 0 bits below the lowest 1 bit (R96). -/
def ctzWord (a : Word) : Word := BitVec.ofNat 32 (firstLane a 32)

/-- The unary integer functions (R96). -/
def iunWord (fn : Nat) (a : Word) : Word :=
  match fn with
  | 0 => ~~~a
  | 1 => 0 - a
  | 2 => if a.msb then 0 - a else a
  | 3 => popWord a
  | 4 => clzWord a
  | 5 => ctzWord a
  | 6 => a.reverse
  | 7 => (a.extractLsb' 0 8).signExtend 32
  | 8 => (a.extractLsb' 0 16).signExtend 32
  | 9 => (a.extractLsb' 0 8).zeroExtend 32
  | _ => (a.extractLsb' 0 16).zeroExtend 32

/-- IUN (R96). -/
def execIun (n : Bool) (d a f : BitVec 8) (s : State) : Out :=
  runU s 0x12 xcUn (decide (f.toNat ≤ 10)) 4 n d a fun _ x => pureInt (iunWord f.toNat x)

/-- The bit mask of a BFX or BFI field (R97). -/
def fieldMask (b : Word) : Word :=
  let off := b.toNat % 32
  let w := b.toNat / 32 % 32
  let k := if w = 0 then 32 else w
  BitVec.ofNat 32 ((2 ^ k - 1) * 2 ^ off)

/-- BFX (R97). -/
def execBfx (n : Bool) (d a b : BitVec 8) (s : State) : Out :=
  runV3 s 0x13 xcInt false 4 n d a b fun _ x y _ => pureInt ((x &&& fieldMask y) >>> shAmt y)
/-- BFI (R97). -/
def execBfi (n : Bool) (d a b : BitVec 8) (s : State) : Out :=
  runV3 s 0x14 xcIntC true 4 n d a b fun _ x y z =>
    pureInt ((z &&& ~~~fieldMask y) ||| ((x <<< shAmt y) &&& fieldMask y))

/-- IADDI (R95). -/
def execIaddi (n : Bool) (d a i : BitVec 8) (s : State) : Out :=
  runU s 0x15 xcImmHi true 4 n d a fun c x => pureInt (x + c.imm8 i)
/-- SHLI (R89, R95). -/
def execShli (n : Bool) (d a : BitVec 8) (i : BitVec 5) (s : State) : Out :=
  runU s 0x16 xcUn true 4 n d a fun _ x => pureInt (x <<< i.toNat)
/-- SHRI (R89, R95). -/
def execShri (n : Bool) (d a : BitVec 8) (i : BitVec 5) (s : State) : Out :=
  runU s 0x17 xcUn true 4 n d a fun _ x => pureInt (x >>> i.toNat)
/-- SARI (R89, R95). -/
def execSari (n : Bool) (d a : BitVec 8) (i : BitVec 5) (s : State) : Out :=
  runU s 0x18 xcUn true 4 n d a fun _ x => pureInt (x.sshiftRight i.toNat)
/-- ANDI (R95). -/
def execAndi (n : Bool) (d a i : BitVec 8) (s : State) : Out :=
  runU s 0x19 xcImmHi true 4 n d a fun c x => pureInt (x &&& c.imm8 i)
/-- ORI (R95). -/
def execOri (n : Bool) (d a i : BitVec 8) (s : State) : Out :=
  runU s 0x1A xcImmHi true 4 n d a fun c x => pureInt (x ||| c.imm8 i)
/-- XORI (R95). -/
def execXori (n : Bool) (d a i : BitVec 8) (s : State) : Out :=
  runU s 0x1B xcImmHi true 4 n d a fun c x => pureInt (x ^^^ c.imm8 i)

/-- XC of a VM word: the fields A and B hold the immediate (R89, R91). -/
def xcVm (imm : Bool) : XcRule := { a := .imm, b := .imm, imm := imm }

/-- Checks and registers of a VM word; MOVHI reads its destination (R98). -/
def formVm (op : Nat) (imm readsD takesXp n : Bool) (d : BitVec 8) (c : Cur) : Form :=
  { opcode := op, fieldsOk := !n || d == 0, xc := xcVm imm, takesXp := takesXp,
    operandsOk := c.dstOk n d.toNat,
    reads := { v := if readsD then [d.toNat] else [], s := [], p := c.xcReads, t := [] },
    writes := { noRegs with v := if n then [] else [d.toNat] }, lat := c.latency 4 }

/-- MOVI (R98). -/
def execMovi (n : Bool) (d : BitVec 8) (i : BitVec 16) (s : State) : Out :=
  runWord s (formVm 0x1C true false true n d) fun c f =>
    vecResult s c f false n d.toNat fun _ => pureInt (c.imm16 i)
/-- MOVHI (R98): the low half is the old destination's, never permuted (R91). -/
def execMovhi (d : BitVec 8) (i : BitVec 16) (s : State) : Out :=
  runWord s (formVm 0x1D false true true false d) fun c f =>
    vecResult s c f false false d.toNat fun l =>
      pureInt (i ++ (vLane c.wv.v d.toNat l).extractLsb' 0 16)
/-- MOV (R98). -/
def execMov (n : Bool) (d a : BitVec 8) (s : State) : Out :=
  runU s 0x1E xcUn true 4 n d a fun _ x => pureInt x

/-- MOVL (R98): the literal is the word after it, which is passed over (R33). -/
def execMovl (n : Bool) (d : BitVec 8) (lit : BitVec 32) (s : State) : Out :=
  runWord s (formVm 0x5E false false false n d) fun c f =>
    let m := c.execMask
    let w := if n then c.wv else c.wv.setV d.toNat m fun _ => lit
    .next (retire s c
      { wave := w, latch := some (false, latchLanes m fun _ => lit), writes := f.writes, lat := f.lat,
        words := 2 })

/-- The integer conditions (R49). -/
def icond (k : Nat) (a b : Word) : Bool :=
  match k with
  | 0 => a == b
  | 1 => a != b
  | 2 => decide (a.toInt < b.toInt)
  | 3 => decide (a.toInt ≤ b.toInt)
  | 4 => decide (a.toInt > b.toInt)
  | 5 => decide (a.toInt ≥ b.toInt)
  | 6 => decide (a.toNat < b.toNat)
  | 7 => decide (a.toNat ≤ b.toNat)
  | 8 => decide (a.toNat > b.toNat)
  | _ => decide (a.toNat ≥ b.toNat)

/-- A predicate result: Pd in the executing lanes, with the old bit when and-with-old is set; L0
receives the bit written (R88, R99). -/
def predResult (s : State) (c : Cur) (f : Form) (p : Nat) (old : Bool) (r : Nat → Bool × FlagSet) : Out :=
  let m := c.execMask
  let bits := maskOf (fun l => (r l).1 && (!old || (c.wv.getP p).getLsbD l)) 32
  let w := c.wv.setP p (blend m (c.wv.getP p) bits)
  .next (retire s c
    { wave := { w with flags := w.flags ||| orFlags m (fun l => (r l).2) 32 },
      latch := some (false, latchLanes m fun l => if bits.getLsbD l then 1 else 0),
      writes := f.writes, lat := f.lat })

/-- Checks and registers of a compare (R99). -/
def formCmp (op : Nat) (ok : Bool) (p : BitVec 4) (old : Bool) (a b : BitVec 8) (c : Cur) : Form :=
  { opcode := op, fieldsOk := ok, xc := xcInt, takesXp := true,
    operandsOk := c.srcOk a.toNat && c.srcOk b.toNat,
    reads := { v := srcRegs a.toNat 1 ++ srcRegs b.toNat 1, s := [],
               p := c.xcReads ++ (if old then [p.toNat] else []), t := [] },
    writes := { noRegs with p := [p.toNat] }, lat := c.latency 4 }

/-- ICMP (R99). -/
def execIcmp (k p : BitVec 4) (old : Bool) (a b : BitVec 8) (s : State) : Out :=
  runWord s (formCmp 0x1F (decide (k.toNat ≤ 9)) p old a b) fun c f =>
    predResult s c f p.toNat old fun l =>
      (icond k.toNat (c.opnd false 0 a.toNat l) (c.opnd false 1 b.toNat l), 0)
/-- FCMP (R99). -/
def execFcmp (k p : BitVec 4) (old : Bool) (a b : BitVec 8) (s : State) : Out :=
  runWord s (formCmp 0x27 (decide (k.toNat ≤ 7)) p old a b) fun c f =>
    predResult s c f p.toNat old fun l =>
      fcmpBit k.toNat (c.opnd false 0 a.toNat l) (c.opnd false 1 b.toNat l)

/-- FADD (R101). -/
def execFadd (n : Bool) (d a b : BitVec 8) (s : State) : Out :=
  runV3 s 0x20 xcFp false 4 n d a b fun c x y _ => sum32 (c.mode 0) [f32 x, f32 y]
/-- FSUB (R101). -/
def execFsub (n : Bool) (d a b : BitVec 8) (s : State) : Out :=
  runV3 s 0x21 xcFp false 4 n d a b fun c x y _ => sum32 (c.mode 0) [f32 x, (f32 y).negate]
/-- FMUL (R101). -/
def execFmul (n : Bool) (d a b : BitVec 8) (s : State) : Out :=
  runV3 s 0x22 xcFp false 4 n d a b fun c x y _ => sum32 (c.mode 0) [(f32 x).mul (f32 y)]
/-- FFMA (R101). -/
def execFfma (n : Bool) (d a b : BitVec 8) (s : State) : Out :=
  runV3 s 0x23 xcFpC true 4 n d a b fun c x y z => sum32 (c.mode 0) [(f32 x).mul (f32 y), f32 z]
/-- FMIN (R102). -/
def execFmin (n : Bool) (d a b : BitVec 8) (s : State) : Out :=
  runV3 s 0x24 xcInt false 4 n d a b fun _ x y _ => fminmax false x y
/-- FMAX (R102). -/
def execFmax (n : Bool) (d a b : BitVec 8) (s : State) : Out :=
  runV3 s 0x25 xcInt false 4 n d a b fun _ x y _ => fminmax true x y

/-- The unary floating-point functions (R103): only RINT sets NX among the integral ones. -/
def funWord (fn : Nat) (mode : Mode) (a : Word) : Word × FlagSet :=
  match fn with
  | 0 => (a &&& 0x7FFFFFFF#32, 0)
  | 1 => (a ^^^ 0x80000000#32, 0)
  | 2 => let r := integral .rd a; (r.1, r.2 &&& flNV)
  | 3 => let r := integral .ru a; (r.1, r.2 &&& flNV)
  | 4 => let r := integral .rz a; (r.1, r.2 &&& flNV)
  | 5 => integral mode a
  | 6 => fract a
  | _ => (fclass a, 0)

/-- FUN (R103). -/
def execFun (n : Bool) (d a f : BitVec 8) (s : State) : Out :=
  runU s 0x26 { xcUn with rnd := f == 5 } (decide (f.toNat ≤ 7)) 4 n d a fun c x =>
    funWord f.toNat (c.mode 0) x

/-- Checks and registers of SEL. -/
def formSel (n : Bool) (d a b : BitVec 8) (c : Cur) : Form :=
  let f := formV3 0x28 { xcInt with needXc := true, cSel := true } false 4 n d a b c
  { f with reads := { f.reads with p := f.reads.p ++ [c.cCode 0 % 16] } }
/-- SEL (R100): P[Ps] chooses, Ps in XC C [15:12]. -/
def execSel (n : Bool) (d a b : BitVec 8) (s : State) : Out :=
  let ps (c : Cur) : Nat := c.cCode 0 % 16
  runWord s (formSel n d a b) fun c f =>
    vecResult s c f false n d.toNat fun l =>
      pureInt (if (c.wv.getP (ps c)).getLsbD l then c.opnd false 0 a.toNat l else c.opnd false 1 b.toNat l)

/-- Element j of a packed pair (R63). -/
def half (w : Word) (j : Nat) : Nat := (w.extractLsb' (16 * j) 16).toNat

/-- A packed pair computed element by element (R105). -/
def packedPair (f : Fmt) (mode : Mode) (g : (Nat → Num) → List Num) (x y z : Word) : Word × FlagSet :=
  let e (j : Nat) := deliverSum f mode false (g fun k =>
    unpack f (half (match k with
      | 0 => x
      | 1 => y
      | _ => z) j))
  (BitVec.ofNat 16 (e 1).1 ++ BitVec.ofNat 16 (e 0).1, (e 0).2 ||| (e 1).2)

/-- BADD2 (R105). -/
def execBadd2 (n : Bool) (d a b : BitVec 8) (s : State) : Out :=
  runV3 s 0x29 xcFp false 4 n d a b fun c => packedPair fmtBF16 (c.mode 0) fun v => [v 0, v 1]
/-- BMUL2 (R105). -/
def execBmul2 (n : Bool) (d a b : BitVec 8) (s : State) : Out :=
  runV3 s 0x2A xcFp false 4 n d a b fun c => packedPair fmtBF16 (c.mode 0) fun v => [(v 0).mul (v 1)]
/-- BFMA2 (R105). -/
def execBfma2 (n : Bool) (d a b : BitVec 8) (s : State) : Out :=
  runV3 s 0x2B xcFpC true 4 n d a b fun c => packedPair fmtBF16 (c.mode 0) fun v => [(v 0).mul (v 1), v 2]
/-- HADD2 (R105). -/
def execHadd2 (n : Bool) (d a b : BitVec 8) (s : State) : Out :=
  runV3 s 0x2C xcFp false 4 n d a b fun c => packedPair fmtFP16 (c.mode 0) fun v => [v 0, v 1]
/-- HMUL2 (R105). -/
def execHmul2 (n : Bool) (d a b : BitVec 8) (s : State) : Out :=
  runV3 s 0x2D xcFp false 4 n d a b fun c => packedPair fmtFP16 (c.mode 0) fun v => [(v 0).mul (v 1)]
/-- HFMA2 (R105). -/
def execHfma2 (n : Bool) (d a b : BitVec 8) (s : State) : Out :=
  runV3 s 0x2E xcFpC true 4 n d a b fun c => packedPair fmtFP16 (c.mode 0) fun v => [(v 0).mul (v 1), v 2]

/-- Byte j of a word (R60). -/
def byteOf (w : Word) (j : Nat) : Byte := w.extractLsb' (8 * j) 8

/-- DOT4I (R76, R106). -/
def dot4i (x y z : Word) : Word :=
  BitVec.ofInt 32 ((byteOf x 0).toInt * (byteOf y 0).toInt + (byteOf x 1).toInt * (byteOf y 1).toInt +
    (byteOf x 2).toInt * (byteOf y 2).toInt + (byteOf x 3).toInt * (byteOf y 3).toInt) + z

/-- DOT4I (R106). -/
def execDot4i (n : Bool) (d a b : BitVec 8) (s : State) : Out :=
  runV3 s 0x2F xcIntC true 6 n d a b fun _ x y z => pureInt (dot4i x y z)
/-- DOT2B (R106). -/
def execDot2b (n : Bool) (d a b : BitVec 8) (s : State) : Out :=
  runV3 s 0x30 xcFpC true 6 n d a b fun c x y z =>
    sum32 (c.mode 0) (((List.range 2).map fun j =>
      (unpack fmtBF16 (half x j)).mul (unpack fmtBF16 (half y j))) ++ [f32 z])
/-- DOT4F8 (R106). -/
def execDot4f8 (n : Bool) (d a b : BitVec 8) (s : State) : Out :=
  runV3 s 0x31 xcFpC true 6 n d a b fun c x y z =>
    sum32 (c.mode 0) (((List.range 4).map fun j =>
      (unpack fmtE4M3 (byteOf x j).toNat).mul (unpack fmtE4M3 (byteOf y j).toNat)) ++ [f32 z])
/-- LDEXP (R104). -/
def execLdexp (n : Bool) (d a b : BitVec 8) (s : State) : Out :=
  runV3 s 0x32 xcFp false 6 n d a b fun c x y _ => ldexpWord (c.mode 0) x y

end Sys2Proof.Machine
end

