-- ==== Sys2Proof/Machine/Fragment.lean ====
section
/-! DEFINITION. The fragment-matrix words that reach no memory: TMMA, TMMAC, TZERO, TMOV (06, R141-R150).
TLD and TST are with the memory words. -/

namespace Sys2Proof.Machine

open Sys2Proof

/-- No extension is accepted (R142). -/
def xcNone : XcRule := { noXc := true }

/-- Tile `t` is declared (R141). -/
def Cur.tileOk (c : Cur) (t : Nat) : Bool := decide (t < c.blk.decl.tregs)

/-- A tile's byte as a whole-wave operand: zero in a dead lane's 16 bytes (R142). -/
def Cur.tile (c : Cur) (t b : Nat) : Byte :=
  if c.wv.gone.getLsbD (b / 16) then 0 else tileByte c.wv.t t b

/-- Two bytes of a tile. -/
def Cur.tileHalf (c : Cur) (t b : Nat) : Nat := (c.tile t b).toNat + 256 * (c.tile t (b + 1)).toNat

/-- The format of a fragment type (R53); INT8 has none. -/
def fragFmt (ty : Nat) : Fmt :=
  match ty with
  | 0 => fmtE4M3
  | 1 => fmtE5M2
  | 3 => fmtBF16
  | _ => fmtFP16

/-- Checks and registers of TMMA and TMMAC (R146-R149). -/
def formFrag (op : Nat) (tyOk tOk : Bool) (lat : Nat) (d : BitVec 8) (a b : BitVec 5) (tb2 : Bool) (c : Cur) :
    Form :=
  { opcode := op, fieldsOk := tyOk, xc := xcNone,
    operandsOk := c.vregsOk d.toNat 8 8 && c.tileOk a.toNat && tOk &&
      c.tileOk (b.toNat + if tb2 then 1 else 0),
    reads := { v := List.range' d.toNat 8, s := [], p := [],
               t := a.toNat :: b.toNat :: (if tb2 then [b.toNat + 1] else []) },
    writes := { noRegs with v := List.range' d.toNat 8 }, lat := lat }

/-- Eight result registers in the live lanes of the split; no latch shifts (R142, R149). -/
def fragResult (s : State) (c : Cur) (f : Form) (d : Nat) (g : Nat → Nat → Word × FlagSet) : Out :=
  let m := c.liveMask
  let w := (List.range 8).foldl (fun w i => w.setV (d + i) m fun l => (g i l).1) c.wv
  let fl := (List.range 8).foldl (fun x i => x ||| orFlags m (fun l => (g i l).2) 32) (0 : FlagSet)
  let own (l : Nat) : FlagSet := (List.range 8).foldl (fun x i => x ||| (g i l).2) (0 : FlagSet)
  .next ((retire s c { wave := { w with flags := w.flags ||| fl }, writes := f.writes, lat := f.lat }).noteLaneFlags
    c.iss.core c.iss.sub ((List.range 32).map fun l => if m.getLsbD l then own l else 0))

/-- Element k of row m of A or column m of B of TMMA, as an exact value (R146). -/
def Cur.fragElem (c : Cur) (ty t m k : Nat) : Num :=
  if ty ≤ 1 then unpack (fragFmt ty) (c.tile t (32 * m + k)).toNat
  else unpack (fragFmt ty) (c.tileHalf t (2 * (16 * m + k)))

/-- TMMA's element i of lane l (R147). -/
def tmmaElem (c : Cur) (ty d a b i l : Nat) : Word × FlagSet :=
  let m := 2 * i + l / 16
  let n := l % 16
  let old := vLane c.wv.v (d + i) l
  if ty = 2 then
    let p : Int := (List.range 32).foldl
      (fun x k => x + (c.tile a (32 * m + k)).toInt * (c.tile b (32 * n + k)).toInt) 0
    (BitVec.ofInt 32 p + old, 0)
  else
    let kt := if ty ≤ 1 then 32 else 16
    sum32 .rn (((List.range kt).map fun k => (c.fragElem ty a m k).mul (c.fragElem ty b n k)) ++ [f32 old])

/-- TMMA (R147). -/
def execTmma (d : BitVec 8) (a b : BitVec 5) (t : BitVec 4) (s : State) : Out :=
  runWord s (formFrag 0x5A (decide (t.toNat ≤ 4)) true 40 d a b false) fun c f =>
    fragResult s c f d.toNat fun i l => tmmaElem c t.toNat d.toNat a.toNat b.toNat i l

/-- Real (0) or imaginary (1) part of complex element (m, k) of a tile (R146). -/
def Cur.cplx (c : Cur) (ty t m k part : Nat) : Num :=
  unpack (fragFmt ty) (c.tileHalf t (4 * (16 * m + k) + 2 * part))

/-- TMMAC's element i of lane l (R148). -/
def tmmacElem (c : Cur) (ty d a b i l : Nat) : Word × FlagSet :=
  let n := l / 2
  let tb := b + n / 8
  let old := f32 (vLane c.wv.v (d + i) l)
  let re (k : Nat) : List Num :=
    [(c.cplx ty a i k 0).mul (c.cplx ty tb (n % 8) k 0),
     ((c.cplx ty a i k 1).mul (c.cplx ty tb (n % 8) k 1)).negate]
  let im (k : Nat) : List Num :=
    [(c.cplx ty a i k 0).mul (c.cplx ty tb (n % 8) k 1),
     (c.cplx ty a i k 1).mul (c.cplx ty tb (n % 8) k 0)]
  sum32 .rn (((List.range 16).flatMap fun k => if l % 2 = 0 then re k else im k) ++ [old])

/-- TMMAC (R148). -/
def execTmmac (d : BitVec 8) (a b : BitVec 5) (t : BitVec 4) (s : State) : Out :=
  runWord s (formFrag 0x5B (t == 3 || t == 4) (decide (b.toNat % 2 = 0)) 72 d a b true) fun c f =>
    fragResult s c f d.toNat fun i l => tmmacElem c t.toNat d.toNat a.toNat b.toNat i l

/-- Bytes `f 0 ... f (n-1)` written at consecutive places of a tile file where `ok` holds. -/
def setTile (t : Cells Byte) (k : Nat) (ok : Nat → Bool) (f : Nat → Byte) : Nat → Cells Byte
  | 0 => t
  | n + 1 =>
    let u := setTile t k ok f n
    if ok n then setAt 0 u (512 * k + n) (f n) else u

/-- Checks and registers of TZERO. -/
def formTzero (t : BitVec 5) (c : Cur) : Form :=
  { opcode := 0x5C, fieldsOk := true, xc := xcNone, operandsOk := c.tileOk t.toNat, reads := noRegs,
    writes := { noRegs with t := [t.toNat] }, lat := 4 }
/-- TZERO (R144): every lane, dead or not. -/
def execTzero (t : BitVec 5) (s : State) : Out :=
  runWord s (formTzero t) fun c f =>
    .next (retire s c
      { wave := { c.wv with t := setTile c.wv.t t.toNat (fun _ => true) (fun _ => 0) 512 },
        writes := f.writes, lat := f.lat })

/-- Checks and registers of TMOV. -/
def formTmov (r : Bool) (v : BitVec 8) (t : BitVec 5) (c : Cur) : Form :=
  { opcode := 0x5D, fieldsOk := true, xc := xcNone,
    operandsOk := c.vregsOk v.toNat 4 1 && c.tileOk t.toNat,
    reads := if r then { noRegs with t := [t.toNat] } else { noRegs with v := List.range' v.toNat 4 },
    writes := if r then { noRegs with v := List.range' v.toNat 4 } else { noRegs with t := [t.toNat] },
    lat := 4 }
/-- TMOV (R145): V + j holds bytes 16 l + 4 j of the tile. -/
def execTmov (r : Bool) (v : BitVec 8) (t : BitVec 5) (s : State) : Out :=
  runWord s (formTmov r v t) fun c f =>
    let m := c.liveMask
    let w : Wave := if r then
        (List.range 4).foldl (fun w j => w.setV (v.toNat + j) m fun l =>
          let g (i : Nat) := tileByte c.wv.t t.toNat (16 * l + 4 * j + i)
          g 3 ++ g 2 ++ g 1 ++ g 0) c.wv
      else
        { c.wv with t := setTile c.wv.t t.toNat (fun b => m.getLsbD (b / 16)) (fun b =>
            byteOf (vLane c.wv.v (v.toNat + b % 16 / 4) (b / 16)) (b % 4)) 512 }
    .next (retire s c { wave := w, writes := f.writes, lat := f.lat })

end Sys2Proof.Machine
end

