-- ==== Sys2Proof/Machine/Mem.lean ====
section
/-! DEFINITION. Memory as every agent reaches it: translation (R202, R322-R327), the checks of an access
(R205, R232), the point of coherence (R207, R210, R470), the L1 (R208, R209, R329) and the aperture
(R203). -/

namespace Sys2Proof.Machine

open Sys2Proof

/-- Canonical form: bits [63:55] equal bit 54 (R202). -/
def canonical (a : Addr) : Bool := (a.extractLsb' 0 55).signExtend 64 == a

/-- Is an address in the block-memory aperture (R203)? -/
def inAperture (a : Addr) : Bool := decide (a.toNat ≥ Config.aperture)

/-- Offset of an aperture address. -/
def apOffset (a : Addr) : Nat := a.toNat - Config.aperture

/-- Home die of a local physical address (R206). -/
def homeDie (pa : Nat) : Nat := pa / 2 ^ 37 % 8

/-- Die of a core (R1). -/
def dieOf (core : Nat) : Nat := core / Config.coresPerDie

/-- A byte at the point of coherence. -/
def State.memByte (s : State) (pa : Nat) : Byte := getAt 0 s.mem pa

/-- Little-endian bytes of memory as a number (R3). -/
def leNat : List Byte → Nat
  | [] => 0
  | b :: t => b.toNat + 256 * leNat t

/-- Little-endian bytes of a number. -/
def leBytes : Nat → Nat → List Byte
  | 0, _ => []
  | n + 1, x => BitVec.ofNat 8 x :: leBytes n (x / 256)

/-- Bytes of local memory at the point of coherence. -/
def State.memRun (s : State) (pa n : Nat) : List Byte := getRun 0 s.mem pa n

/-- A 32-bit word at the point of coherence. -/
def State.mem32 (s : State) (pa : Nat) : Word := BitVec.ofNat 32 (leNat (s.memRun pa 4))

/-- A 64-bit word at the point of coherence. -/
def State.mem64 (s : State) (pa : Nat) : Addr := BitVec.ofNat 64 (leNat (s.memRun pa 8))

/-- Stack and pseudo-channel of a local address (R206). -/
def channelOf (pa : Nat) : Nat × Nat :=
  let pc := pa % 2 ^ 37 / 256 % 384
  (2 * homeDie pa + pc / 192, pc % 192)

/-- Has management fenced the pseudo-channel group of an address (R451)? -/
def State.groupFenced (s : State) (pa : Nat) : Bool :=
  !s.rel.fencedGroups.isEmpty && s.rel.fencedGroups.contains (16 * (channelOf pa).1 + (channelOf pa).2 / 12)

/-- This device's own id (R360, R469). -/
def State.own (s : State) : Nat := (s.mgmt.ownId.extractLsb' 0 10).toNat

/-- Does a read of a run abort: a byte reads as uncorrectable (R235), or its group is fenced (R451)? -/
def State.isBad (s : State) (pa n : Nat) : Bool :=
  (s.rel.badBytes.any fun a => decide (pa ≤ a) && decide (a < pa + n)) || s.groupFenced pa ||
    s.groupFenced (pa + n - 1) ||
    (!s.rel.fencedGroups.isEmpty && (List.range (n / 64)).any fun i => s.groupFenced (pa + 64 * (i + 1)))

/-- A counter that saturates at 0xFFFFFFFF (R441, R442, R385, R418). -/
def bump (m : Words) (k : Nat) : Words :=
  let v := getAt 0 m k
  setAt 0 m k (if v = 0xFFFFFFFF#32 then v else v + 1)

/-- A write to a fenced group is dropped and counted in XFER.UE of its stack (R442, R451). -/
def State.dropWrite (s : State) (pa : Nat) : State :=
  { s with rel := { s.rel with stack := bump s.rel.stack (4 * (channelOf pa).1 + 2) } }

/-- The bytes of a list that lie outside a half line, and inside it. -/
def outOfHalf (a : Nat) (l : List Nat) : List Nat := l.filter fun b => b / 64 != a / 64
/-- The bytes of a list in a half line. -/
def ofHalf (a : Nat) (l : List Nat) : List Nat := l.filter fun b => b / 64 == a / 64

/-- The half line at `a` is written to the HBM4E with new array codes; what was there is kept until the transfer is
reported, which may drop it (R447, R470). -/
def State.writeCells (s : State) (a : Nat) : State :=
  { s with
    dram := setRun 0 s.dram a (getRun 0 s.mem a 64)
    rel := { s.rel with
      badBytes := outOfHalf a s.rel.badBytes
      badCells := outOfHalf a s.rel.badCells
      writes := (a, getRun 0 s.dram a 64, ofHalf a s.rel.badCells) :: s.rel.writes.filter fun e => e.1 != a } }

/-- A dirty half of an L2 line reaches the HBM4E (R470). -/
def State.spillHalf (s : State) (x : L2Line) (i : Nat) : State :=
  if x.dirty.getLsbD i then s.writeCells (128 * x.line + 64 * i) else s

/-- The dirty halves of an L2 line reach the HBM4E (R470). -/
def State.spillL2 (s : State) (x : L2Line) : State := (s.spillHalf x 0).spillHalf x 1

/-- The dies whose RDC holds a copy of a line of this device: its directory (R210). -/
def State.rdcDies (s : State) (line : Nat) : BitVec 8 :=
  (s.rdc.filter fun r => r.ctx == none && r.dev == s.own && r.line == line && r.die != homeDie (128 * line)).foldl
    (fun m r => m ||| (1 : BitVec 8) <<< r.die) 0

/-- An L2 line is held, and changed by `f`, its directory naming the RDC copies that have outlived it; beyond the L2 of
its die the line that came first leaves (R1, R210, R470; log 20). -/
def State.holdL2 (s : State) (line : Nat) (f : L2Line → L2Line) : State :=
  let fresh : L2Line := { line := line, dirty := 0, dir := s.rdcDies line }
  let s1 : State := { s with l2 := upsert (fun x => x.line == line) fresh f s.l2 }
  let die := homeDie (128 * line)
  let mine := s1.l2.filter fun x => homeDie (128 * x.line) == die && x.line != line
  if mine.length < Config.l2Lines then s1
  else match mine.head? with
    | some x => { s1.spillL2 x with l2 := s1.l2.filter fun y => y.line != x.line }
    | none => s1

/-- How many writes the home L2 has reported for a line (R197, R304). -/
def State.lineStamp (s : State) (line : Nat) : Nat := getAt 0 s.reports line

/-- The home L2 reports a write to a line. -/
def State.noteWrite (s : State) (line : Nat) : State := { s with reports := setAt 0 s.reports line (getAt 0 s.reports line + 1) }

/-- A line enters a die's RDC; beyond its size a line of a streaming page leaves first, else the one that has
been there longest (R1, R209, R211; log 20). -/
def State.putRdc (s : State) (r : RdcLine) : State :=
  let rest := s.rdc.filter fun x => !(x.die == r.die && x.ctx == r.ctx && x.dev == r.dev && x.line == r.line)
  let mine := (rest.filter fun x => x.die == r.die).reverse
  let out : Option RdcLine := if mine.length < Config.rdcLines then none
    else match mine.find? fun x => x.streaming with
      | some x => some x
      | none => mine.head?
  { s with rdc := r :: (match out with
    | some x => rest.erase x
    | none => rest) }

/-- The L2 line of an address is present and its written half dirty, and the write is reported; RDC copies are
invalidated and the directory cleared, but for the writing die's own copy (R197, R210, R470). -/
def State.touchL2 (s : State) (pa : Nat) (die : Option Nat) : State :=
  let line := pa / 128
  let half : BitVec 2 := if pa / 64 % 2 = 0 then 1 else 2
  let keep : BitVec 8 := match die with
    | some e => (1 : BitVec 8) <<< e
    | none => 0
  let s1 := (s.holdL2 line fun x => { x with dirty := x.dirty ||| half, dir := x.dir &&& keep }).noteWrite line
  { s1 with rdc := s1.rdc.filter fun r => !(r.ctx == none && r.dev == s.own && r.line == line) || die == some r.die }

/-- Write one byte at the point of coherence; the writing die's RDC copy takes it (R210). -/
def State.pocByte (s : State) (pa : Nat) (b : Byte) (die : Option Nat) : State :=
  let s1 := s.touchL2 pa die
  { s1 with
    mem := setAt 0 s1.mem pa b
    rel := { s1.rel with badBytes := s1.rel.badBytes.filter fun a => a != pa }
    rdc := s1.rdc.map fun r =>
      if r.ctx == none && r.dev == s.own && r.line == pa / 128 then
        { r with data := updIdx (pa % 128) (fun _ => b) r.data } else r }

/-- Write consecutive bytes at the point of coherence. -/
def State.pocBytes (s : State) (pa : Nat) (die : Option Nat) : List Byte → State
  | [] => s
  | b :: t => (s.pocByte pa b die).pocBytes (pa + 1) die t

/-- Write bytes of one line at the point of coherence (R207), unless its group is fenced (R451). -/
def State.pocWrite (s : State) (pa : Nat) (die : Option Nat) (bs : List Byte) : State :=
  if s.groupFenced pa then s.dropWrite pa else s.pocBytes pa die bs

/-- Bytes cut at the ends of 64-byte sectors, with fuel: address and bytes. -/
def sectorPieces : Nat → Nat → List Byte → List (Nat × List Byte)
  | 0, _, _ => []
  | n + 1, pa, bs => if bs.isEmpty then [] else
      (pa, bs.take (64 - pa % 64)) :: sectorPieces n (pa + (64 - pa % 64)) (bs.drop (64 - pa % 64))

/-- Write consecutive bytes at the point of coherence, but for those in a fenced group (R207, R451). -/
def State.pocRun (s : State) (pa : Nat) (die : Option Nat) (bs : List Byte) : State :=
  (sectorPieces (bs.length / 64 + 2) pa bs).foldl (fun s e => s.pocWrite e.1 die e.2) s

/-- Write bytes of PCIe host memory (R325). -/
def State.hostBytes (s : State) (a : Nat) (bs : List Byte) : State :=
  { s with hostMem := setRun 0 s.hostMem a bs }

/-! ### Requests to other devices -/

/-- Svacon cycles: 2.2 GHz against the core's 3.3 (log 1). -/
def State.svNow (s : State) : Nat := s.now * 2 / 3

/-- A flit of this device's own: header fields that the sender sets (R365). -/
def State.flit (s : State) (typ dst ctx cls : Nat) (payload : List Byte) : Flit :=
  { typ := BitVec.ofNat 4 typ, hop := 0, dst := BitVec.ofNat 10 dst, src := BitVec.ofNat 10 s.own, via := 1023,
    tagIdx := 0, tagGen := 0, ctx := BitVec.ofNat 6 ctx, cls := BitVec.ofNat 7 cls, cvc := 0, ccnt := 0, lack := 0,
    sec := 0, lseq := 0, payload := payload }

/-- A new name for a block, launch or request. -/
def State.freshId (s : State) : Nat × State := (s.nextUid, { s with nextUid := s.nextUid + 1 })

/-- Put a flit of a packet in the egress queue. -/
def State.enqueue (s : State) (p : Packet) (f : Flit) (r : Option Request) : State :=
  { s with sv := { s.sv with egress := s.sv.egress ++ [{ flit := f, req := r, packet := p, since := s.svNow }] } }

/-- Put the flit of a new request in the egress queue; its token is put in as it is sent (R381). -/
def State.request (s : State) (dev : Nat) (f : Flit) (sector count ctx : Nat) (slot : Option Nat) (fill : Option (Nat × Bool))
    (l1 : Option (Nat × Nat)) (p : Option Packet) (o : ReqOwner) : Nat × State :=
  let n := s.freshId
  (n.1, n.2.enqueue (p.getD (.single n.1)) { f with dst := BitVec.ofNat 10 dev }
    (some { rid := n.1, dev := dev, sector := sector, count := count, ctx := ctx, fill := fill, l1 := l1, slot := slot, owner := o }))

/-- Room for a token in a request's payload. -/
def noToken : List Byte := List.replicate 8 0

/-- Enqueue a remote READ of `count` sectors (R373), whose answer fills the RDC of a die and an L1 line. -/
def State.remoteRead (s : State) (dev slot ctx pa count : Nat) (fill : Option (Nat × Bool)) (l1 : Option (Nat × Nat))
    (o : ReqOwner) : Nat × State :=
  let sector := pa / 64
  s.request dev (s.flit 1 dev ctx 0 (noToken ++ leBytes 8 (sector * 64) ++ leBytes 1 count)) sector count ctx (some slot)
    fill l1 none o

/-- Enqueue a remote WRITE of bytes within one sector (R373). -/
def State.remoteWrite (s : State) (dev slot ctx pa : Nat) (bs : List Byte) (o : ReqOwner) : Nat × State :=
  let sector := pa / 64
  let off := pa % 64
  let mask := (2 ^ bs.length - 1) * 2 ^ off % 2 ^ 64
  let data := (List.range 64).map fun i => if off ≤ i then bs.getD (i - off) 0 else 0
  s.request dev (s.flit 2 dev ctx 0 (noToken ++ leBytes 8 (sector * 64) ++ leBytes 8 mask ++ data)) sector 1 ctx (some slot)
    none none none o

/-- Enqueue a remote ATOM (R373). -/
def State.remoteAtom (s : State) (dev slot ctx pa fn : Nat) (d new : Word) (o : ReqOwner) : Nat × State :=
  s.request dev (s.flit 3 dev ctx 0 (noToken ++ leBytes 8 pa ++ leBytes 4 fn ++ leBytes 4 d.toNat ++ leBytes 4 new.toNat))
    (pa / 64) 1 ctx (some slot) none none none o

/-- Enqueue a remote WRITE of some bytes of a sector, by their offsets (R373). -/
def State.remoteMasked (s : State) (dev slot ctx sector : Nat) (bs : List (Nat × Byte)) (o : ReqOwner) : Nat × State :=
  let mask := bs.foldl (fun m e => m ||| 2 ^ e.1) 0
  let data := (List.range 64).map fun i => ((bs.find? fun e => e.1 == i).map fun e => e.2).getD 0
  s.request dev (s.flit 2 dev ctx 0 (noToken ++ leBytes 8 (sector * 64) ++ leBytes 8 mask ++ data)) sector 1 ctx (some slot)
    none none none o

/-- How a page-table walk ends (R325). -/
inductive Walk where
  | leaf (e : BitVec 64) (big : Bool)
  | pageFault
  | prot (reason : Nat)
  /-- An entry that reads as uncorrectable (R235, R437). -/
  | abort
  deriving DecidableEq, Repr

/-- ADDR of an entry (R324). -/
def pteAddr (e : BitVec 64) : Nat := (e.extractLsb' 8 32).toNat
/-- DEVICE of an entry. -/
def pteDevice (e : BitVec 64) : Nat := (e.extractLsb' 54 10).toNat
/-- TSLOT of an entry. -/
def pteSlot (e : BitVec 64) : Nat := (e.extractLsb' 42 12).toNat
/-- POLICY of an entry. -/
def ptePolicy (e : BitVec 64) : Nat := (e.extractLsb' 40 2).toNat

/-- A valid entry is malformed (R325). `level` is 3, 2 or 1. -/
def pteMalformed (own level : Nat) (e : BitVec 64) : Bool :=
  let leaf := e.getLsbD 1
  let remote := e.getLsbD 7
  let dev := pteDevice e
  let hi := pteAddr e / 2 ^ 24
  e.getLsbD 2 || ptePolicy e == 3
  || (!leaf && level == 1) || (leaf && level == 3)
  || (!leaf && (e.extractLsb' 40 24 != 0 || e.extractLsb' 3 5 != 0 || hi != 0))
  || (leaf && level == 2 && pteAddr e % 2 ^ 13 != 0)
  || (leaf && !remote && (dev != 0 || pteSlot e != 0 || hi != 0))
  || (leaf && remote && ((decide (993 ≤ dev) && decide (dev ≤ 1022)) || dev == own || (dev != 1023 && hi != 0)))
  || (leaf && remote && dev == 1023 && (ptePolicy e != 2 || e.getLsbD 6 || pteSlot e != 0))

/-- The walk from a table at `level` (R323): fuel is the level. -/
def walkFrom (s : State) (va : Addr) : Nat → Nat → Walk
  | 0, _ => .prot 7
  | level + 1, table =>
    let shift := 16 + 13 * level
    let idx := va.toNat / 2 ^ shift % 8192
    let pa := table + 8 * idx
    if s.isBad pa 8 then .abort
    else
      let e := s.mem64 pa
      if !e.getLsbD 0 then .pageFault
      else if pteMalformed s.own (level + 1) e then .prot 7
      else if e.getLsbD 1 then .leaf e (level == 1)
      else walkFrom s va level (pteAddr e * 65536)

/-- The translation of a canonical address in a context (R322, R323, R327): protection, reason 8, where the context
does not exist; else a cached leaf, or a walk. -/
def State.walk (s : State) (core ctx : Nat) (va : Addr) : Walk :=
  let page (big : Bool) : Nat := va.toNat % 2 ^ 55 / (if big then 2 ^ 29 else 2 ^ 16)
  match s.ctx? ctx with
  | none => .prot 8
  | some x =>
    match s.tlb.find? fun t => t.ctx == ctx && t.page == page t.big &&
        (match t.core with
          | some c => c == core
          | none => t.die == dieOf core) with
    | some t => .leaf t.leaf t.big
    | none => walkFrom s va 3 x.root.toNat

/-- Where a translated access goes (R207, R325). -/
inductive Space where
  | here
  | remote (dev slot : Nat)
  | host
  deriving DecidableEq, Repr

/-- A translated address: the space, the physical address there, and the cache policy. -/
structure Target where
  space : Space
  pa : Nat
  policy : Nat
  deriving DecidableEq, Repr

/-- What a leaf maps (R323-R325). -/
def leafTarget (e : BitVec 64) (big : Bool) (va : Addr) : Target :=
  let off := if big then va.toNat % 2 ^ 29 else va.toNat % 2 ^ 16
  { space := if !e.getLsbD 7 then .here
      else if pteDevice e = 1023 then .host else .remote (pteDevice e) (pteSlot e),
    pa := pteAddr e * 65536 + off, policy := ptePolicy e }

/-- Page permissions an access needs (R232). -/
structure Need where
  r : Bool := false
  w : Bool := false
  x : Bool := false
  a : Bool := false
  deriving DecidableEq, Repr

/-- The reason of the first missing permission (R326, R335). -/
def missing (n : Need) (e : BitVec 64) : Option Nat :=
  if n.r && !e.getLsbD 3 then some 3
  else if n.w && !e.getLsbD 4 then some 4
  else if n.x && !e.getLsbD 5 then some 5
  else if n.a && !e.getLsbD 6 then some 6
  else none

/-- The outcome of translating one access. -/
inductive Xlate where
  | ok (t : Target)
  | pageFault
  | prot (reason : Nat)
  | abort
  deriving DecidableEq, Repr

/-- Translation with its permission check (R326). -/
def State.translate (s : State) (core ctx : Nat) (n : Need) (va : Addr) : Xlate :=
  match s.walk core ctx va with
  | .pageFault => .pageFault
  | .prot r => .prot r
  | .abort => .abort
  | .leaf e big =>
    match missing n e with
    | some r => .prot r
    | none => .ok (leafTarget e big va)

/-- A leaf found by a walk enters the core's and the die's caches, the oldest entry beyond their size
leaving (R327; log 20). -/
def State.fillTlb (s : State) (core ctx : Nat) (va : Addr) : State :=
  match s.walk core ctx va with
  | .leaf e big =>
    let page := va.toNat % 2 ^ 55 / (if big then 2 ^ 29 else 2 ^ 16)
    let mk (c : Option Nat) : TlbEntry :=
      { core := c, die := dieOf core, ctx := ctx, big := big, page := page, leaf := e }
    if s.tlb.any fun t => t.core == some core && t.ctx == ctx && t.page == page && t.big == big then s
    else
      let mine := (s.tlb.filter fun t => t.core == some core).take 511
      let dies := (s.tlb.filter fun t => t.core == none && t.die == dieOf core &&
        !(t.ctx == ctx && t.page == page && t.big == big)).take 16383
      let rest := s.tlb.filter fun t => t.core != some core && !(t.core == none && t.die == dieOf core)
      { s with tlb := mk (some core) :: mine ++ mk none :: dies ++ rest }
  | _ => s

/-- An access whose walk has met an abort is withheld from the context, with its interrupts (R437, R438). -/
def State.walkWithheld (s : State) (core ctx : Nat) (n : Need) (va : Addr) : State :=
  if canonical va && !inAperture va && s.translate core ctx n va == .abort then s.withhold (some ctx) else s

/-- The lanes of `m` for which `p` fails a check. -/
def laneFails (m : Mask) (p : Nat → Bool) : Mask := maskOf (fun l => m.getLsbD l && p l) 32

/-- Trap codes of R335. -/
def causeAlign : Nat := 4
/-- Page fault. -/
def causePage : Nat := 5
/-- Protection. -/
def causeProt : Nat := 6
/-- Illegal-wait. -/
def causeWait : Nat := 7

/-- The first check of R205 that an executing lane fails, over all lanes in its order. -/
def addrFault (s : State) (core ctx bsize op : Nat) (need : Need) (align : Nat) (m : Mask)
    (addr : Nat → Addr) : Option TrapInfo :=
  let mk (cause reason : Nat) (f : Mask) : Option TrapInfo :=
    some { cause := cause, reason := reason, opcode := op, addr := addr (firstLane f 32), mask := f }
  let f1 := laneFails m fun l => !canonical (addr l)
  let f2 := laneFails m fun l => (addr l).toNat % align != 0
  let f3 := laneFails m fun l => inAperture (addr l) && decide (apOffset (addr l) ≥ bsize)
  let tr (l : Nat) : Xlate := if inAperture (addr l) then .abort else s.translate core ctx need (addr l)
  let f4 := laneFails m fun l => match tr l with
    | .prot _ => true
    | _ => false
  let f5 := laneFails m fun l => tr l == .pageFault
  if f1 ≠ 0 then mk causeProt 1 f1
  else if f2 ≠ 0 then mk causeAlign 0 f2
  else if f3 ≠ 0 then mk causeProt 2 f3
  else if f4 ≠ 0 then mk causeProt (match tr (firstLane f4 32) with
    | .prot r => r
    | _ => 0) f4
  else if f5 ≠ 0 then mk causePage 0 f5
  else none

/-- Lanes whose walk receives an abort: they are killed (R205, R437). -/
def walkAborts (s : State) (core ctx : Nat) (need : Need) (m : Mask) (addr : Nat → Addr) : Mask :=
  laneFails m fun l => !inAperture (addr l) && s.translate core ctx need (addr l) == .abort

/-- The L1 line of a core, context and virtual line, if held (R208). -/
def State.l1Line (s : State) (core ctx line : Nat) : Option L1Line :=
  s.l1.find? fun x => x.core == core && x.ctx == ctx && x.line == line

/-- A byte below the L1: the die's RDC copy, else the point of coherence (R207, R210, R211), and for an uncached page
only the latter (R209). A remote byte that the RDC does not hold is not answered here. -/
def State.belowByte (s : State) (core ctx : Nat) (t : Target) : Option Byte :=
  let die := dieOf core
  match t.space with
  | .here =>
    match s.rdc.find? fun r => t.policy != 2 && r.die == die && r.ctx == none && r.dev == s.own &&
        r.line == t.pa / 128 with
    | some r => some (r.data.getD (t.pa % 128) 0)
    | none => if s.isBad t.pa 1 then none else some (s.memByte t.pa)
  | .host => some (getAt 0 s.hostMem t.pa)
  | .remote dev _ =>
    match s.rdc.find? fun r => t.policy != 2 && r.die == die && r.ctx == some ctx && r.dev == dev && r.line == t.pa / 128 with
    | some r => some (r.data.getD (t.pa % 128) 0)
    | none => none

/-- The newest store of the wave's queue that covers an address (R208). -/
def sqByte (w : Wave) (a : Addr) : Option Byte :=
  w.sq.foldl (fun acc e => match e.2 with
    | .store _ lanes _ _ => lanes.foldl (fun acc x =>
        let k := (a - x.2.1).toNat
        if k < x.2.2.length then some (x.2.2.getD k 0) else acc) acc
    | _ => acc) none

/-- A byte below the L1 as the core itself sees it: its own write that is still dirty in the L1 first, none where that
is uncorrectable (R218, R449). -/
def State.ownByte (s : State) (core ctx : Nat) (va : Addr) (below : Byte) : Option Byte :=
  match s.l1Line core ctx (va.toNat / 128) with
  | none => some below
  | some ln =>
    let i := va.toNat % 128
    if !ln.dirty.getLsbD i then some below else if ln.bad.getLsbD i then none else some (getAt 0 ln.data i)

/-- A byte as a wave's load reads it: its own store queue, the L1, below (R208); of an uncached page the L1 answers with
the core's own dirty bytes only (R209, R218). -/
def State.loadByte (s : State) (core ctx : Nat) (w : Wave) (va : Addr) (t : Target) : Option Byte :=
  match sqByte w va with
  | some b => some b
  | none =>
    match s.l1Line core ctx (va.toNat / 128) with
    | some ln =>
      let i := va.toNat % 128
      if ln.bad.getLsbD i then none
      else if ln.valid.getLsbD i && (t.policy != 2 || ln.dirty.getLsbD i) then some (getAt 0 ln.data i)
      else s.belowByte core ctx t
    | none => s.belowByte core ctx t

/-- All of a list of optional bytes. -/
def allBytes : List (Option Byte) → Option (List Byte)
  | [] => some []
  | none :: _ => none
  | some b :: t => (allBytes t).map fun r => b :: r

/-- Bytes of an L1 line that a write-back writes: offset and value (R208, R449). -/
def L1Line.dirtyBytes (ln : L1Line) : List (Nat × Byte) :=
  ((List.range 128).filter fun i => ln.dirty.getLsbD i && !ln.bad.getLsbD i).map fun i => (i, getAt 0 ln.data i)

/-- Dirty bytes of a core's L1 written to a line of another device, sector by sector (R207, R213). -/
def State.evictFar (s : State) (core dev slot ctx line : Nat) (bs : List (Nat × Byte)) : State :=
  [0, 1].foldl (fun s h =>
    let mine := (bs.filter fun e => e.1 / 64 == h).map fun e => (e.1 % 64, e.2)
    if mine.isEmpty then s else (s.remoteMasked dev slot ctx (2 * line + h) mine (.evict core)).2) s

/-- A write-back of a context's dirty bytes from a core's L1 to another device has still to be acknowledged (R213). -/
def State.evicting (s : State) (core ctx : Nat) : Bool :=
  let mine (r : Request) : Bool := r.ctx == ctx && r.owner == .evict core
  (s.sv.tags.any fun t => mine t.req) || s.sv.egress.any fun q => q.req.any mine

/-- Write the dirty bytes of a line to their point of coherence: the line is translated again, and a
page without a valid writable leaf refuses it (R329), and a walk that meets an abort discards the bytes
(R437). -/
def State.writeBack (s : State) (ln : L1Line) : Except (Nat × Nat) State :=
  if ln.dirty = 0 then .ok s
  else
    let va := BitVec.ofNat 64 (ln.line * 128)
    match s.translate ln.core ln.ctx { w := true } va with
    | .ok t =>
      match t.space with
      | .here => if s.groupFenced t.pa then .ok (s.dropWrite t.pa)
        else .ok (ln.dirtyBytes.foldl (fun s e => s.pocByte (t.pa + e.1) e.2 (some (dieOf ln.core))) s)
      | .host => .ok (ln.dirtyBytes.foldl (fun s e => s.hostBytes (t.pa + e.1) [e.2]) s)
      | .remote dev slot => .ok (s.evictFar ln.core dev slot ln.ctx (t.pa / 128) ln.dirtyBytes)
    | .pageFault => .error (causePage, 0)
    | .prot _ => .error (causeProt, 10)
    | .abort => .ok (s.withhold (some ln.ctx))

/-- Replace or remove one L1 line. -/
def State.setL1 (s : State) (core ctx line : Nat) (n : Option L1Line) : State :=
  let rest := s.l1.filter fun x => !(x.core == core && x.ctx == ctx && x.line == line)
  { s with l1 := match n with
    | some x => x :: rest
    | none => rest }

/-- Change one L1 line where it is in the order of use. -/
def State.keepL1 (s : State) (core ctx line : Nat) (n : L1Line) : State :=
  { s with l1 := s.l1.map fun x => if x.core == core && x.ctx == ctx && x.line == line then n else x }

/-- The line to leave a full set: least recently used, streaming lines first, never one that R329
excludes (R208). -/
def State.victim (s : State) (core line : Nat) : Option L1Line :=
  let mine := s.l1.filter fun x => x.core == core && x.line % 128 == line % 128
  if mine.length < 16 then none
  else
    let ok := (mine.filter fun x => !x.pinned).reverse
    match ok.find? fun x => x.streaming with
    | some x => some x
    | none => ok.head?

/-- Is a set full? -/
def State.setFull (s : State) (core line : Nat) : Bool :=
  decide ((s.l1.filter fun x => x.core == core && x.line % 128 == line % 128).length ≥ 16)

/-- Make room in the set of a line; a victim whose write-back would fault is excluded from then on
(R329). None when every way is excluded: the access then bypasses the L1. -/
def State.makeRoom (s : State) (core line : Nat) : Nat → Option State
  | 0 => none
  | n + 1 =>
    if !s.setFull core line then some s
    else
      match s.victim core line with
      | none => none
      | some v =>
        match s.writeBack v with
        | .ok s1 => some (s1.setL1 v.core v.ctx v.line none)
        | .error _ => (s.keepL1 v.core v.ctx v.line { v with pinned := true }).makeRoom core line n

/-- An empty L1 line. -/
def L1Line.fresh (core ctx line : Nat) (streaming : Bool) : L1Line :=
  { core := core, ctx := ctx, line := line, streaming := streaming, pinned := false, valid := 0, dirty := 0,
    bad := 0, data := [] }

/-- A line whose dirty bytes have been written back: what of them was uncorrectable is dropped (R449). -/
def L1Line.cleaned (ln : L1Line) : L1Line := { ln with dirty := 0, bad := 0, valid := ln.valid &&& ~~~ln.bad }

/-- The line made most recently used, allocated when absent (R208). -/
def State.useLine (s : State) (core ctx line : Nat) (t : Target) : Option State :=
  match s.l1Line core ctx line with
  | some ln => some (s.setL1 core ctx line (some ln))
  | none => (s.makeRoom core line 17).map fun s1 =>
      s1.setL1 core ctx line (some (L1Line.fresh core ctx line (t.policy == 1)))

/-- A load of a cached line fetches its missing bytes and merges them with the dirty ones (R208); a
byte that cannot be had stays missing. -/
def State.fillLine (s : State) (core ctx : Nat) (va : Addr) (t : Target) : State :=
  if t.policy = 2 then s
  else
    let line := va.toNat / 128
    match s.useLine core ctx line t with
    | none => s
    | some s1 =>
      match s1.l1Line core ctx line with
      | none => s1
      | some ln =>
        let got := (List.range 128).filterMap fun i =>
          if ln.valid.getLsbD i then none
          else (s1.belowByte core ctx { t with pa := t.pa / 128 * 128 + i }).map fun b => (i, b)
        s1.setL1 core ctx line (some { ln with
          valid := got.foldl (fun v e => v ||| (1 : BitVec 128) <<< e.1) ln.valid,
          data := got.foldl (fun d e => setAt 0 d e.1 e.2) ln.data })

/-- A line of another die, read through the RDC, is placed there and its directory bit set (R209,
R210). -/
def State.fillRdc (s : State) (core : Nat) (t : Target) : State :=
  let die := dieOf core
  let line := t.pa / 128
  if t.policy = 2 || t.space != .here || homeDie t.pa = die || s.isBad (line * 128) 128 then s
  else if s.rdc.any fun r => r.die == die && r.ctx == none && r.line == line && r.dev == s.own then s
  else
    (s.holdL2 line fun x => { x with dir := x.dir ||| (1 : BitVec 8) <<< die }).putRdc
      { die := die, ctx := none, dev := s.own, line := line, streaming := t.policy == 1, data := s.memRun (line * 128) 128 }

/-- Stored bytes entering the L1 (R208), or their point of coherence when the page is uncached or no
way can be had (R209, R329). -/
def State.storeLocal (s : State) (core ctx : Nat) (va : Addr) (t : Target) (bs : List Byte) : State :=
  let line := va.toNat / 128
  let through := s.pocWrite t.pa (some (dieOf core)) bs
  if t.policy = 2 then through
  else
    match s.useLine core ctx line t with
    | none => through
    | some s1 =>
      match s1.l1Line core ctx line with
      | none => through
      | some ln =>
        let o := va.toNat % 128
        let m : BitVec 128 := BitVec.ofNat 128 ((2 ^ bs.length - 1) * 2 ^ o)
        s1.setL1 core ctx line (some { ln with
          valid := ln.valid ||| m, dirty := ln.dirty ||| m, bad := ln.bad &&& ~~~m, data := setRun 0 ln.data o bs })

/-- Write back every dirty byte of a context in a core's L1, which is no use of its lines; the first fault stops it
(R208, R213, R228). -/
def writeBackAll (s : State) : List L1Line → Except (Nat × Nat × Nat) State
  | [] => .ok s
  | ln :: t =>
    match s.writeBack ln with
    | .error e => .error (e.1, e.2, ln.line * 128)
    | .ok s1 => writeBackAll (s1.keepL1 ln.core ln.ctx ln.line { ln.cleaned with pinned := false }) t

/-- Lines that a release or CINV covers may be chosen for eviction again, even where it faults (R329). -/
def State.unpin (s : State) (core ctx : Nat) (p : Nat → Bool) : State :=
  { s with l1 := s.l1.map fun x => if x.core == core && x.ctx == ctx && p x.line then { x with pinned := false } else x }

/-- Every line of the context: a release's. -/
def State.unpinAll (s : State) (core ctx : Nat) : State := s.unpin core ctx fun _ => true

/-- The lines of a context in a core's L1. -/
def State.l1Of (s : State) (core ctx : Nat) : List L1Line := s.l1.filter fun x => x.core == core && x.ctx == ctx

/-- The cache action of a release at device or fabric scope (R213). -/
def State.releaseL1 (s : State) (core ctx : Nat) : Except (Nat × Nat × Nat) State :=
  writeBackAll s (s.l1Of core ctx)

/-- Remote reads under way that `p` names fill no cache when they are answered: what they bring may be older than
a write that an access of the reader must see (R218, R221). -/
def State.dropFills (s : State) (p : Nat → Request → Bool) (f : Request → Request) : State :=
  { s with sv := { s.sv with
    tags := s.sv.tags.map fun t => if p t.target t.req then { t with req := f t.req } else t
    egress := s.sv.egress.map fun q => { q with req := q.req.map fun r => if p q.flit.dst.toNat r then f r else r } } }

/-- A request whose answer fills neither RDC nor L1. -/
def Request.noFill (r : Request) : Request := { r with fill := none, l1 := none }

/-- The lines of a context leave a core's ray node cache (R289, R290); when it happened is kept, for what queries under
way have read of other devices does not enter it. -/
def State.dropRays (s : State) (core ctx : Nat) : State :=
  { s with
    raycache := s.raycache.filter fun x => !(x.core == core && x.ctx == ctx)
    rayClear := setAt 0 s.rayClear (64 * core + ctx) s.now }

/-- The cache action of an acquire (R213, R289): scope 2 device, 3 fabric. A read that was made before it fills
no cache that it has cleared (R221). -/
def State.acquireCaches (s0 : State) (core ctx : Nat) (scope : Nat) : State :=
  if scope < 2 then s0
  else
    let s := (s0.dropRays core ctx).dropFills (fun _ r => r.ctx == ctx && (match r.l1 with
        | some x => x.1 == core
        | none => false) || (scope == 3 && r.ctx == ctx && (r.fill.map fun x => x.1) == some (dieOf core)))
      fun r => if scope == 3 then r.noFill else { r with l1 := none }
    let l1 := s.l1.filterMap fun x =>
      if x.core == core && x.ctx == ctx then
        (if x.dirty = 0 then none else some { x with valid := x.dirty }) else some x
    { s with
      l1 := l1
      rdc := if scope = 3 then s.rdc.filter fun r => !(r.die == dieOf core && r.ctx == some ctx) else s.rdc }

/-- Bytes of the aperture (R203). -/
def Block.bmemRun (b : Block) (off n : Nat) : List Byte := getRun 0 b.bmem off n

/-- Write bytes of a block's memory. -/
def Block.bmemWrite (b : Block) (off : Nat) (bs : List Byte) : Block := { b with bmem := setRun 0 b.bmem off bs }

/-- The clean bytes of a line leave a core's L1. -/
def State.dropClean (s : State) (core ctx line : Nat) : State :=
  { s with l1 := s.l1.filterMap fun x =>
      if x.core == core && x.ctx == ctx && x.line == line then (if x.dirty = 0 then none else some { x with valid := x.dirty })
      else some x }

/-- A borrowed line leaves the RDC when a store, an atomic or a copy write of its die leaves (R211, R225; log 51), and
the clean bytes of the line leave the core's L1 (R212, R225). A read of
the line that is under way fills no cache: it may bring bytes older than the write (R218). -/
def State.dropBorrowed (s : State) (core dev pa ctx : Nat) (va : Addr) : State :=
  let s1 := s.dropFills (fun t r => t == dev && r.sector / 2 == pa / 128 && (r.fill.map fun x => x.1) == some (dieOf core))
    Request.noFill
  ({ s1 with rdc := s1.rdc.filter fun r => !(r.die == dieOf core && r.ctx.isSome && r.dev == dev && r.line == pa / 128) } :
    State).dropClean core ctx (va.toNat / 128)

/-- The outcome of fetching a word of code (R30, R185). -/
inductive Fetch where
  | ok (w : Word)
  | fault (t : TrapInfo)
  | abort
  deriving DecidableEq, Repr

/-- A line enters the instruction cache, the oldest leaving beyond its 1,024 lines (log 7). -/
def State.icFill (s : State) (core ctx line : Nat) (data : List Byte) : State :=
  let rest := s.icache.filter fun x => !(x.core == core && x.ctx == ctx && x.line == line)
  let mine := (rest.filter fun x => x.core == core).take 1023
  { s with icache := { core := core, ctx := ctx, line := line, data := data } :: mine ++
      rest.filter fun x => x.core != core }

/-- Fetch 32 bits at an address through the page tables, which must grant X (R326). -/
def State.fetch32 (s : State) (core ctx : Nat) (va : Addr) : Fetch :=
  if !canonical va then .fault { cause := causeProt, reason := 1, opcode := 0, addr := va }
  else
    match s.translate core ctx { x := true } va with
    | .pageFault => .fault { cause := causePage, opcode := 0, addr := va }
    | .prot r => .fault { cause := causeProt, reason := r, opcode := 0, addr := va }
    | .abort => .abort
    | .ok t =>
      match t.space with
      | .here => if s.isBad t.pa 4 then .abort else .ok (s.mem32 t.pa)
      | .host => .ok (BitVec.ofNat 32 (leNat (getRun 0 s.hostMem t.pa 4)))
      | .remote _ _ =>
        match s.icache.find? fun x => x.core == core && x.ctx == ctx && x.line == va.toNat / 128 && !x.data.isEmpty with
        | some x => .ok (BitVec.ofNat 32 (leNat ((x.data.drop (va.toNat % 128)).take 4)))
        | none => .abort

/-- The words of a list of fetches, all of which must succeed. -/
def State.fetchRun (s : State) (core ctx : Nat) (va : Addr) : Nat → Except Fetch (List Word)
  | 0 => .ok []
  | n + 1 =>
    match s.fetch32 core ctx va with
    | .ok w =>
      match s.fetchRun core ctx (va + 4) n with
      | .ok ws => .ok (w :: ws)
      | .error e => .error e
    | f => .error f

/-- The opcode of the word at a stream's PC. -/
def State.streamOpcode (s : State) (b : Block) (t : Stream) : Nat :=
  match s.fetch32 b.core b.ctx (t.pc + 4) with
  | .ok w => (w.extractLsb' 26 6).toNat
  | _ => 0

end Sys2Proof.Machine
end

