-- ==== Sys2Proof/Machine/Waves.lean ====
section
/-! DEFINITION. What the parts and waves of a block do to one another: control stacks, reconvergence
(R155-R158), whole-wave arrival (R160), block barriers (R193), matrix barriers (R196), channels (R173,
R174, R198, R199) and the deadlock condition (R171). -/

namespace Sys2Proof.Machine

open Sys2Proof

/-- A return entry of a control stack (R155, R175). -/
def retEntry (a : Addr) : BitVec 64 := (a.extractLsb' 0 55).zeroExtend 64

/-- A reconvergence entry: KIND 1 in bit 63 (R155, R175). -/
def reconvEntry (a : Addr) : BitVec 64 := (a.extractLsb' 0 55).zeroExtend 64 ||| (1 : BitVec 64) <<< 63

/-- Is an entry a reconvergence entry? -/
def isReconv (e : BitVec 64) : Bool := e.getLsbD 63

/-- The address of an entry. -/
def entryAddr (e : BitVec 64) : Addr := (e.extractLsb' 0 55).signExtend 64

/-- A part is bound for X: its ρ is X, or a reconvergence entry on its stack holds X (R157). -/
def Part.boundFor (p : Part) (x : Addr) : Bool :=
  p.rho == x || p.stack.any fun e => isReconv e && entryAddr e == x

/-- A part waits at its reconvergence address X. -/
def Part.waitsAt (p : Part) (x : Addr) : Bool := p.wait == .reconv && p.rho == x

/-- The part past the word at which it waited: the next clause (BAR and its like end their clause). -/
def Part.past (p : Part) : Part :=
  { p with pc := p.pc + BitVec.ofNat 64 (4 * (p.word + 1)), word := 0, wait := .none }

/-- The lowest free split entry (R156). -/
def Wave.freeEntry (w : Wave) : Option Nat :=
  (List.range 4).find? fun k => (w.splits.getD k none).isNone

/-- Merge at X when every part bound for X waits there (R157): the survivor pops its top entry. The
flag says that the entry was not a reconvergence entry, a fault with the PC at X. -/
def Wave.mergeAt (w : Wave) (x : Addr) : Option (Wave × Bool) :=
  let bound := w.parts.filter fun e => e.2.boundFor x
  if bound.isEmpty || !(bound.all fun e => e.2.waitsAt x) then none
  else
    match bound.find? fun e => decide (e.1 < 4) with
    | some (k, p) =>
      let mask := bound.foldl (fun m e => m ||| e.2.mask) 0
      let w1 := bound.foldl (fun w e => w.setPart e.1 none) w
      match p.stack with
      | e :: t =>
        if isReconv e then
          some (w1.setPart k (some { p with mask := mask, stack := t, rho := entryAddr e, wait := .merged }), false)
        else some (w1.setPart k (some { p with mask := mask, wait := .none }), true)
      | [] => some (w1.setPart k (some { p with mask := mask, wait := .none }), true)
    | none =>
      match bound, w.freeEntry with
      | (_, p) :: _, some k =>
        let w1 := w.setPart 4 none
        match p.stack with
        | e :: t =>
          if isReconv e then
            some (w1.setPart k (some { p with stack := t, rho := entryAddr e, wait := .merged }), false)
          else some (w1.setPart k (some { p with wait := .none }), true)
        | [] => some (w1.setPart k (some { p with wait := .none }), true)
      | _, _ => none

/-- The addresses at which parts of a wave wait. -/
def Wave.waitAddrs (w : Wave) : List Addr :=
  w.parts.filterMap fun e => if e.2.wait == .reconv then some e.2.rho else none

/-- The first merge that can take place in a wave. -/
def Wave.merge (w : Wave) : Option (Wave × Bool × Addr) :=
  (w.waitAddrs.filterMap fun x => (w.mergeAt x).map fun r => (r.1, r.2, x)).head?

/-- The first merge of a block's waves, taken; a bad stack halts the block (R157). -/
def Block.mergeOne (b : Block) (now : Nat) : Block :=
  match (b.waves.filterMap fun w => w.merge.map fun r => (w.idx, r)).head? with
  | some (i, w, bad, x) =>
    let b1 := b.updWave i fun _ => w
    if bad then b1.takeTrap now i (position x 0) { cause := causeInstr, opcode := 0, addr := 0 } else b1
  | none => b

/-- Every part of the wave satisfies `f`, and there is a part (R160). -/
def Wave.allParts (w : Wave) (f : Part → Bool) : Bool := !w.parts.isEmpty && w.parts.all fun e => f e.2

/-- A block barrier (R193). -/
def Block.bar (b : Block) (n : Nat) : Barrier := ((b.bars.find? fun e => e.1 == n).map (·.2)).getD { phase := 0, arrived := [] }

/-- Replace a block barrier. -/
def Block.setBar (b : Block) (n : Nat) (x : Barrier) : Block :=
  { b with bars := (n, x) :: b.bars.filter fun e => e.1 != n }

/-- A matrix barrier (R196). -/
def Block.mbar (b : Block) (n : Nat) : MBarrier :=
  ((b.mbars.find? fun e => e.1 == n).map (·.2)).getD { phase := 0, waveSide := false, streamSide := false }

/-- Replace a matrix barrier. -/
def Block.setMbar (b : Block) (n : Nat) (x : MBarrier) : Block :=
  { b with mbars := (n, x) :: b.mbars.filter fun e => e.1 != n }

/-- A channel (R173): open and empty at block start. -/
def Block.chan (b : Block) (n : Nat) : Channel :=
  ((b.chans.find? fun e => e.1 == n).map (·.2)).getD { closed := false, head := 0, masks := [] }

/-- Replace a channel. -/
def Block.setChan (b : Block) (n : Nat) (x : Channel) : Block :=
  { b with chans := (n, x) :: b.chans.filter fun e => e.1 != n }

/-- A copy token (R251). -/
def Block.token (b : Block) (n : Nat) : Token :=
  ((b.tokens.find? fun e => e.1 == n).map (·.2)).getD { outst := [], abort := false, failed := 0, coll := false }

/-- Replace a token. -/
def Block.setToken (b : Block) (n : Nat) (x : Token) : Block :=
  { b with tokens := (n, x) :: b.tokens.filter fun e => e.1 != n }

/-- Complete tokens of the block are observed: after a COLL or CSEND that is an acquire, at fabric scope for what the
operation has taken from the other ranks (R396; DEDUCED, log 51). -/
def State.observe (s : State) (b : Block) (ks : List Nat) : State :=
  if ks.any fun k => (b.token k).outst.isEmpty && (b.token k).coll then s.acquireCaches b.core b.ctx 3 else s

/-- Waves of the block that have not exited. -/
def Block.liveWaves (b : Block) : List Wave := b.waves.filter fun w => w.live

/-- The wave is in its slot: not parked, so that its save area is not what it goes on from (R172, R201). -/
def Wave.present (w : Wave) : Bool := match w.run with
  | .parked _ _ => false
  | _ => true

/-- Stores and atomics of the wave that have not left it, or are not performed: a release at block scope waits
for them (R213, R221). -/
def Wave.storesQueued (w : Wave) : Bool := !w.atoms.isEmpty || w.sq.any fun e => match e.2 with
  | .store _ _ _ _ => true
  | .atom _ _ _ _ _ _ _ => true
  | _ => false

/-- A wave whose every part waits at BAR n arrives unless it has arrived in this phase (R160, R193):
in a wave whose parts mix BAR.ARV and BAR the arrive-only parts go on at that arrival and the others wait for the
phase (DESIGN CHOICE, log 26: the rules do not say which form such a wave takes). An arrival is a release at block scope,
so it waits for the wave's own stores and atomics (R194, R213). -/
def Block.arriveBar (b : Block) (n : Nat) (w : Wave) : Block :=
  let x := b.bar n
  let here := w.allParts fun p => match p.wait with
    | .bar m _ => m == n
    | _ => false
  if here && !x.arrived.contains w.idx && !w.storesQueued then
    (b.setBar n { x with arrived := w.idx :: x.arrived }).updWave w.idx fun w =>
      w.mapParts fun p => match p.wait with
        | .bar _ true => p.past
        | .bar _ false => { p with wait := .barPhase n x.phase }
        | _ => p
  else b

/-- A block barrier completes when every wave that has not exited has arrived (R193); one that is parked counts as
arrived only once it is back (R172). -/
def Block.completeBar (b : Block) (n : Nat) : Block :=
  let x := b.bar n
  if !x.arrived.isEmpty && b.liveWaves.all fun w => w.present && x.arrived.contains w.idx then
    let b1 := b.setBar n { phase := x.phase + 1, arrived := [] }
    { b1 with waves := b1.waves.map fun w => w.mapParts fun p => match p.wait with
      | .barPhase m ph => if m == n && ph == x.phase then p.past else p
      | _ => p }
  else b

/-- Does the stream side of a matrix barrier count as arrived without an arrival (R196)? -/
def Block.streamGone (b : Block) : Bool := match b.stream with
  | none => true
  | some x => x.run == .ended

/-- The stream past the MBAR word at which it waited (R263). -/
def Stream.past (t : Stream) (now : Nat) : Stream := { t with run := .running, pc := t.pc + 8, readySince := now }

/-- Waits of a matrix barrier for a phase that has passed are over; a parked wave finds that out when it is
restored (R196, R201). -/
def Block.passMbar (b : Block) (n now : Nat) : Block :=
  let phase := (b.mbar n).phase
  { b with
    waves := b.waves.map fun w => if !w.present then w else w.mapParts fun p => match p.wait with
      | .mbar m ph => if m == n && ph != phase then p.past else p
      | _ => p
    stream := b.stream.map fun t => match t.run with
      | .mbar m ph => if m == n && ph != phase then t.past now else t
      | _ => t }

/-- A matrix barrier phase completes when both sides have arrived (R196). -/
def Block.completeMbar (b : Block) (n now : Nat) : Block :=
  let x := b.mbar n
  let wv := x.waveSide || b.liveWaves.isEmpty
  let st := x.streamSide || b.streamGone
  if (x.waveSide || x.streamSide) && wv && st then
    (b.setMbar n { phase := x.phase + 1, waveSide := false, streamSide := false }).passMbar n now
  else b.passMbar n now

/-- The wave side arrives at matrix barrier n if it has not in this phase; `p` is how the arriving part
goes on. -/
def Block.waveArrive (b : Block) (n i k : Nat) (sync : Bool) : Block :=
  let x := b.mbar n
  let upd (f : Part → Part) : Block → Block := fun b => b.updWave i fun w => match w.part? k with
    | some p => w.setPart k (some (f p))
    | none => w
  if x.waveSide then upd (fun p => { p with wait := .mbarAgain n sync }) b
  else upd (fun p => if sync then { p with wait := .mbar n x.phase } else p.past)
    (b.setMbar n { x with waveSide := true })

/-- The stream side arrives, and waits for the phase or goes on (R196, R263). -/
def Block.streamArrive (b : Block) (n : Nat) (sync : Bool) (now : Nat) : Block :=
  let x := b.mbar n
  if x.streamSide then { b with stream := b.stream.map fun t => { t with run := .mbarAgain n sync } }
  else { b.setMbar n { x with streamSide := true } with
    stream := b.stream.map fun t => if sync then { t with run := .mbar n x.phase } else t.past now }

/-- Arrivals that waited for a new phase of a matrix barrier; a parked wave arrives once it is back (R172). -/
def Block.retryMbar (b : Block) (n now : Nat) : Block :=
  let b1 := match ((b.waves.filter fun w => w.present && !w.storesQueued).flatMap fun w => w.parts.filterMap fun e => match e.2.wait with
      | .mbarAgain m sync => if m == n && !(b.mbar n).waveSide then some (w.idx, e.1, sync) else none
      | _ => none).head? with
    | some (i, k, sync) => b.waveArrive n i k sync
    | none => b
  match b1.stream with
  | some t => match t.run with
    | .mbarAgain m sync => if m == n && !(b1.mbar n).streamSide then b1.streamArrive n sync now else b1
    | _ => b1
  | none => b1

/-- Byte offset of lane l of entry e of channel c (R173). -/
def chanOffset (size c e l : Nat) : Nat := size - 8192 + 512 * c + 128 * e + 4 * l

/-- The value of a vector code of a waiting part (R198). A control word reads no latch (R177), so what
codes 240-243 supply is not given: a free value (log 9). -/
def partVec (w : Wave) (now k code l : Nat) : Word :=
  if code < 240 then vLane w.v code l
  else if code < 244 then Config.freeWord (128 * now + 32 * (code - 240) + l)
  else match code with
    | 245 => BitVec.ofNat 32 l
    | 246 => BitVec.ofNat 32 k
    | 247 => BitVec.ofNat 32 (32 * w.idx + l)
    | _ => 0

/-- Waves waiting as a whole to send on channel n: since when (R160, R199). A divergent wave began waiting when its last
part executed the word (DEDUCED, log 36). -/
def Block.senders (b : Block) (n : Nat) : List (Nat × Nat) :=
  b.waves.filterMap fun w =>
    if w.allParts fun p => match p.wait with
        | .chsend c _ _ => c == n
        | _ => false
    then some (w.parts.foldl (fun t e => match e.2.wait with
        | .chsend _ _ x => max t x
        | _ => t) 0, w.idx)
    else none

/-- Waves waiting as a whole to receive on channel n. -/
def Block.receivers (b : Block) (n : Nat) : List (Nat × Nat) :=
  b.waves.filterMap fun w =>
    if w.allParts fun p => match p.wait with
        | .chrecv c _ _ _ => c == n
        | _ => false
    then some (w.parts.foldl (fun t e => match e.2.wait with
        | .chrecv _ _ _ x => max t x
        | _ => t) 0, w.idx)
    else none

/-- The earliest waiter, the lower index first among equals (R199). -/
def earliest : List (Nat × Nat) → Option Nat
  | [] => none
  | (t, i) :: r =>
    match r.foldl (fun (best : Nat × Nat) e => if e.1 < best.1 || (e.1 == best.1 && e.2 < best.2) then e else best) (t, i) with
    | (_, j) => some j

/-- CHSEND takes place: one entry is appended with its mask and slots (R173, R198). -/
def Block.doSend (b : Block) (n i now : Nat) : Block :=
  match b.wave? i with
  | none => b
  | some w =>
    let ch := b.chan n
    let e := (ch.head + ch.masks.length) % 4
    let mask := w.parts.foldl (fun m p => m ||| p.2.mask) 0
    let val (l : Nat) : Word :=
      match w.parts.find? fun p => p.2.mask.getLsbD l with
      | some (k, p) => match p.wait with
        | .chsend _ code _ => partVec w now k code.toNat l
        | _ => 0
      | none => 0
    let bytes := (List.range 32).flatMap fun l => leBytes 4 (val l).toNat
    let b1 := b.bmemWrite (chanOffset b.decl.bmem n e 0) bytes
    (b1.setChan n { ch with masks := ch.masks ++ [mask] }).updWave i fun w => w.mapParts Part.past

/-- CHSEND takes place once the stores and atomics of the wave are done: it is a release at block scope (R198, R213). -/
def Block.sendNow (b : Block) (n i now : Nat) : Block :=
  if (b.wave? i).any Wave.storesQueued then b else b.doSend n i now

/-- CHRECV takes place: with an entry, or without one (R174, R198). -/
def Block.doRecv (b : Block) (n i now : Nat) : Block :=
  match b.wave? i with
  | none => b
  | some w =>
    let ch := b.chan n
    let entry := ch.masks.head?
    let step (w : Wave) (e : Nat × Part) : Wave :=
      match e.2.wait with
      | .chrecv _ d p _ =>
        let bits : Mask := match entry with
          | some m => m
          | none => 0
        let w1 := w.setP p.toNat (blend e.2.mask (w.getP p.toNat) bits)
        let w2 := w1.setV d.toNat (e.2.mask &&& bits) fun l =>
          BitVec.ofNat 32 (leNat (b.bmemRun (chanOffset b.decl.bmem n ch.head l) 4))
        if entry.isSome then w2.addPend { noRegs with v := [d.toNat], p := [p.toNat] } (now + 20) else w2
      | _ => w
    let w3 := (w.parts.foldl step w).mapParts Part.past
    let b1 := b.updWave i fun _ => w3
    match entry with
    | some _ => b1.setChan n { ch with head := (ch.head + 1) % 4, masks := ch.masks.tail }
    | none => b1

/-- Every other wave of the block has exited (R174). -/
def Block.aloneLive (b : Block) (i : Nat) : Bool := b.waves.all fun w => w.idx == i || !w.live

/-- One channel operation that the state of channel n allows (R174, R199). -/
def Block.serveChan (b : Block) (n now : Nat) : Block :=
  let ch := b.chan n
  match earliest (b.receivers n) with
  | some i =>
    if !ch.masks.isEmpty then b.doRecv n i now
    else if ch.closed || b.aloneLive i then b.doRecv n i now
    else
      match earliest (b.senders n) with
      | some j => b.sendNow n j now
      | none => b
  | none =>
    match earliest (b.senders n) with
    | some j =>
      if ch.closed then
        -- every waiting sender traps, the record naming the lowest wave (R174, R331)
        (b.senders n).foldl (fun b e => b.takeTrap now e.2 (match b.wave? e.2 with
          | some w => match w.parts.head? with
            | some e => position e.2.pc e.2.word
            | none => 0
          | none => 0) { cause := causeInstr, opcode := 0x7D }) b
      else if ch.masks.length < 4 then b.sendNow n j now
      else b
    | none => b

/-- A part that waits where R171 counts it as stuck: among the channel waits, a CHSEND on a full channel and a
CHRECV on an empty open one. -/
def Block.partStuck (b : Block) (p : Part) : Bool := match p.wait with
  | .reconv => true
  | .room => true
  | .bar _ _ => true
  | .barPhase _ _ => true
  | .chsend c _ _ => decide ((b.chan c).masks.length ≥ 4)
  | .chrecv c _ _ _ => (b.chan c).masks.isEmpty && !(b.chan c).closed
  | _ => false

/-- A wave is stuck (R171): each of its splits waits so, and the deferred path waits or is not offered
because they do. -/
def Block.waveStuck (b : Block) (w : Wave) : Bool :=
  w.run == .running && !w.parts.isEmpty && w.splits.all fun o => match o with
    | some p => b.partStuck p
    | none => true

/-- A deferred path that may run makes its wave not stuck when no split is ready: it is then offered. -/
def Block.deferredRuns (b : Block) (w : Wave) : Bool := match w.deferred with
  | some p => !b.partStuck p
  | none => false

/-- Note since when every live wave of the block is stuck (R171). -/
def Block.noteStuck (b : Block) (now : Nat) : Block :=
  let all := !b.liveWaves.isEmpty && b.halt.isNone && b.liveWaves.all fun w => b.waveStuck w && !b.deferredRuns w
  { b with stuckSince := if all then some (b.stuckSince.getD now) else none }

/-- A BRC that waits for room issues again once an entry or the deferred path is free (R156). -/
def Block.giveRoom (b : Block) : Block :=
  { b with waves := b.waves.map fun w =>
      if w.freeEntry.isSome || w.deferred.isNone then
        w.mapParts fun p => if p.wait == .room then { p with wait := .none } else p
      else w }

/-- One round of everything that waiting parts of a block allow. -/
def Block.settleOnce (b : Block) (now : Nat) : Block :=
  if b.halt.isSome then b
  else
    let b1 := (b.mergeOne now).giveRoom
    let b2 := (List.range 16).foldl (fun b n => b.waves.foldl (fun b w => match b.wave? w.idx with
      | some w => b.arriveBar n w
      | none => b) b) b1
    let b3 := (List.range 16).foldl (fun b n => b.completeBar n) b2
    let b4 := (List.range 16).foldl (fun b n => (b.completeMbar n now).retryMbar n now) b3
    (List.range 16).foldl (fun b n => b.serveChan n now) b4

/-- Rounds until nothing more can happen: two for each wave are enough. -/
def Block.settleN (now : Nat) : Nat → Block → Block
  | 0, b => b
  | n + 1, b => Block.settleN now n (b.settleOnce now)

/-- Does anything in the block wait on something that `settleOnce` could bring about: a part, the stream, or a
phase of a matrix barrier in which one side has arrived? -/
def Block.anyWait (b : Block) : Bool :=
  b.mbars.any (fun e => e.2.waveSide || e.2.streamSide) || b.waves.any (fun w => w.parts.any fun e => e.2.wait != .none) || (match b.stream with
    | some t => t.run != .running && t.run != .ended
    | none => false)

/-- The block after everything its waiting parts allow has taken place. -/
def Block.settle (b : Block) (now : Nat) : Block :=
  if b.anyWait then (Block.settleN now (2 * b.waves.length + 2) b).noteStuck now
  else { b with stuckSince := none }

/-- The phase of a set (R195). -/
def Launch.phase (l : Launch) (x : Nat) : SetPhase :=
  ((l.phases.find? fun e => e.1 == x).map (·.2)).getD { phase := 0, arrived := [] }

/-- Waves of a block that have arrived at set x in its phase. -/
def Block.gsyncOf (b : Block) (x : Nat) : List Nat := ((b.gsync.find? fun e => e.1 == x).map (·.2)).getD []

/-- Sets that parts of the block wait at. -/
def Block.waitedSets (b : Block) : List Nat :=
  (b.waves.flatMap fun w => w.parts.filterMap fun e => match e.2.wait with
    | .gsync x => some x
    | .gsyncPhase x _ => some x
    | _ => none).eraseDups

/-- A wave whose every part waits at GSYNC x arrives (R160, R195). -/
def Block.arriveSet (x phase : Nat) (b : Block) (w : Wave) : Block :=
  let here := w.allParts fun p => match p.wait with
    | .gsync m => m == x
    | _ => false
  if here && !(b.gsyncOf x).contains w.idx then
    { b with gsync := (x, w.idx :: b.gsyncOf x) :: b.gsync.filter fun e => e.1 != x }.updWave w.idx fun w =>
      w.mapParts fun p => { p with wait := .gsyncPhase x phase }
  else b

/-- Once every wave that has not exited has arrived, the block's arrival waits in a store queue until it may
leave the core (R21, R195). -/
def Block.sendSet (x now : Nat) (sent : Bool) (b : Block) : Block :=
  let queued := b.waves.any fun w => w.sq.any fun e => e.2 == .gsync x
  match b.gsyncOf x, b.liveWaves with
  | _ :: _, w :: _ =>
    if sent || queued || !(b.liveWaves.all fun w => (b.gsyncOf x).contains w.idx) then b
    else b.updWave w.idx fun w => { w with sq := w.sq ++ [(now, .gsync x)] }
  | _, _ => b

/-- Waves that wait for a phase of set x that has passed go on; a parked wave finds that out when it is restored
(R195, R201). -/
def Block.passSets (x phase : Nat) (b : Block) : Block :=
  { b with waves := b.waves.map fun w => if !w.present then w else w.mapParts fun p => match p.wait with
    | .gsyncPhase y ph => if y == x && ph != phase then p.past else p
    | _ => p }

/-- The arrivals at set x that a block's waiting waves allow. -/
def Block.settleSet (l : Launch) (now x : Nat) (b : Block) : Block :=
  ((b.waves.foldl (fun b w => match b.wave? w.idx with
    | some w => b.arriveSet x (l.phase x).phase w
    | none => b) (b.passSets x (l.phase x).phase))).sendSet x now ((l.phase x).arrived.contains b.index)

/-- Block `u` after its arrivals at sets. -/
def State.settleSets (s : State) (u : Nat) : State :=
  match s.block? u with
  | none => s
  | some b =>
    if b.halt.isSome || b.waitedSets.isEmpty then s
    else match s.launch? b.launch with
      | none => s
      | some l => s.updBlock u fun b => b.waitedSets.foldl (fun b x => b.settleSet l s.now x) b

/-- Settle block `u`. -/
def State.settle (s : State) (u : Nat) : State := (s.updBlock u fun b => b.settle s.now).settleSets u

end Sys2Proof.Machine
end

