-- ==== Sys2Proof/Machine/Control.lean ====
section
/-! DEFINITION. Branches, ends, sleeps, service calls, barriers, channels and extension words (08,
R177-R199; XP and XC: 02, R41-R46; STEP: 14, R344). -/

namespace Sys2Proof.Machine

open Sys2Proof

/-- Checks of a control word: no extension (R177). -/
def formCtl (op : Nat) (fieldsOk operandsOk : Bool) (reads : Regs) (_ : Cur) : Form :=
  { opcode := op, fieldsOk := fieldsOk, xc := xcNone, operandsOk := operandsOk, reads := reads,
    writes := noRegs, lat := 0 }

/-- The part moved to an address. -/
def Part.goto (p : Part) (pc : Addr) : Part := { p with pc := pc, word := 0, wait := .none }

/-- The part stays at the word that issues, waiting. -/
def Part.stay (p : Part) (c : Cur) (x : PartWait) : Part :=
  { p with pc := c.iss.pc, word := c.startWord, wait := x }

/-- The control word ends its clause with the issuing part replaced (R32, R177). -/
def endWith (s : State) (c : Cur) (p : Part) : State :=
  endClause s c (c.wv.setPart c.iss.part (some p))

/-- The target of a branch: header address + 4 × offset (R37, R179). -/
def Cur.target (c : Cur) (off : BitVec 18) : Addr := c.iss.pc + ((off.signExtend 64) <<< 2)

/-- BRA's condition: the lead lane's bit (R179, R180). -/
def Cur.leadCond (c : Cur) (p : BitVec 4) (g : Bool) : Bool :=
  (c.wv.getP p.toNat).getLsbD c.lead != g

/-- BRA (R180). -/
def execBra (p : BitVec 4) (g : Bool) (off : BitVec 18) (s : State) : Out :=
  runWord s (formCtl 0x7C true true { noRegs with p := [p.toNat] }) fun c _ =>
    .next (endWith s c (c.pt.goto (if c.leadCond p g then c.target off else c.nextPc)))

/-- A part other than `k` that waits at X with the same stack (R182). -/
def Wave.joiner (w : Wave) (k : Nat) (x : Addr) (stack : List (BitVec 64)) : Option (Nat × Part) :=
  w.parts.find? fun e => e.1 != k && e.2.waitsAt x && e.2.stack == stack

/-- Does the header at X have RECONV set (R182)? -/
def reconvAt (s : State) (c : Cur) (x : Addr) : Bool :=
  match s.fetch32 c.iss.core c.blk.ctx x with
  | .ok h => h.getLsbD 17
  | _ => false

/-- A divergent BRC that no joining rule resolves: a free entry, the deferred path, or a wait (R156). -/
def diverge (s : State) (c : Cur) (taken : Mask) (x : Addr) : Out :=
  let k := c.iss.part
  let rest := c.pt.mask &&& ~~~taken
  match c.wv.freeEntry with
  | some e =>
    let w := (c.wv.setPart e (some { c.pt.goto x with mask := taken })).setPart k
      (some { c.pt.goto c.nextPc with mask := rest })
    .next (endClause s c w)
  | none =>
    if c.wv.deferred.isNone then
      let w := (c.wv.setPart 4 (some { c.pt.goto c.nextPc with mask := rest })).setPart k
        (some { c.pt.goto x with mask := taken })
      .next (endClause s c w)
    else
      .next ((endWith s c (c.pt.stay c .room)).settle c.blk.uid)

/-- BRC (R181): uniform, joined to a waiting part (R182), or divergent (R156). Where its target is its own next clause and
the split's reconvergence point too, the taken lanes join the part that waits there and the others go on in their split
(DESIGN CHOICE, log 50: R182 has no other lanes with an address of their own then). -/
def execBrc (p : BitVec 4) (g : Bool) (off : BitVec 18) (s : State) : Out :=
  runWord s (formCtl 0x7C true true { noRegs with p := [p.toNat] }) fun c _ =>
    let cond := if g then ~~~(c.wv.getP p.toNat) else c.wv.getP p.toNat
    let taken := c.liveMask &&& cond
    let rest := c.liveMask &&& ~~~cond
    let x := c.target off
    if taken = 0 then .next (endWith s c (c.pt.goto c.nextPc))
    else if rest = 0 then .next (endWith s c (c.pt.goto x))
    else
      let k := c.iss.part
      -- lanes that go to the split's ρ, and where the others go
      let toRho : Option (Mask × Addr × Mask × Addr) :=
        if c.pt.rho == 0 then none
        else if x == c.pt.rho then some (taken, x, rest, c.nextPc)
        else if c.nextPc == c.pt.rho then some (rest, c.nextPc, taken, x) else none
      match toRho with
      | none => diverge s c taken x
      | some (q, at_, others, go) =>
        match (if reconvAt s c at_ then c.wv.joiner k at_ c.pt.stack else none) with
        | none => diverge s c taken x
        | some (e, r) =>
          let w := (c.wv.setPart e (some { r with mask := r.mask ||| q })).setPart k
            (some { c.pt.goto go with mask := others })
          .next (endClause s c w)

/-- The trap of a push on a full stack, or of a bad RET (R156, R180, R183). -/
def stackFault (s : State) (c : Cur) (op : Nat) : Out :=
  .next (takeTrap s c { cause := causeInstr, opcode := op })

/-- CALL (R179, R180). -/
def execCall (p : BitVec 4) (g : Bool) (off : BitVec 18) (s : State) : Out :=
  runWord s (formCtl 0x7C true true { noRegs with p := [p.toNat] }) fun c _ =>
    if !c.leadCond p g then .next (endWith s c (c.pt.goto c.nextPc))
    else if c.pt.stack.length ≥ 16 then stackFault s c 0x7C
    else .next (endWith s c { c.pt.goto (c.target off) with stack := retEntry c.nextPc :: c.pt.stack })

/-- RCV (R156, R179). -/
def execRcv (off : BitVec 18) (s : State) : Out :=
  runWord s (formCtl 0x7C true true noRegs) fun c _ =>
    if c.pt.stack.length ≥ 16 then stackFault s c 0x7C
    else .next (endWith s c
      { c.pt.goto c.nextPc with stack := reconvEntry c.pt.rho :: c.pt.stack, rho := c.target off })

/-- NOP (R186). -/
def execNop (s : State) : Out :=
  runWord s (formCtl 0x7D true true noRegs) fun c _ => .next (endWith s c (c.pt.goto c.nextPc))

/-- RET (R183). -/
def execRet (s : State) : Out :=
  runWord s (formCtl 0x7D true true noRegs) fun c _ =>
    match c.pt.stack with
    | [] => stackFault s c 0x7D
    | e :: t =>
      if isReconv e then stackFault s c 0x7D
      else .next (endWith s c { c.pt.goto (entryAddr e) with stack := t })

/-- EXIT (R187): the lanes of the split end, and with the last part the wave. -/
def execExit (s : State) : Out :=
  runWord s (formCtl 0x7D true true noRegs) fun c _ =>
    let w := ({ c.wv.setPart c.iss.part none with exitedLanes := c.wv.exitedLanes ||| c.liveMask }).tidy
    .next ((endClause s c w).settle c.blk.uid)

/-- YIELD (R11, R186). -/
def execYield (s : State) : Out :=
  runWord s (formCtl 0x7D true true noRegs) fun c _ =>
    .next (endClause s c
      { c.wv.setPart c.iss.part (some (c.pt.goto c.nextPc)) with yielded := if c.iss.mix then 3 else 2 })

/-- TRAP (R189): the wave stops and waits until it can be parked; a context without frames halts the
block (R332). The requesting part will resume at the next clause. -/
def execTrap (code : BitVec 16) (s : State) : Out :=
  runWord s (formCtl 0x7D true true noRegs) fun c _ =>
    match s.ctx? c.blk.ctx with
    | none => .next (takeTrap s c { cause := causeProt, reason := 8, opcode := 0x7D })
    | some x =>
      if x.frames = 0 then .next (takeTrap s c { cause := causeProt, reason := 12, opcode := 0x7D })
      else
        let w := c.wv.setPart c.iss.part (some (c.pt.stay c .none))
        .next (endClause s c
          { w with run := .trapping c.iss.part code c.liveMask c.wv.dead s.now false })

/-- BKPT (R192): the block halts; it will resume at the next clause. -/
def execBkpt (code : BitVec 16) (s : State) : Out :=
  runWord s (formCtl 0x7D true true noRegs) fun c _ =>
    .next (takeTrapAt s c { cause := 12, opcode := 0x7D, code := code } fun p =>
      if c.blk.halt.isSome then c.stand p else p.goto c.nextPc)

/-- BAR (R193): the part waits until its whole wave has arrived (R160); an arrival releases at block
scope, which a block's own memory and L1 need no action for (R194, R213). -/
def execBar (b : BitVec 4) (ao : Bool) (s : State) : Out :=
  runWord s (formCtl 0x7D true true noRegs) fun c _ =>
    if c.wv.storesQueued || c.wv.acqPending then .next (holdSlot s)
    else .next ((endWith s c (c.pt.stay c (.bar b.toNat ao))).settle c.blk.uid)

/-- Is a block index a member of set `x` (R301)? -/
def setMember (l : Launch) (x idx : Nat) : Bool :=
  (l.sets.getD x []).any fun r => decide (r.1 ≤ idx) && decide (idx < r.1 + r.2)

/-- GSYNC (R169, R195): checked against the class and the set; then waits. -/
def execGsync (x : BitVec 8) (s : State) : Out :=
  runWord s (formCtl 0x7D true true noRegs) fun c _ =>
    match s.launch? c.blk.launch with
    | none => .next (takeTrap s c { cause := causeWait, opcode := 0x7D })
    | some l =>
      if c.blk.decl.cls != 0 || x.toNat ≥ l.sets.length || !setMember l x.toNat c.blk.index then
        .next (takeTrap s c { cause := causeWait, opcode := 0x7D })
      else
        let s1 := endWith s c (c.pt.stay c (.gsync x.toNat))
        .next (s1.settle c.blk.uid)

/-- MBAR (R196): mode 0 waits, 1 arrives, 2 does both; mode 3 is illegal. -/
def execMbar (b : BitVec 4) (m : BitVec 2) (s : State) : Out :=
  runWord s (formCtl 0x7D (m != 3) true noRegs) fun c _ =>
    let n := b.toNat
    if m == 0 then
      let ph := (c.blk.mbar n).phase
      .next ((endWith s c (c.pt.stay c (.mbar n ph))).settle c.blk.uid)
    else if c.wv.storesQueued || c.wv.acqPending then .next (holdSlot s)
    else
      let s1 := endWith s c (c.pt.stay c .none)
      .next ((s1.updBlock c.blk.uid fun b => b.waveArrive n c.iss.wave c.iss.part (m == 2)).settle c.blk.uid)

/-- A WAITV compare (R51, R197). -/
def waitCmp (k : Nat) (m v : Word) : Bool :=
  match k with
  | 0 => m == v
  | 1 => m != v
  | 2 => decide (m.toNat ≥ v.toNat)
  | 3 => decide (m.toNat < v.toNat)
  | 4 => decide (m.toInt ≥ v.toInt)
  | _ => decide (m.toInt < v.toInt)

/-- The waits that R169 forbids: waiter class against writer class. -/
def waitForbidden (cls writer : Nat) : Bool :=
  match cls with
  | 0 => writer == 2
  | 1 => writer == 2
  | _ => writer == 0 || writer == 1

/-- A byte at the point of coherence as a wave sees it: its own queued stores, its core's dirty L1
bytes, then memory; none where that is uncorrectable (R197, R218, R449). -/
def seenByte (s : State) (b : Block) (w : Wave) (va : Addr) (below : Byte) : Option Byte :=
  match sqByte w va with
  | some x => some x
  | none => s.ownByte b.core b.ctx va below

/-- A word made of four bytes as the wave sees them. -/
def seenWord (s : State) (b : Block) (w : Wave) (va : Addr) (bs : List Byte) : Option Word :=
  (allBytes ((List.range 4).map fun i => seenByte s b w (va + BitVec.ofNat 64 i) (bs.getD i 0))).map fun l =>
    BitVec.ofNat 32 (leNat l)

/-- The word that WAITV reads: the block's own memory, or the point of coherence (R197). None when it
lies on another device and its answer is still to come; an abort is the flag. -/
def waitRead (s : State) (b : Block) (w : Wave) (addr : Addr) : Option Word × Bool :=
  if inAperture addr then (some (BitVec.ofNat 32 (leNat (b.bmemRun (apOffset addr) 4))), false)
  else
    match s.translate b.core b.ctx { r := true } addr with
    | .ok t =>
      match t.space with
      | .here => let m := seenWord s b w addr (s.memRun t.pa 4)
        if s.isBad t.pa 4 then (none, true) else (m, m.isNone)
      | .host => let m := seenWord s b w addr (getRun 0 s.hostMem t.pa 4)
        (m, m.isNone)
      | .remote _ _ => (none, false)
    | .abort => (none, true)
    | _ => (none, false)

/-- The scope at which the read that satisfies a WAITV acquires: fabric when the page's remote bit is
set (R197). -/
def waitScope (s : State) (b : Block) (addr : Addr) : Nat :=
  if inAperture addr then 2
  else
    match s.translate b.core b.ctx { r := true } addr with
    | .ok t => if t.space == .here then 2 else 3
    | _ => 2

/-- A WAITV that will read again by a cycle, or sooner when the home L2 of its line reports a write (R197). -/
def State.watch (s : State) (b : Block) (a : Await) (next : Nat) : Await :=
  let line : Option Nat := if inAperture a.addr then none
    else match s.translate b.core b.ctx { r := true } a.addr with
      | .ok t => if t.space == .here then some (t.pa / 128) else none
      | _ => none
  { a with next := next, line := line, seen := s.lineStamp (line.getD 0) }

/-- Checks and registers of WAITV. -/
def formWaitv (n : BitVec 5) (k w : BitVec 3) (v : BitVec 8) (c : Cur) : Form :=
  formCtl 0x7D (decide (k.toNat ≤ 5) && decide (w.toNat ≤ 4))
       (c.sregsOk (2 * n.toNat) 2 2 && c.sregsOk v.toNat 1 1)
       { noRegs with s := [2 * n.toNat, 2 * n.toNat + 1, v.toNat] } c
/-- WAITV (R197): class check, address check, then the first read. -/
def execWaitv (n : BitVec 5) (k w : BitVec 3) (v : BitVec 8) (s : State) : Out :=
  runWord s (formWaitv n k w v) fun c _ =>
    let addr := c.wv.getS64 (2 * n.toNat)
    if waitForbidden c.blk.decl.cls w.toNat then .next (takeTrap s c { cause := causeWait, opcode := 0x7D })
    else if c.wv.acqPending then .next (holdSlot s)
    else
      match addrFault s c.iss.core c.blk.ctx c.blk.decl.bmem 0x7D { r := true } 4 c.liveMask (fun _ => addr) with
      | some t => .next (takeTrap s c t)
      | none =>
        let r := waitRead s c.blk c.wv addr
        if r.2 then
          .next (((endClause (s.withhold (some c.blk.ctx)) c
            (c.wv.setPart c.iss.part (some (c.pt.goto c.nextPc)))).killLanes
            c.blk.uid c.iss.wave c.liveMask).settle c.blk.uid)
        else
          let a : Await :=
            { part := c.iss.part, addr := addr, cmp := k, val := c.wv.getS v.toNat,
              pos := position c.iss.pc c.startWord, since := s.now, next := 0, line := none, seen := 0, asked := none }
          match r.1 with
          | some m =>
            if waitCmp k.toNat m (c.wv.getS v.toNat) then
              .next (endWith (s.acquireCaches c.iss.core c.blk.ctx (waitScope s c.blk addr)) c (c.pt.goto c.nextPc))
            else
              .next (endClause s c { c.wv.setPart c.iss.part (some (c.pt.stay c .none)) with
                run := .waitv (s.watch c.blk a (s.coreCycles c.iss.core + 4096)) })
          | none =>
            .next (endClause s c { c.wv.setPart c.iss.part (some (c.pt.stay c .none)) with
              run := .waitv (s.watch c.blk a (s.coreCycles c.iss.core)) })

/-- Checks and registers of STEP. -/
def formStep (n : BitVec 19) (c : Cur) : Form :=
  formCtl 0x7D (decide (n.toNat ≥ c.wv.step.toNat) && decide (c.wv.parts.length = 1) &&
       c.wv.deferred.isNone) true noRegs c
/-- STEP (R344, R345): records n; while its launch is cut the wave is held. -/
def execStep (n : BitVec 19) (s : State) : Out :=
  runWord s (formStep n) fun c _ =>
    let cutting := match s.launch? c.blk.launch with
      | some l => l.cut.isSome
      | none => false
    .next (endClause s c { c.wv.setPart c.iss.part (some (c.pt.goto c.nextPc)) with
      step := n.zeroExtend 32, run := if cutting then .held s.now else c.wv.run })

/-- A channel word needs at least 8 KiB of block memory (R173). -/
def Cur.chanOk (c : Cur) : Bool := decide (c.blk.decl.bmem ≥ 8192)

/-- Checks and registers of CHSEND. -/
def formChsend (d : BitVec 8) (c : Cur) : Form :=
  formCtl 0x7D c.chanOk (c.srcOk d.toNat) { noRegs with v := srcRegs d.toNat 1 } c
/-- CHSEND (R174, R198): waits until the whole wave has executed it, then sends. -/
def execChsend (ch : BitVec 4) (d : BitVec 8) (s : State) : Out :=
  runWord s (formChsend d) fun c _ =>
    if c.wv.storesQueued || c.wv.acqPending then .next (holdSlot s)
    else if (c.blk.chan ch.toNat).closed then .next (takeTrap s c { cause := causeInstr, opcode := 0x7D })
    else .next ((endWith s c (c.pt.stay c (.chsend ch.toNat d s.now))).settle c.blk.uid)

/-- Checks and registers of CHRECV. -/
def formChrecv (d : BitVec 8) (p : BitVec 4) (c : Cur) : Form :=
  { formCtl 0x7D c.chanOk (c.vregsOk d.toNat 1 1) noRegs c with
       writes := { noRegs with v := [d.toNat], p := [p.toNat] } }
/-- CHRECV (R174, R198). -/
def execChrecv (ch : BitVec 4) (d : BitVec 8) (p : BitVec 4) (s : State) : Out :=
  runWord s (formChrecv d p) fun c _ =>
    .next ((endWith s c (c.pt.stay c (.chrecv ch.toNat d p s.now))).settle c.blk.uid)

/-- Checks and registers of CHCLOSE. -/
def formChclose (c : Cur) : Form :=
  formCtl 0x7D c.chanOk true noRegs c
/-- CHCLOSE (R174, R198). -/
def execChclose (ch : BitVec 4) (s : State) : Out :=
  runWord s formChclose fun c _ =>
    let s1 := s.updBlock c.blk.uid fun b => b.setChan ch.toNat { b.chan ch.toNat with closed := true }
    .next ((endWith s1 c (c.pt.goto c.nextPc)).settle c.blk.uid)

/-- SLEEP (R188). -/
def execSleep (n : BitVec 19) (s : State) : Out :=
  runWord s (formCtl 0x7D true true noRegs) fun c _ =>
    let w := c.wv.setPart c.iss.part (some (c.pt.goto c.nextPc))
    .next (endClause s c (if n = 0 then w else { w with run := .sleeping (s.coreCycles c.iss.core + n.toNat) }))

/-- Checks and registers of BRX. -/
def formBrx (n : BitVec 5) (c : Cur) : Form :=
  formCtl 0x7D true (c.sregsOk (2 * n.toNat) 2 2)
       { noRegs with s := [2 * n.toNat, 2 * n.toNat + 1] } c
/-- BRX (R184). -/
def execBrx (n : BitVec 5) (call : Bool) (s : State) : Out :=
  runWord s (formBrx n) fun c _ =>
    let x := c.wv.getS64 (2 * n.toNat)
    let tgt := x &&& ~~~(3 : Addr)
    if call && decide (c.pt.stack.length ≥ 16) then stackFault s c 0x7D
    else if !canonical x then
      .next (takeTrap s c { cause := causeProt, reason := 11, opcode := 0x7D, addr := x, mask := c.liveMask })
    else .next (endWith s c { c.pt.goto tgt with
      stack := if call then retEntry c.nextPc :: c.pt.stack else c.pt.stack })

/-- Classes that accept neither extension: FRG and CTL (R44, R46). -/
def noExtension (op : Nat) : Bool :=
  (decide (0x58 ≤ op) && decide (op ≤ 0x5D)) || op == 0x7C || op == 0x7D

/-- The opcode of the instruction that the extension at word k extends (R46). -/
def extended (s : State) (c : Cur) : Nat → Nat → Option Nat
  | 0, _ => none
  | n + 1, k =>
    match s.fetch32 c.iss.core c.blk.ctx (c.iss.pc + BitVec.ofNat 64 (4 * k)) with
    | .ok w =>
      let op := (w.extractLsb' 25 7).toNat
      if op ≥ 0x7E then extended s c n (k + 1) else some op
    | _ => none

/-- An extension word issues: it is kept for the instruction it extends, whose position it becomes
(R41, R43, R46, R334). -/
def takeExtension (s : State) (c : Cur) (op : Nat) (f : Issue → Issue) : Out :=
  match extended s c 2 (c.iss.k + 1) with
  | some o =>
    if c.wv.run != .running then .next (holdSlot s)
    else if noExtension o then .next (takeTrap s c { cause := causeInstr, opcode := op })
    else
      let i := { f c.iss with k := c.iss.k + 1, ext := some c.startWord }
      .next ((({ s with issues := s.issues.tail ++ [i] }).updWave c.blk.uid c.iss.wave
        fun w => countSkid c.blk w).tick)
  | none =>
    if c.wv.run != .running then .next (holdSlot s)
    else .next (takeTrap s c { cause := causeInstr, opcode := op })

/-- XP (R41). -/
def execXp (a : BitVec 3) (ka : BitVec 5) (b : BitVec 3) (kb : BitVec 5) (d : BitVec 3) (kd : BitVec 5)
    (s : State) : Out :=
  match s.cur? with
  | none => .fault .noIssuingWave
  | some c => takeExtension s c 0x7E fun i =>
      { i with xp := some ((0x7E : BitVec 7) ++ a ++ ka ++ b ++ kb ++ d ++ kd ++ (0 : BitVec 1)) }

/-- XC (R43). -/
def execXc (p : BitVec 4) (g : Bool) (x : BitVec 8) (r : BitVec 3) (sat : Bool) (n : BitVec 3) (im : BitVec 5)
    (s : State) : Out :=
  match s.cur? with
  | none => .fault .noIssuingWave
  | some c => takeExtension s c 0x7F fun i =>
      { i with xc := some ((0x7F : BitVec 7) ++ p ++ BitVec.ofBool g ++ x ++ r ++ BitVec.ofBool sat ++ n ++ im) }

/-- A word whose bits are no instruction reaches issue (R33, R35). -/
def execUndefinedOpcode (w : BitVec 32) (s : State) : Out :=
  match s.cur? with
  | none => .fault .noIssuingWave
  | some c =>
    if c.wv.run != .running then .next (holdSlot s)
    else .next (takeTrap s c { cause := causeInstr, opcode := (w.extractLsb' 25 7).toNat })

end Sys2Proof.Machine
end

