-- ==== Sys2Proof/Machine/Collective.lean ====
section
/-! DEFINITION. What the Mantle computes, apart from any state: the aligned-integer reduction (R84, R85,
R421), pixels and their merges (R402, R404), encoded tiles (R403), regions of the binary swap (R405) and
parts of a ring (R390, R406). -/

namespace Sys2Proof.Machine

open Sys2Proof

/-- Format of a reduction's elements: FMT 0 FP32, 1 BF16 (R390). -/
def redFmt (fmt : Nat) : Fmt := if fmt = 1 then fmtBF16 else fmtFP32

/-- Bytes of an element (R390). -/
def elemSize (fmt : Nat) : Nat := match fmt with
  | 0 => 4
  | 1 => 2
  | _ => 1

/-- First element of part p of `count` elements over n ranks (R390, R406). -/
def partLo (count n p : Nat) : Nat := p * count / n

/-- Elements of part p. -/
def partLen (count n p : Nat) : Nat := partLo count n (p + 1) - partLo count n p

/-- floor(log2 |x|) + 256 of a finite nonzero value, else 0 (R84, R421): a finite term counts though another rank's term
of the element is a NaN or infinite (DEDUCED, log 33). -/
def emaxCode : Num → Nat
  | .fin _ m e => if m = 0 then 0 else ((m.log2 : Int) + e + 256).toNat
  | _ => 0

/-- Code of a block of 32 positions. -/
def blockCode (xs : List Num) : Nat := xs.foldl (fun k x => max k (emaxCode x)) 0

/-- ceil(log2 n) (R84). -/
def ceilLog2 (n : Nat) : Nat := if n ≤ 1 then 0 else (n - 1).log2 + 1

/-- The codes that stand for a NaN and the infinities in a 48-bit value, below every sum (log 33). -/
def qNan : Int := -(2 ^ 47)
/-- Plus infinity. -/
def qPosInf : Int := -(2 ^ 47) + 1
/-- Minus infinity. -/
def qNegInf : Int := -(2 ^ 47) + 2

/-- An element's q under a block's code (R84). -/
def qOf (h code : Nat) : Num → Int
  | .nan _ => qNan
  | .inf n => if n then qNegInf else qPosInf
  | .fin n m e =>
    if m = 0 || code = 0 then 0
    else (roundInt .rn n m (e + 46 - h - ((code : Int) - 256))).1

/-- Sum of two q values, the special codes as R84 gives. -/
def qAdd (a b : Int) : Int :=
  let special (x : Int) : Bool := x == qNan || x == qPosInf || x == qNegInf
  if special a then
    if special b && a != b then qNan else a
  else if special b then b
  else a + b

/-- The result of a sum (R84): bits in the format, and whether it saturated. -/
def qResult (fmt h code : Nat) (q : Int) : Nat × Bool :=
  let f := redFmt fmt
  if q = qNan then (f.nanBits, false)
  else if q = qPosInf then (f.infBits, false)
  else if q = qNegInf then (f.infBits + f.signBits true, false)
  else if q = 0 then (0, false)
  else
    let neg := decide (q < 0)
    let r := (roundMag f .rn false neg q.natAbs 1 ((code : Int) - 256 - 46 + h)).1
    if r % 2 ^ f.signPos = f.infBits then (f.maxBits + f.signBits neg, true) else (r, false)

/-- 48-bit two's complement in 6 little-endian bytes (R421). -/
def qBytes (q : Int) : List Byte :=
  (List.range 6).map fun i => BitVec.ofNat 8 ((BitVec.ofInt 48 q).toNat / 256 ^ i)

/-- The number in 6 such bytes. -/
def qRead (bs : List Byte) : Int :=
  (BitVec.ofNat 48 ((bs.take 6).foldr (fun b n => b.toNat + 256 * n) 0)).toInt

/-- A pixel: depth or sample count, and R, G, B, A (R402). -/
structure Pixel where
  d : Word
  c : List (BitVec 16)
  deriving DecidableEq, Repr

/-- The background pixel (R402); mode 2 is COUNT. -/
def background (mode : Nat) : Pixel := { d := if mode = 2 then 0 else 0x7F800000, c := [0, 0, 0, 0] }

/-- FP16 value of bits. -/
def f16 (w : BitVec 16) : Num := unpack fmtFP16 w.toNat

/-- An exact value delivered in FP16 (R404). -/
def toF16 (x : Num) : BitVec 16 := BitVec.ofNat 16 (deliver fmtFP16 .rn false x).1

/-- One colour element under ALPHA: c_F + (1 − α_F) × c_B (R404). -/
def alphaElem (alpha cf cb : BitVec 16) : BitVec 16 :=
  let one : Num := .fin false 1 0
  let t := ((exactSum .rn [one, (f16 alpha).negate]).1).mul (f16 cb)
  toF16 (exactSum .rn [f16 cf, t]).1

/-- One colour element under COUNT: the weighted mean (R404). -/
def countElem (nf nb : Num) (cf cb : BitVec 16) : BitVec 16 :=
  let num := (exactSum .rn [nf.mul (f16 cf), nb.mul (f16 cb)]).1
  match num, (exactSum .rn [nf, nb]).1 with
  | .fin n m e, .fin k d g =>
    if m = 0 || d = 0 then 0 else BitVec.ofNat 16 (roundMag fmtFP16 .rn false (n != k) m d (e - g)).1
  | .inf n, .fin k _ _ => toF16 (.inf (n != k))
  | _, _ => 0x7E00

/-- Is the depth of F before B's (R404)? -/
def frontWins (a b : Word) : Bool :=
  match (f32 a).isNaN, (f32 b).isNaN with
  | true, true => true
  | true, false => false
  | false, true => true
  | false, false => decide (orderKey a ≤ orderKey b)

/-- Is a value finite? -/
def Num.isFin : Num → Bool
  | .fin _ _ _ => true
  | _ => false

/-- F over B (R404). -/
def mergePixel (mode : Nat) (f b : Pixel) : Pixel :=
  let cf (k : Nat) : BitVec 16 := f.c.getD k 0
  let cb (k : Nat) : BitVec 16 := b.c.getD k 0
  match mode with
  | 0 => if frontWins f.d b.d then f else b
  | 1 => { d := (fminmax false f.d b.d).1, c := (List.range 4).map fun k => alphaElem (cf 3) (cf k) (cb k) }
  | _ =>
    let nf := f32 f.d
    let nb := f32 b.d
    let n := (sum32 .rn [nf, nb]).1
    if !(nf.isFin && nb.isFin) then { d := n, c := [0x7E00, 0x7E00, 0x7E00, 0x7E00] }
    else if n.toNat % 2 ^ 31 = 0 then background 2
    else { d := n, c := (List.range 4).map fun k => countElem nf nb (cf k) (cb k) }

/-- The 12 bytes of a pixel (R402). -/
def pixelBytes (p : Pixel) : List Byte :=
  (List.range 4).map (fun i => p.d.extractLsb' (8 * i) 8) ++
    p.c.flatMap fun x => [x.extractLsb' 0 8, x.extractLsb' 8 8]

/-- A pixel from 12 bytes. -/
def readPixel (bs : List Byte) : Pixel :=
  let b (i : Nat) : Byte := bs.getD i 0
  { d := b 3 ++ b 2 ++ b 1 ++ b 0, c := (List.range 4).map fun k => b (5 + 2 * k) ++ b (4 + 2 * k) }

/-- A tile: 16 pixels (R402). -/
abbrev Tile := List Pixel

/-- A tile from 192 bytes. -/
def readTile (bs : List Byte) : Tile := (List.range 16).map fun i => readPixel ((bs.drop (12 * i)).take 12)

/-- A tile of background. -/
def blankTile (mode : Nat) : Tile := List.replicate 16 (background mode)

/-- F over B, pixel by pixel. -/
def mergeTile (mode : Nat) (f b : Tile) : Tile := (f.zip b).map fun e => mergePixel mode e.1 e.2

/-- The 32-bit little-endian header of an encoded tile (R403). -/
def tileHeader (enc idx : Nat) : List Byte :=
  (List.range 4).map fun i => (BitVec.ofNat 32 (enc * 2 ^ 30 + idx)).extractLsb' (8 * i) 8

/-- A tile encoded by the first rule that applies (R403). -/
def encodeTile (mode idx : Nat) (t : Tile) : List Byte :=
  let bg := background mode
  let listed := (t.zipIdx).filter fun e => e.1 != bg
  match t with
  | [] => tileHeader 0 idx
  | p :: _ =>
    if listed.isEmpty then tileHeader 0 idx
    else if t.all fun q => q == p then tileHeader 1 idx ++ pixelBytes p
    else if listed.length ≤ 15 then
      let mask := listed.foldl (fun m e => m + 2 ^ e.2) 0
      tileHeader 2 idx ++ [BitVec.ofNat 8 mask, BitVec.ofNat 8 (mask / 256), 0, 0] ++
        listed.flatMap fun e => pixelBytes e.1
    else tileHeader 3 idx ++ t.flatMap pixelBytes

/-- The pixels that a mask lists, the others background, from the bytes that follow. -/
def maskedTile (mode mask : Nat) : Nat → List Byte → Tile
  | 0, _ => []
  | n + 1, bs =>
    if mask.testBit (15 - n) then readPixel (bs.take 12) :: maskedTile mode mask n (bs.drop 12)
    else background mode :: maskedTile mode mask n bs

/-- Set bits of a 16-bit mask. -/
def maskCount (mask : Nat) : Nat := ((List.range 16).filter fun i => mask.testBit i).length

/-- One encoded tile at the head of a chunk (R403): its index, the tile unless it is dropped, and the rest. -/
def decodeTile (mode : Nat) (bs : List Byte) : Nat × Option Tile × List Byte :=
  let b (i : Nat) : Nat := (bs.getD i 0).toNat
  let h := b 0 + 256 * b 1 + 65536 * b 2 + 16777216 * b 3
  let idx := h % 2 ^ 30
  let mask := b 4 + 256 * b 5
  let size := match h / 2 ^ 30 with
    | 0 => 4
    | 1 => 16
    | 2 => 8 + 12 * maskCount mask
    | _ => 196
  if bs.length < size then (idx, none, [])
  else
    let rest := bs.drop size
    match h / 2 ^ 30 with
    | 0 => (idx, some (blankTile mode), rest)
    | 1 => (idx, some (List.replicate 16 (readPixel (bs.drop 4))), rest)
    | 2 => if mask = 0 || mask = 65535 || b 6 != 0 || b 7 != 0 then (idx, none, rest)
      else (idx, some (maskedTile mode mask 16 (bs.drop 8)), rest)
    | _ => (idx, some (readTile (bs.drop 4)), rest)

/-- Every encoded tile of a chunk, with fuel: index and tile. -/
def decodeTiles (mode : Nat) : Nat → List Byte → List (Nat × Option Tile)
  | 0, _ => []
  | n + 1, bs =>
    if bs.isEmpty then []
    else
      let r := decodeTile mode bs
      (r.1, r.2.1) :: decodeTiles mode n r.2.2

/-- A rectangle of tiles: left, top, width, height. -/
structure Region where
  x : Nat
  y : Nat
  w : Nat
  h : Nat
  deriving DecidableEq, Repr

/-- Tile indices of a region of an image `width` tiles wide, ascending. -/
def Region.tiles (r : Region) (width : Nat) : List Nat :=
  (List.range r.h).flatMap fun j => (List.range r.w).map fun i => (r.y + j) * width + r.x + i

/-- The two halves of a region in round j (R405): kept by the lower partner, and by the upper. -/
def splitRegion (j : Nat) (r : Region) : Region × Region :=
  if r.w * r.h ≤ 1 then (r, { r with w := 0, h := 0 })
  else if (j % 2 = 1 && decide (r.w > 1)) || r.h ≤ 1 then
    let k := (r.w + 1) / 2
    ({ r with w := k }, { r with x := r.x + k, w := r.w - k })
  else
    let k := (r.h + 1) / 2
    ({ r with h := k }, { r with y := r.y + k, h := r.h - k })

/-- The region of a rank before round j (R405). -/
def regionOf (rank : Nat) (whole : Region) : Nat → Region
  | 0 => whole
  | j + 1 =>
    let p := splitRegion (j + 1) (regionOf rank whole j)
    if rank.testBit j then p.2 else p.1

/-- Lists of bytes gathered into chunks of at most `cap` bytes, none of them cut (R420), each with whether it
is INCOMPLETE: a chunk is when one of its lists is. -/
def packChunks (cap : Nat) (cur : List Byte × Bool) : List (List Byte × Bool) → List (List Byte × Bool)
  | [] => if cur.1.isEmpty then [] else [cur]
  | x :: t => if cur.1.length + x.1.length ≤ cap then packChunks cap (cur.1 ++ x.1, cur.2 || x.2) t
    else cur :: packChunks cap x t

/-- A run of bytes cut into chunks of `cap`, with fuel. -/
def cutChunks (cap : Nat) : Nat → List Byte → List (List Byte)
  | 0, _ => []
  | n + 1, bs => if bs.isEmpty then [] else bs.take cap :: cutChunks cap n (bs.drop cap)

end Sys2Proof.Machine
end

