-- ==== Sys2Proof/Machine/Crypto.lean ====
section
/-! DEFINITION. AES-128-CMAC, the function that R380 names for the MAC of a grant token (NIST SP 800-38B
over the AES of FIPS 197; log 27), SHA-256, which R467 and
R468 name (FIPS 180-4; log 27), and the ECDSA P-256 of R467. -/

namespace Sys2Proof.Machine

open Sys2Proof

/-- Multiplication by x in GF(2^8) with the AES polynomial. -/
def gfDouble (a : Byte) : Byte := (a <<< 1) ^^^ (if a.msb then 0x1B else 0)

/-- Product in GF(2^8), `n` bits of `b` from the lowest. -/
def gfMul : Nat → Byte → Byte → Byte
  | 0, _, _ => 0
  | n + 1, a, b => (if b.getLsbD 0 then a else 0) ^^^ gfMul n (gfDouble a) (b >>> 1)

/-- Product in GF(2^8). -/
def gfTimes (a b : Byte) : Byte := gfMul 8 a b

/-- a^(2^n - 2) for n = 8 built from squares: the inverse, 0 for 0. -/
def gfInv (a : Byte) : Byte :=
  let a2 := gfTimes a a
  let a4 := gfTimes a2 a2
  let a8 := gfTimes a4 a4
  let a16 := gfTimes a8 a8
  let a32 := gfTimes a16 a16
  let a64 := gfTimes a32 a32
  let a128 := gfTimes a64 a64
  gfTimes a2 (gfTimes a4 (gfTimes a8 (gfTimes a16 (gfTimes a32 (gfTimes a64 a128)))))

/-- The AES substitution: inverse, then the affine map. -/
def aesSub (a : Byte) : Byte :=
  let i := gfInv a
  i ^^^ i.rotateLeft 1 ^^^ i.rotateLeft 2 ^^^ i.rotateLeft 3 ^^^ i.rotateLeft 4 ^^^ 0x63

/-- Bytes added in GF(2). -/
def xorBytes : List Byte → List Byte → List Byte
  | a :: s, b :: t => (a ^^^ b) :: xorBytes s t
  | _, _ => []

/-- The next round key from a round key of 16 bytes. -/
def nextKey (rcon : Byte) (k : List Byte) : List Byte :=
  let g (i : Nat) : Byte := k.getD i 0
  let t := [aesSub (g 13) ^^^ rcon, aesSub (g 14), aesSub (g 15), aesSub (g 12)]
  let w0 := xorBytes (k.take 4) t
  let w1 := xorBytes ((k.drop 4).take 4) w0
  let w2 := xorBytes ((k.drop 8).take 4) w1
  let w3 := xorBytes (k.drop 12) w2
  w0 ++ w1 ++ w2 ++ w3

/-- ShiftRows on a state held by columns. -/
def shiftRows (x : List Byte) : List Byte :=
  (List.range 16).map fun i => x.getD ((i + 4 * (i % 4)) % 16) 0

/-- MixColumns on one column. -/
def mixColumn (a b c d : Byte) : List Byte :=
  [gfDouble a ^^^ (gfDouble b ^^^ b) ^^^ c ^^^ d, a ^^^ gfDouble b ^^^ (gfDouble c ^^^ c) ^^^ d,
   a ^^^ b ^^^ gfDouble c ^^^ (gfDouble d ^^^ d), (gfDouble a ^^^ a) ^^^ b ^^^ c ^^^ gfDouble d]

/-- MixColumns. -/
def mixColumns : List Byte → List Byte
  | a :: b :: c :: d :: t => mixColumn a b c d ++ mixColumns t
  | _ => []

/-- Rounds of AES-128, the last without MixColumns. -/
def aesRounds : Nat → Byte → List Byte → List Byte → List Byte
  | 0, _, _, x => x
  | n + 1, rcon, k, x =>
    let k1 := nextKey rcon k
    let y := shiftRows (x.map aesSub)
    aesRounds n (gfDouble rcon) k1 (xorBytes (if n = 0 then y else mixColumns y) k1)

/-- AES-128 of one block. -/
def aes128 (key block : List Byte) : List Byte := aesRounds 10 1 key (xorBytes block key)

/-- A 16-byte string doubled in GF(2^128), first byte most significant. -/
def cmacDouble (x : List Byte) : List Byte :=
  let n := x.foldl (fun acc b => acc * 256 + b.toNat) 0
  let m := (2 * n) % 2 ^ 128
  let r := if n / 2 ^ 127 = 1 then m ^^^ 0x87 else m
  (List.range 16).map fun i => BitVec.ofNat 8 (r / 256 ^ (15 - i))

/-- CMAC of a message shorter than one block: padded with 0x80 and zeros under the second subkey. -/
def cmacShort (key msg : List Byte) : List Byte :=
  let l := aes128 key (List.replicate 16 0)
  let k2 := cmacDouble (cmacDouble l)
  let padded := msg ++ (0x80 : Byte) :: List.replicate (15 - msg.length) 0
  aes128 key (xorBytes padded k2)

/-- The 16 bytes of a key, most significant first. -/
def keyBytes (k : BitVec 128) : List Byte := (List.range 16).map fun i => k.extractLsb' (8 * (15 - i)) 8

/-- MAC of a token (R380): 24 bits, the first byte of the output highest. -/
def tokenMac (key : BitVec 128) (token : BitVec 64) (requester target ctx : Nat) : BitVec 24 :=
  let b (x : Nat) : Byte := BitVec.ofNat 8 x
  let msg := (List.range 5).map (fun i => token.extractLsb' (8 * i) 8) ++
    [b requester, b (requester / 256), b target, b (target / 256), b ctx]
  let o := cmacShort (keyBytes key) msg
  o.getD 0 0 ++ o.getD 1 0 ++ o.getD 2 0

/-! ### SHA-256 (R468; log 27) -/

/-- The round constants of FIPS 180-4. -/
def shaConstants : List Word :=
  [0x428A2F98, 0x71374491, 0xB5C0FBCF, 0xE9B5DBA5, 0x3956C25B, 0x59F111F1, 0x923F82A4, 0xAB1C5ED5] ++
  [0xD807AA98, 0x12835B01, 0x243185BE, 0x550C7DC3, 0x72BE5D74, 0x80DEB1FE, 0x9BDC06A7, 0xC19BF174] ++
  [0xE49B69C1, 0xEFBE4786, 0x0FC19DC6, 0x240CA1CC, 0x2DE92C6F, 0x4A7484AA, 0x5CB0A9DC, 0x76F988DA] ++
  [0x983E5152, 0xA831C66D, 0xB00327C8, 0xBF597FC7, 0xC6E00BF3, 0xD5A79147, 0x06CA6351, 0x14292967] ++
  [0x27B70A85, 0x2E1B2138, 0x4D2C6DFC, 0x53380D13, 0x650A7354, 0x766A0ABB, 0x81C2C92E, 0x92722C85] ++
  [0xA2BFE8A1, 0xA81A664B, 0xC24B8B70, 0xC76C51A3, 0xD192E819, 0xD6990624, 0xF40E3585, 0x106AA070] ++
  [0x19A4C116, 0x1E376C08, 0x2748774C, 0x34B0BCB5, 0x391C0CB3, 0x4ED8AA4A, 0x5B9CCA4F, 0x682E6FF3] ++
  [0x748F82EE, 0x78A5636F, 0x84C87814, 0x8CC70208, 0x90BEFFFA, 0xA4506CEB, 0xBEF9A3F7, 0xC67178F2]

/-- The initial hash value. -/
def shaInit : List Word :=
  [0x6A09E667, 0xBB67AE85, 0x3C6EF372, 0xA54FF53A, 0x510E527F, 0x9B05688C, 0x1F83D9AB, 0x5BE0CD19]

/-- The message schedule, newest word first: `n` more words. -/
def shaSchedule : Nat → List Word → List Word
  | 0, w => w
  | n + 1, w =>
    let g (i : Nat) : Word := w.getD i 0
    let s0 := (g 14).rotateRight 7 ^^^ (g 14).rotateRight 18 ^^^ g 14 >>> 3
    let s1 := (g 1).rotateRight 17 ^^^ (g 1).rotateRight 19 ^^^ g 1 >>> 10
    shaSchedule n ((g 15 + s0 + g 6 + s1) :: w)

/-- One round on the eight working words, with its constant and its schedule word. -/
def shaRound (x : List Word) (kw : Word × Word) : List Word := match x with
  | [a, b, c, d, e, f, g, h] =>
    let t1 := h + (e.rotateRight 6 ^^^ e.rotateRight 11 ^^^ e.rotateRight 25) + ((e &&& f) ^^^ (~~~e &&& g)) + kw.1 + kw.2
    let t2 := (a.rotateRight 2 ^^^ a.rotateRight 13 ^^^ a.rotateRight 22) + ((a &&& b) ^^^ (a &&& c) ^^^ (b &&& c))
    [t1 + t2, a, b, c, d + t1, e, f, g]
  | _ => x

/-- Four bytes as a word, the first most significant. -/
def bigWord (bs : List Byte) (k : Nat) : Word :=
  bs.getD (4 * k) 0 ++ bs.getD (4 * k + 1) 0 ++ bs.getD (4 * k + 2) 0 ++ bs.getD (4 * k + 3) 0

/-- One block of 64 bytes goes into the hash value. -/
def shaBlock (h : List Word) (block : List Byte) : List Word :=
  let w := (shaSchedule 48 ((List.range 16).reverse.map (bigWord block))).reverse
  let y := (shaConstants.zip w).foldl shaRound h
  (List.range 8).map fun i => h.getD i 0 + y.getD i 0

/-- The blocks of 64 bytes of a message, `n` of them. -/
def shaBlocks : Nat → List Byte → List Word → List Word
  | 0, _, h => h
  | n + 1, bs, h => shaBlocks n (bs.drop 64) (shaBlock h (bs.take 64))

/-- SHA-256 of a byte string: 32 bytes. -/
def sha256 (bs : List Byte) : List Byte :=
  let n := bs.length
  let blocks := (n + 72) / 64
  let bits := (List.range 8).map fun i => BitVec.ofNat 8 (8 * n / 256 ^ (7 - i))
  let padded := bs ++ (0x80 : Byte) :: List.replicate (64 * blocks - n - 9) 0 ++ bits
  (shaBlocks blocks padded shaInit).flatMap fun w => (List.range 4).map fun i => w.extractLsb' (8 * (3 - i)) 8

/-! ### ECDSA P-256 (R467), by FIPS 186 (PRESUMED, log 21) -/

/-- The prime of the curve's field. -/
def p256 : Nat := 2 ^ 256 - 2 ^ 224 + 2 ^ 192 + 2 ^ 96 - 1
/-- The order of the base point. -/
def p256Order : Nat := 0xFFFFFFFF00000000FFFFFFFFFFFFFFFFBCE6FAADA7179E84F3B9CAC2FC632551
/-- The curve is y² = x³ − 3 x + b. -/
def p256B : Nat := 0x5AC635D8AA3A93E7B3EBBD55769886BC651D06B0CC53B0F63BCE3C3E27D2604B
/-- The base point. -/
def p256Base : Nat × Nat :=
  (0x6B17D1F2E12C4247F8BCE6E563A440F277037D812DEB33A0F4A13945D898C296,
   0x4FE342E2FE1A7F9B8EE7EB4A7C0F9E162BCE33576B315ECECBB6406837BF51F5)

/-- A power modulo m, of an exponent of `n` bits. -/
def powMod (m : Nat) : Nat → Nat → Nat → Nat
  | 0, _, _ => 1
  | n + 1, a, e => powMod m n (a * a % m) (e / 2) * (if e % 2 = 1 then a else 1) % m

/-- The inverse modulo a prime of 256 bits. -/
def invMod (m a : Nat) : Nat := powMod m 256 (a % m) (m - 2)

/-- The sum of two points of the curve; none is the point at infinity. -/
def pointAdd : Option (Nat × Nat) → Option (Nat × Nat) → Option (Nat × Nat)
  | none, b => b
  | a, none => a
  | some (x, y), some (u, v) =>
    let slope : Option Nat :=
      if x ≠ u then some ((v + p256 - y) * invMod p256 (u + p256 - x) % p256)
      else if y = v ∧ y ≠ 0 then some ((3 * x * x + p256 - 3) * invMod p256 (2 * y) % p256)
      else none
    slope.map fun k =>
      let r := (k * k + 2 * p256 - x - u) % p256
      (r, (k * (x + p256 - r) + p256 - y) % p256)

/-- A multiple of a point, by a factor of `n` bits. -/
def pointMul : Nat → Nat → Option (Nat × Nat) → Option (Nat × Nat)
  | 0, _, _ => none
  | n + 1, k, a => pointAdd (pointMul n (k / 2) (pointAdd a a)) (if k % 2 = 1 then a else none)

/-- Is (r, s) a signature of the digest under the public key? -/
def ecdsaGood (key sig : Nat × Nat) (digest : Nat) : Bool :=
  let r := sig.1
  let s := sig.2
  let onCurve := decide (key.1 < p256) && decide (key.2 < p256) &&
    key.2 * key.2 % p256 == (key.1 * key.1 * key.1 + p256B + 3 * (p256 - key.1)) % p256
  let w := invMod p256Order s
  onCurve && decide (0 < r) && decide (r < p256Order) && decide (0 < s) && decide (s < p256Order) &&
    match pointAdd (pointMul 256 (digest * w % p256Order) (some p256Base)) (pointMul 256 (r * w % p256Order) (some key)) with
    | some q => q.1 % p256Order == r
    | none => false

/-- Bytes as a number, the first the most significant. -/
def bigNat (bs : List Byte) : Nat := bs.foldl (fun n b => 256 * n + b.toNat) 0

end Sys2Proof.Machine
end

