-- ==== Sys2Proof/Machine/Packet.lean ====
section
/-! DEFINITION. The launch packet's fields (R297) and the shapes of what the device writes for the host:
words, bytes and save areas (R175). -/

namespace Sys2Proof.Machine

open Sys2Proof

/-- Word `k` of a packet or record. -/
def pw (p : List Word) (k : Nat) : Word := p.getD k 0

/-- Bits [hi - 1 : lo] of word `k`. -/
def pf (p : List Word) (k lo n : Nat) : Nat := ((pw p k).extractLsb' lo n).toNat

/-- Words k, k + 1 as an address. -/
def pa64 (p : List Word) (k : Nat) : Addr := pw p (k + 1) ++ pw p k

/-- CTX. -/
def pktCtx (p : List Word) : Nat := pf p 1 26 6
/-- PRIO. -/
def pktPrio (p : List Word) : Nat := pf p 1 19 3
/-- CLASS. -/
def pktClass (p : List Word) : Nat := pf p 1 17 2
/-- IDEM. -/
def pktIdem (p : List Word) : Bool := (pw p 1).getLsbD 16
/-- FILLER. -/
def pktFiller (p : List Word) : Bool := (pw p 1).getLsbD 15
/-- RSV. -/
def pktRsv (p : List Word) : Bool := (pw p 1).getLsbD 14
/-- ROOM. -/
def pktRoom (p : List Word) : Bool := (pw p 1).getLsbD 13
/-- ENTRY. -/
def pktEntry (p : List Word) : Addr := pa64 p 2
/-- MSTREAM. -/
def pktStream (p : List Word) : Addr := pa64 p 4
/-- BLOCKS. -/
def pktBlocks (p : List Word) : Nat := (pw p 6).toNat
/-- WAVES. -/
def pktWaves (p : List Word) : Nat := pf p 7 0 6
/-- ARGS. -/
def pktArgs (p : List Word) : Addr := pa64 p 10
/-- SETS. -/
def pktSets (p : List Word) : Addr := pa64 p 12
/-- SETCOUNT. -/
def pktSetCount (p : List Word) : Nat := pf p 14 0 9
/-- Dependence j: whether it is present, its queue, its sequence number. -/
def pktDep (p : List Word) (j : Nat) : Bool × Nat × Word :=
  ((pw p (15 + 2 * j)).getLsbD 31, pf p (15 + 2 * j) 0 4, pw p (16 + 2 * j))
/-- WVALID. -/
def pktWait (p : List Word) : Bool := (pw p 20).getLsbD 31
/-- WCMP. -/
def pktCmp (p : List Word) : Nat := pf p 20 28 3
/-- WADDR. -/
def pktWaddr (p : List Word) : Addr := ((pw p 20).extractLsb' 0 23 ++ pw p 19 : BitVec 55).signExtend 64
/-- RSTEP. -/
def pktRstep (p : List Word) : Word := pw p 22
/-- DIES. -/
def pktDies (p : List Word) : BitVec 8 := (pw p 23).extractLsb' 0 8
/-- CREC without its flag. -/
def pktRec (p : List Word) : Addr := pa64 p 24 &&& ~~~(31 : Addr)
/-- IRQ. -/
def pktIrq (p : List Word) : Bool := (pw p 24).getLsbD 0

/-- The allocation that a packet declares (R153, R297). -/
def pktDecl (p : List Word) : Decl :=
  { vregs := pf p 8 24 8, sregs := pf p 8 14 10, tregs := pf p 8 8 6, awin := pf p 9 15 9, btiles := pf p 9 7 8,
    bmem := 4096 * pf p 9 24 8, waves := pktWaves p, producer := pf p 7 8 6, cls := pktClass p, prio := pktPrio p,
    filler := pktFiller p, idem := pktIdem p }

/-- A count that stays at 0xFFFFFFFF (R296). -/
def satInc (v : Word) : Word := if v = 0xFFFFFFFF#32 then v else v + 1

/-- A packet or a record of queue `q` is dropped (R296). -/
def State.dropPacket (s : State) (q : Nat) : State := s.updQueue q fun x => { x with drops := satInc x.drops }

/-- Low and high word of 64 bits. -/
def splitW (x : BitVec 64) : List Word := [x.extractLsb' 0 32, x.extractLsb' 32 32]

/-- The four bytes of a word, little-endian (R3). -/
def wordBytes (w : Word) : List Byte :=
  [w.extractLsb' 0 8, w.extractLsb' 8 8, w.extractLsb' 16 8, w.extractLsb' 24 8]

/-- Words as bytes. -/
def wordsBytes (ws : List Word) : List Byte := ws.flatMap wordBytes

/-- Bytes as words. -/
def bytesWords : List Byte → List Word
  | a :: b :: c :: d :: t => (d ++ c ++ b ++ a) :: bytesWords t
  | _ => []

/-- A list padded with a value to a length. -/
def padTo {α : Type} (d : α) (n : Nat) (l : List α) : List α := l ++ List.replicate (n - l.length) d

/-- KIND of a save area (R175). -/
inductive SaveKind where
  | parked
  | halted
  | saved
  deriving DecidableEq, Repr

/-- The code of a KIND. -/
def SaveKind.code : SaveKind → BitVec 2
  | .parked => 0
  | .halted => 1
  | .saved => 2

/-- A bit for each of the four splits. -/
def splitBits (f : Nat → Bool) : BitVec 4 :=
  BitVec.ofBool (f 3) ++ BitVec.ofBool (f 2) ++ BitVec.ofBool (f 1) ++ BitVec.ofBool (f 0)

/-- A test of a part that may be absent. -/
def Wave.partIs (w : Wave) (k : Nat) (f : Part → Bool) : Bool := match w.part? k with
  | some p => f p
  | none => false

/-- A part's field, or a default where the part is absent. -/
def Wave.partGet {α : Type} (w : Wave) (k : Nat) (d : α) (f : Part → α) : α := match w.part? k with
  | some p => f p
  | none => d

/-- STATE word of a save area (R175). -/
def Wave.stateWord (w : Wave) (kind : SaveKind) : Word :=
  let valid := splitBits fun k => (w.part? k).isSome
  let atRho := splitBits fun k => w.partIs k fun p => p.wait == .reconv
  let room := splitBits fun k => w.partIs k fun p => p.wait == .room
  (0 : BitVec 4) ++ BitVec.ofNat 4 (min 15 w.skid) ++ kind.code ++ BitVec.ofNat 5 w.idx ++ valid ++ atRho ++ room ++
    BitVec.ofBool w.deferred.isSome ++ BitVec.ofBool (w.partIs 4 fun p => p.wait == .reconv) ++ (0 : BitVec 3)

/-- Header and split table of a save area: its first 80 words (R175). -/
def Wave.saveHeader (w : Wave) (kind : SaveKind) (handle : BitVec 64) : List Word :=
  let mask (k : Nat) : Word := w.partGet k 0 fun p => p.mask
  let pc (k : Nat) : List Word := splitW (w.partGet k 0 fun p => position p.pc p.word)
  let rho (k : Nat) : List Word := splitW (w.partGet k 0 fun p => p.rho)
  let depth (k : Nat) : BitVec 8 := BitVec.ofNat 8 (w.partGet k 0 fun p => p.stack.length)
  padTo 0 64 ([1, w.stateWord kind, w.dead, w.flags.zeroExtend 32, mask 0, mask 1, mask 2, mask 3, mask 4, w.starve] ++
    pc 4 ++ rho 4 ++ [depth 3 ++ depth 2 ++ depth 1 ++ depth 0, (depth 4).zeroExtend 32, w.step, w.lastSeq] ++
    splitW handle) ++
  (List.range 4).flatMap fun k => pc k ++ rho k

/-- A wave's save area (R175). -/
def Wave.saveArea (w : Wave) (d : Decl) (kind : SaveKind) (handle : BitVec 64) : List Byte :=
  let v := (List.range (32 * d.vregs)).map fun i => getAt 0 w.v i
  let sr := (List.range d.sregs).map fun i => getAt 0 w.s i
  let p := (List.range 16).map fun i => w.getP i
  let stack (k : Nat) : List Word :=
    padTo 0 32 ((w.partGet k [] fun p => p.stack).reverse.flatMap splitW)
  wordsBytes (w.saveHeader kind handle ++ v ++ sr ++ p) ++ getRun 0 w.t 0 (512 * d.tregs) ++
    wordsBytes ((List.range 5).flatMap stack)

/-- Where the T registers and the stacks lie in a save area (R175). -/
def areaT (d : Decl) : Nat := 384 + 128 * d.vregs + 4 * d.sregs
/-- Where the stacks lie. -/
def areaK (d : Decl) : Nat := areaT d + 512 * d.tregs

/-- Word at byte offset `o` of an area. -/
def areaWord (a : List Byte) (o : Nat) : Word := (bytesWords ((a.drop o).take 4)).headD 0

/-- 64 bits at byte offset `o`. -/
def area64 (a : List Byte) (o : Nat) : BitVec 64 := areaWord a (o + 4) ++ areaWord a o

/-- Stack `k` of an area from the bottom, all 16 entries. -/
def areaStack (d : Decl) (a : List Byte) (k : Nat) : List (BitVec 64) :=
  (List.range 16).map fun e => area64 a (areaK d + 128 * k + 8 * e)

/-- Depth of stack `k`. -/
def areaDepth (a : List Byte) (k : Nat) : Nat := (a.getD (0x38 + k) 0).toNat

/-- Mask of split `k`, or of the deferred path for 4. -/
def areaMask (a : List Byte) (k : Nat) : Mask := areaWord a (0x10 + 4 * k)

/-- Masks that are pairwise disjoint and disjoint from `seen`. -/
def disjointFrom : Mask → List Mask → Bool
  | _, [] => true
  | seen, m :: t => m &&& seen == 0 && disjointFrom (seen ||| m) t

/-- The checks of a restore (R176). Stack entries above a depth, which R175 writes as zero, count as zero fields; HANDLE
of a KIND 01 or 10 area does not (DEDUCED, log 40). -/
def areaOk (d : Decl) (a : List Byte) : Bool :=
  let st := areaWord a 4
  areaWord a 0 == 1 && st.extractLsb' 28 4 == 0 && st.extractLsb' 0 3 == 0
  && (areaWord a 0xC).extractLsb' 6 26 == 0
  && ((a.drop 0x3D).take 3).all (fun b => b == 0) && ((a.drop 0x50).take 176).all (fun b => b == 0)
  && disjointFrom (areaWord a 8) ((List.range 5).map (areaMask a))
  && (List.range 5).all (fun k => decide (areaDepth a k ≤ 16))
  && (List.range 5).all fun k => (areaStack d a k).all (fun e => e.extractLsb' 55 8 == 0) &&
      ((areaStack d a k).drop (areaDepth a k)).all fun e => e == 0

/-- A STARVE value as a CSRW would clamp it (R164). -/
def clampStarve (x : Word) : Word := if x.toNat < 256 then 256 else if x.toNat > 65536 then 65536 else x

/-- Part `k` as an area describes it. A part that stays where it was keeps its wait (R201). A PC whose low two bits the
host has set is kept and fetched at as it stands (DESIGN CHOICE, log 50: R30 ignores the low bits of an entry or a BRX
target only, and the checks of R176 name no PC). -/
def areaPart (d : Decl) (a : List Byte) (w : Wave) (k : Nat) : Option Part :=
  let st := areaWord a 4
  let valid := if k < 4 then st.getLsbD (13 + k) else st.getLsbD 4
  let atRho := if k < 4 then st.getLsbD (9 + k) else st.getLsbD 3
  let room := k < 4 && st.getLsbD (5 + k)
  let pos := area64 a (if k < 4 then 0x100 + 16 * k else 0x28)
  let p : Part :=
    { pc := (pos.extractLsb' 0 55).signExtend 64, word := (pos.extractLsb' 60 4).toNat, mask := areaMask a k,
      rho := area64 a (if k < 4 then 0x108 + 16 * k else 0x30),
      stack := ((areaStack d a k).take (areaDepth a k)).reverse, wait := .none }
  let old : PartWait := match w.part? k with
    | some q => if q.pc == p.pc && q.word == p.word && q.wait != .reconv && q.wait != .room then q.wait else .none
    | none => .none
  if valid then some { p with wait := if atRho then .reconv else if room then .room else old } else none

/-- A wave restored from its save area (R176): the latches are zero as no clause issues, and the
starvation counter restarts. -/
def Wave.restore (w : Wave) (d : Decl) (a : List Byte) : Wave :=
  let masks := (List.range 5).foldl (fun m k => m ||| ((areaPart d a w k).map fun p => p.mask).getD 0) (0 : Mask)
  let dead := areaWord a 8
  let step := areaWord a 0x40
  ({ w with
    v := setRun 0 [] 0 (bytesWords ((a.drop 0x140).take (128 * d.vregs)))
    s := setRun 0 [] 0 (bytesWords ((a.drop (0x140 + 128 * d.vregs)).take (4 * d.sregs)))
    p := setRun 0 [] 0 ((bytesWords ((a.drop (0x140 + 128 * d.vregs + 4 * d.sregs)).take 64)).take 15)
    t := setRun 0 [] 0 ((a.drop (areaT d)).take (512 * d.tregs))
    splits := (List.range 4).map (areaPart d a w)
    deferred := areaPart d a w 4
    exitedLanes := ~~~(masks ||| dead)
    dead := dead
    flags := (areaWord a 0xC).extractLsb' 0 6
    starve := clampStarve (areaWord a 0x24)
    starveCnt := 0
    readySince := none
    promoted := none
    yielded := 0
    step := step
    lastSeq := areaWord a 0x44
    cycleHi := 0
    pend := []
    run := match w.run with
      | .held t => if w.step == step then .held t else .running
      | _ => .running
    args := none
    skid := 0
    faulted := none
    service := none } : Wave).tidy

/-- The host's answer to a service call (R191): V0-V3 of the requesting lanes that are not dead. -/
def Wave.takeArgs (w : Wave) (args : Option (Mask × List (Nat × List Word))) : Wave := match args with
  | none => w
  | some (m, slots) =>
    (List.range 4).foldl (fun w j => w.setV j (m &&& ~~~w.dead) fun l =>
      ((slots.find? fun e => e.1 == l).map fun e => e.2.getD j 0).getD 0) w

end Sys2Proof.Machine
end

