-- ==== Sys2Proof/Machine/Fabric.lean ====
section
/-! DEFINITION. The sending side of the Svacon fabric: the plane (R357-R359), routes and virtual channels
(R361-R363), link buffers (R367, R368), running totals (R370-R372) and remote requests (R373, R375,
R382). -/

namespace Sys2Proof.Machine

open Sys2Proof

/-- Coordinates of a device's point in the plane over GF(31) (R357). -/
def point (n : Nat) : Nat × Nat × Nat :=
  if n ≤ 960 then (n / 31, n % 31, 1) else if n ≤ 991 then (n - 961, 1, 0) else (1, 0, 0)

/-- p(m) · p(n) mod 31. -/
def pdot (m n : Nat) : Nat :=
  let a := point m
  let b := point n
  (a.1 * b.1 + a.2.1 * b.2.1 + a.2.2 * b.2.2) % 31

/-- Adjacent devices (R358). -/
def adjacent (m n : Nat) : Bool := m != n && pdot m n == 0

/-- Line of a device: the devices orthogonal to it, ascending (R359). -/
def lineOf (n : Nat) : List Nat := (List.range Config.nDevices).filter fun q => pdot n q == 0

/-- The neighbour that port k of device n leads to (R359): none for the port of an absolute device
that would lead to itself. -/
def neighbour (n k : Nat) : Option Nat := ((lineOf n)[k]?).bind fun q => if q = n then none else some q

/-- The port of device n that leads to device m. -/
def portTo (n m : Nat) : Nat := (lineOf n).idxOf m

/-- Limits of a port whose link has just trained (R368). -/
def freshLimits : List Nat := List.replicate 8 64

/-- A port that is down, as reset leaves it. -/
def Port.fresh (k : Nat) : Port :=
  { id := k, up := false, peer := 0, fenced := false, limits := freshLimits, outst := List.replicate 8 0,
    granted := freshLimits, newLimits := freshLimits, epoch := 0, stage := 0, roundAt := 0, lendAt := 0, applied := 0, lackSeen := 0,
    counts := List.replicate 8 0, owed := List.replicate 8 0, sendSeq := 0,
    expect := 0, replay := [], rx := [], tx := [] }

/-- Port `k`. -/
def State.port (s : State) (k : Nat) : Port := findD (fun p => p.id == k) (Port.fresh k) s.sv.ports

/-- Change port `k`. -/
def State.updPort (s : State) (k : Nat) (f : Port → Port) : State :=
  { s with sv := { s.sv with ports := upsert (fun p => p.id == k) (Port.fresh k) f s.sv.ports } }

/-- Advance a Svacon counter: 1-7 TOK.FAIL, 8 LATE.REPLY, 9 STALE.DROP, 10 BAD.FLIT, 11 CRC.REPLAY,
12 BAD.LINK, 13 UNREACH (R385). -/
def State.svCount (s : State) (k : Nat) : State :=
  { s with sv := { s.sv with counters := bump s.sv.counters k } }

/-- Flow class of running totals that has none: RSP (R370). -/
def clsRSP : Nat := 1

/-- Is a flit type a response (R366)? -/
def isResponse (t : Nat) : Bool := decide (8 ≤ t) && decide (t ≤ 12)

/-- Is a flit link-local (R366)? -/
def isLinkLocal (t : Nat) : Bool := t == 0 || t == 13 || t == 14

/-- The VC a flit travels on (R363). -/
def flitVc (f : Flit) : Nat := (if isResponse f.typ.toNat then 4 else 0) + f.hop.toNat

/-- VALID, PORT and MID of a router-table entry, and its ALTs (R361). -/
def rtValid (e : BitVec 128) : Bool := e.getLsbD 5
/-- PORT. -/
def rtPort (e : BitVec 128) : Nat := (e.extractLsb' 0 5).toNat
/-- ALTj. -/
def rtAlt (e : BitVec 128) (j : Nat) : Nat := (e.extractLsb' (16 + 10 * j) 10).toNat

/-- Router-table entry of a destination. -/
def State.route (s : State) (dst : Nat) : BitVec 128 := getAt 0 s.sv.router dst

/-- Free slots of a port on a VC (R368). -/
def Port.room (p : Port) (vc : Nat) : Nat := p.limits.getD vc 0 - p.outst.getD vc 0

/-- One step of the 16-bit Galois LFSR, mask 0xB400 (R309, R362). -/
def lfsrStep (x : BitVec 16) : BitVec 16 := (x >>> 1) ^^^ (if x.getLsbD 0 then 0xB400 else 0)

/-- Free slots of a port that is up; one that is down has none (R362; log 47). -/
def Port.free (p : Port) (vc : Nat) : Nat := if p.up then p.room vc else 0

/-- The intermediate device a packet takes (R362), with the router's LFSR after it. -/
def State.chooseVia (s : State) (dst vc : Nat) (totals : Bool) : Nat × State :=
  let e := s.route dst
  if totals || (s.port (rtPort e)).free vc ≥ 4 then (1023, s)
  else
    let x := lfsrStep s.sv.lfsr
    let s1 := { s with sv := { s.sv with lfsr := x } }
    let alt := rtAlt e (x.toNat % 8)
    if alt ≠ 1023 && decide ((s.port (rtPort (s.route alt))).free vc ≥ 4) then (alt, s1) else (1023, s1)

/-- The VC whose credits a port returns next, and how many (R365, R368). -/
def Port.credit (p : Port) : Nat × Nat :=
  match (List.range 8).find? fun v => decide (p.owed.getD v 0 > 0) with
  | some v => (v, min 127 (p.owed.getD v 0))
  | none => (0, 0)

/-- A flit leaves on a port: link sequence, credits, LEND epoch, replay buffer of 256 (R365-R368). -/
def Port.emit (p : Port) (f : Flit) : Port :=
  let c := p.credit
  let local_ := isLinkLocal f.typ.toNat
  let g : Flit :=
    { f with
      cvc := BitVec.ofNat 3 c.1, ccnt := BitVec.ofNat 7 c.2, lack := p.applied,
      lseq := if local_ then 0 else p.sendSeq }
  let p1 := { p with owed := updIdx c.1 (fun n => n - c.2) p.owed, tx := p.tx ++ [g] }
  if local_ then p1
  else
    { p1 with
      sendSeq := p.sendSeq + 1
      replay := (p.replay ++ [g]).drop ((p.replay.length + 1) - 256)
      outst := updIdx (flitVc f) (fun n => n + 1) p.outst }

/-! ### The flit on the wire -/

/-- One bit of the CRC-32 of IEEE 802.3, reflected (R365). -/
def crcBit (c : Word) : Word := (c >>> 1) ^^^ (if c.getLsbD 0 then 0xEDB88320 else 0)

/-- One byte. -/
def crcByte (c : Word) (b : Byte) : Word := (List.range 8).foldl (fun c _ => crcBit c) (c ^^^ b.zeroExtend 32)

/-- CRC-32 with the IEEE 802.3 polynomial (R365). -/
def crc32 (bs : List Byte) : Word := ~~~(bs.foldl crcByte 0xFFFFFFFF)

/-- The header of a flit as a number, with its CRC field (R365). -/
def flitHeader (f : Flit) (crc : Word) : BitVec 128 :=
  f.typ ++ f.hop ++ f.dst ++ f.src ++ f.via ++ f.tagIdx ++ f.tagGen ++ f.ctx ++ f.cls ++ f.cvc ++ f.ccnt ++ f.lack ++
    f.sec ++ BitVec.ofNat 7 f.payload.length ++ f.lseq ++ crc

/-- The 128 bytes of a flit with a given CRC field: the little-endian header, the payload, and zeros beyond PLEN (R365;
DESIGN CHOICE, log 52: the rule does not say what those bytes hold). -/
def flitImage (f : Flit) (crc : Word) : List Byte :=
  leBytes 16 (flitHeader f crc).toNat ++ (f.payload ++ List.replicate 112 (0 : Byte)).take 112

/-- The CRC of a flit, over all its bytes with the field taken as zero (R365). -/
def flitCrc (f : Flit) : Word := crc32 (flitImage f 0)

/-- A flit as a port sends it (R365). -/
def flitBytes (f : Flit) : List Byte := flitImage f (flitCrc f)

/-- What a receiver reads from 128 bytes (R365). -/
def readFlitBytes (bs : List Byte) : Flit × Word :=
  let h : BitVec 128 := BitVec.ofNat 128 ((bs.take 16).foldr (fun b n => b.toNat + 256 * n) 0)
  ({ typ := h.extractLsb' 124 4, hop := h.extractLsb' 122 2, dst := h.extractLsb' 112 10, src := h.extractLsb' 102 10,
     via := h.extractLsb' 92 10, tagIdx := h.extractLsb' 82 10, tagGen := h.extractLsb' 79 3, ctx := h.extractLsb' 73 6,
     cls := h.extractLsb' 66 7, cvc := h.extractLsb' 63 3, ccnt := h.extractLsb' 56 7, lack := h.extractLsb' 52 4,
     sec := h.extractLsb' 50 2, lseq := h.extractLsb' 32 11,
     payload := (bs.drop 16).take (h.extractLsb' 43 7).toNat }, h.extractLsb' 0 32)

/-- The flit that 128 received bytes carry, none when the CRC over those bytes, its own field (the first four) taken
as zero, fails (R365, R367): a failure is the event CRC_FAILURE. -/
def receiveBytes (bs : List Byte) : Option Flit :=
  let r := readFlitBytes bs
  if r.2 == crc32 (leBytes 4 0 ++ bs.drop 4) then some r.1 else none

/-! ### Running totals and sending -/

/-- Running totals of a peer and class before anything is exchanged (R370, R371): the limit is the
receiver's default (log 28). -/
def Totals.fresh (peer cls dflt : Nat) : Totals :=
  { peer := peer, cls := cls, sent := 0, freed := 0, limit := dflt, tseq := 0, lastApplied := none, peerFreed := 0,
    peerLimit := dflt, lastReported := 0, lastAt := none, changed := none, sent0 := 0, freed0 := 0 }

/-- The limit a class has by default: REQLIM, RECLIM, or that of a communicator's partition (R370, R398). -/
def State.classLimit (s : State) (cls : Nat) : Nat :=
  if cls = 0 then s.mgmt.reqLim
  else if cls = 2 then s.mgmt.recLim
  else match s.mantle.comms.find? fun c => c.id + 64 == cls with
    | some c => 256 * c.minChunks
    | none => 0

/-- Totals of a peer and class. -/
def State.totals (s : State) (peer cls : Nat) : Totals :=
  findD (fun t => t.peer == peer && t.cls == cls) (Totals.fresh peer cls (s.classLimit cls)) s.sv.totals

/-- Change the totals of a peer and class. -/
def State.updTotals (s : State) (peer cls : Nat) (f : Totals → Totals) : State :=
  { s with sv := { s.sv with
    totals := upsert (fun t => t.peer == peer && t.cls == cls) (Totals.fresh peer cls (s.classLimit cls)) f s.sv.totals } }

/-- The allowance of R372. -/
def Totals.allowance (t : Totals) : Int := (t.peerLimit : Int) - ((t.sent - t.peerFreed).toNat : Int)

/-- What becomes of a flit that this device tries to send. -/
inductive Sent where
  | gone (s : State) (via : BitVec 10)
  | waits (s : State)
  | unreachable (s : State)
  deriving DecidableEq, Repr

/-- The class that a packet's flits are counted in, when it goes on for longer than its own flits: the send stream
to a rank, the records to a device. -/
def Packet.longClass (dst : Nat) : Packet → Option (Nat × Nat)
  | .single _ => none
  | .stream id _ => some (dst, 64 + id)
  | .records dev => some (dev, 2)

/-- The path chosen for a packet that is under way: a stream's, or that of records to a device, while the peer has
not freed every flit sent to it, so that none overtakes another (R362, R413, R416; log 47). -/
def State.pathOf (s : State) (dst : Nat) (p : Packet) : Option Nat :=
  match s.sv.paths.find? fun e => e.1 == p with
  | none => none
  | some e => match p.longClass dst with
    | none => some e.2
    | some (peer, cls) => if (s.totals peer cls).sent == (s.totals peer cls).peerFreed then none else some e.2

/-- The path of a packet is chosen once (R362). -/
def State.takePath (s : State) (dst vc : Nat) (totals : Bool) (p : Packet) : Nat × State :=
  match s.pathOf dst p with
  | some v => (v, s)
  | none =>
    let v := s.chooseVia dst vc totals
    (v.1, { v.2 with sv := { v.2.sv with paths := (p, v.1) :: v.2.sv.paths.filter fun e => e.1 != p } })

/-- Send one flit towards its destination (R361-R363, R368, R372). -/
def State.trySend (s : State) (f : Flit) (p : Packet) : Sent :=
  let dst := f.dst.toNat
  let resp := isResponse f.typ.toNat
  if !rtValid (s.route dst) then .unreachable s
  else if !resp && decide ((s.totals dst f.cls.toNat).allowance < 1) then .waits s
  else
    let vc := if resp then 4 else 0
    let v := s.takePath dst vc (f.typ == 12) p
    let e := v.2.route (if v.1 = 1023 then dst else v.1)
    let k := rtPort e
    if !rtValid e || !(v.2.port k).up then
      .unreachable { v.2 with sv := { v.2.sv with paths := v.2.sv.paths.filter fun e => e.1 != p } }
    else if (v.2.port k).room vc = 0 || (v.2.port k).fenced then .waits v.2
    else
      let via := BitVec.ofNat 10 v.1
      let s1 := v.2.updPort k fun p => p.emit { f with via := via }
      .gone (if resp then s1 else s1.updTotals dst f.cls.toNat fun t =>
        { t with sent := t.sent + 1, changed := some (t.changed.getD s.svNow) }) via

/-- A free tag index for a target (R382). -/
def State.freeTag (s : State) (target : Nat) : Option Nat :=
  (List.range 1024).find? fun i =>
    !(s.sv.tags.any fun t => t.target == target && t.idx == i) &&
    !(s.sv.quarantine.any fun q => q.1 == target && q.2.1 == i)

/-- Do two requests name a common sector of one target (R375)? -/
def Request.clash (a b : Request) : Bool :=
  decide (a.sector < b.sector + b.count) && decide (b.sector < a.sector + a.count)

/-- Is a sector of a request to a target held by an outstanding request, or by one that timed out and
whose tag is in quarantine (R375)? -/
def State.sectorBusy (s : State) (target : Nat) (r : Request) : Bool :=
  (s.sv.tags.any fun t => t.target == target && t.req.clash r) ||
  (s.sv.quarantine.any fun q => q.1 == target && match q.2.2.2 with
    | some x => decide (r.sector ≤ x) && decide (x < r.sector + r.count)
    | none => false)

/-- The token that a request names, read as it is sent (R373, R381): none when it reads as uncorrectable. -/
def State.tokenOf (s : State) (ctx slot : Nat) : Option (BitVec 64) :=
  match s.ctx? ctx with
  | some x => if s.isBad (x.toktab.toNat + 8 * slot) 8 then none else some (s.mem64 (x.toktab.toNat + 8 * slot))
  | none => some 0

/-- A request that is ready to be sent but for its route and its allowance. -/
inductive Dressed where
  | waits
  | withheld
  | ready (f : Flit) (idx : Option Nat)
  deriving DecidableEq, Repr

/-- A request takes a tag, and its token is put in (R375, R381, R382). -/
def State.dress (s : State) (q : Queued) : Dressed :=
  match q.req with
  | none => .ready q.flit none
  | some r =>
    let dst := q.flit.dst.toNat
    if s.sectorBusy dst r then .waits
    else
      match s.freeTag dst with
      | none => .waits
      | some i =>
        let f : Flit := { q.flit with tagIdx := BitVec.ofNat 10 i, tagGen := getAt 0 s.sv.gens (1024 * dst + i) }
        match r.slot with
        | none => .ready f (some i)
        | some k => match s.tokenOf r.ctx k with
          | none => .withheld
          | some t => .ready { f with payload := leBytes 8 t.toNat ++ f.payload.drop 8 } (some i)

/-- A flit must wait behind another that has to wait: one of the same packet, or a request to the same sector
(R362, R375). -/
def Queued.behind (q : Queued) (kept : List Queued) : Bool :=
  kept.any fun k => k.packet == q.packet || (k.flit.dst == q.flit.dst && match k.req, q.req with
    | some x, some r => x.clash r
    | _, _ => false)

/-- A response that has waited 2^19 Svacon cycles for its first link is dropped (R384). -/
def State.stale (s : State) (q : Queued) : Bool := isResponse q.flit.typ.toNat && decide (q.since + 2 ^ 19 ≤ s.svNow)

/-- The tag of a request that has just been sent: a REC or COLL flit is over once the peer has freed it. -/
def State.noteTag (s : State) (f : Flit) (idx : Nat) (r : Request) : State :=
  let long := f.typ == 4 || f.typ == 5
  { s with sv := { s.sv with tags := s.sv.tags ++
      [{ target := f.dst.toNat, idx := idx, gen := f.tagGen, req := r, sent := s.svNow, got := [],
         mark := if long then some (f.cls.toNat, (s.totals f.dst.toNat f.cls.toNat).sent) else none }] } }

/-- One pass over the egress queue: each flit is sent or keeps its place. Requests that end here are returned for
their abort, with whether it is their token that was withheld (R363, R437). -/
def pumpList : List Queued → State → List Queued → List (Request × Bool) → State × List Queued × List (Request × Bool)
  | [], s, kept, dead => (s, kept, dead)
  | q :: t, s, kept, dead =>
    if s.stale q then pumpList t (s.svCount 9) kept dead
    else if q.behind kept then pumpList t s (kept ++ [q]) dead
    else
      match s.dress q with
      | .waits => pumpList t s (kept ++ [q]) dead
      | .withheld => pumpList t s kept (dead ++ (q.req.map fun r => (r, true)).toList)
      | .ready f idx =>
        match s.trySend f q.packet with
        | .unreachable s1 => pumpList t s1 kept (dead ++ (q.req.map fun r => (r, false)).toList)
        | .waits s1 => pumpList t s1 (kept ++ [q]) dead
        | .gone s1 _ => match q.req, idx with
          | some r, some i => pumpList t (s1.noteTag f i r) kept dead
          | _, _ => pumpList t s1 kept dead

/-- An aborted load's lanes: those that wait for the request (R235). -/
def LoadOp.lanesOf (l : LoadOp) (rid : Nat) : Mask :=
  l.waits.foldl (fun m e => if e.2.1 = rid then m ||| (1 : Mask) <<< e.1 else m) 0

/-- A sector of a copy has failed: the token's status counts it (R248, R251). -/
def State.failSector (s : State) (b k : Nat) : State :=
  s.updBlockAll b fun x =>
    let t := x.token k
    x.setToken k { t with abort := true, failed := min 65535 (t.failed + 1) }

/-- Change a copy of a core. -/
def State.updCopy (s : State) (core seq : Nat) (f : CopyJob → CopyJob) : State :=
  s.updCore core fun c => { c with copies := updFirst (fun j => j.seq == seq) f c.copies }

/-- A remote access of a copy has met an abort: a read fails its sector, a write fails the sector it
wrote (R248). -/
def State.abortCopy (s : State) (core seq : Nat) (r : Request) : State :=
  match (s.core core).copies.find? fun j => j.seq == seq with
  | none => s
  | some j =>
    if j.acks.any fun e => e.1 == r.rid then
      (s.failSector j.block j.token).updCopy core seq fun j => { j with acks := j.acks.filter fun x => x.1 != r.rid }
    else s.updCopy core seq fun j =>
      { j with
        asked := j.asked.filter fun x => x != r.rid
        got := j.got ++ (List.range r.count).map fun i => (r.dev, r.sector + i, []) }

/-- The bytes of a sector that the Mantle has asked for are here, or its read has met an abort. -/
def State.mantleAnswer (s : State) (rid : Nat) (bs : Option (List Byte)) : State :=
  { s with mantle := { s.mantle with reads := s.mantle.reads.map fun r => if r.rid = rid then { r with data := some bs } else r } }

/-- A write of the Mantle has been acknowledged, or has met an abort. -/
def State.mantlePosted (s : State) (rid : Nat) (ok : Bool) : State :=
  { s with mantle := { s.mantle with posts := s.mantle.posts.map fun p => if p.rid = rid then { p with done := some ok } else p } }

/-- A WAITV's read meets an abort: the lanes of its part are killed, and its wave waits no longer (R197, R437). -/
def State.waitAborted (s : State) (b wv : Nat) (a : Await) : State :=
  match (s.wave? b wv).bind fun w => w.part? a.part with
  | some p => ((s.updWave b wv fun w => { w with run := .running }).killLanes b wv p.mask).settle b
  | none => s

/-- A remote request ends with an abort: its lane is killed, its copy sector fails, its release is
satisfied (R161, R235, R248, R383). A posted store of an ended wave counts among the launch's faults. -/
def State.abortReq (s : State) (r : Request) : State :=
  match r.owner with
  | .load b wv =>
    match s.wave? b wv with
    | some w =>
      let m := w.loads.foldl (fun m l => m ||| l.lanesOf r.rid) 0
      ((s.updWaveAll b wv fun w => { w with loads := w.loads.map fun l =>
          { l with killed := l.killed ||| l.lanesOf r.rid, waits := l.waits.filter fun e => e.2.1 != r.rid } }).killLanes
        b wv m).settle b
    | none => s
  | .store b wv lane =>
    match s.block? b with
    | some blk =>
      match blk.wave? wv with
      | some w =>
        let s1 := s.updWaveAll b wv fun w => { w with acks := w.acks.filter fun e => e.1 != r.rid }
        if w.live then (s1.killLanes b wv ((1 : Mask) <<< lane)).settle b
        else s1.updLaunch blk.launch fun l => { l with faults := l.faults + 1 }
      | none => s
    | none => s
  | .atom b wv lane =>
    match s.wave? b wv with
    | some _ =>
      ((s.updWaveAll b wv fun w =>
        { w with
          loads := w.loads.map (fun l =>
            { l with killed := l.killed ||| l.lanesOf r.rid, waits := l.waits.filter fun e => e.2.1 != r.rid })
          acks := w.acks.filter fun e => e.1 != r.rid }).killLanes b wv ((1 : Mask) <<< lane)).settle b
    | none => s
  | .copy core seq => s.abortCopy core seq r
  | .waitv b wv =>
    match s.wave? b wv with
    | some w => match w.run with
      | .waitv a =>
        if a.asked != some r.rid then s else s.waitAborted b wv a
      | _ => s
    | none => s
  | .ray b wv lane =>
    let hit (o : RayOp) : RayOp := if o.asked.contains r.rid then
        { o with asked := o.asked.filter fun x => x != r.rid, killed := o.killed ||| (1 : Mask) <<< lane } else o
    s.updWaveAll b wv fun w => { w with rays := w.rays.map hit }
  | .code _ _ => s
  | .pref => s
  | .post b wv lane => if (s.block? b).isSome then (s.killLanes b wv ((1 : Mask) <<< lane)).settle b else s
  | .giveBack => s
  | .wait l => s.updLaunch l fun x =>
      if x.started || x.waitDone then x else { x with status := some (x.status.getD 4) }
  | .record q _ _ => s.dropPacket q
  | .coll _ => s
  | .evict _ => s
  | .mread => s.mantleAnswer r.rid none
  | .mput => s.mantlePosted r.rid false

end Sys2Proof.Machine
end

