-- ==== Sys2Proof/Machine/Memory.lean ====
section
/-! DEFINITION. Loads, stores, atomics, fences, drains and cache words (10, R229-R243), the tile loads
and stores (R143), the window words ALD and AST (R267), and the events by which their effects leave the
core, return or complete. -/

namespace Sys2Proof.Machine

open Sys2Proof

/-- The immediate of a format M word: imm3, or concat(IMMX, imm3), signed (R205). -/
def Cur.memImm (c : Cur) (i : BitVec 3) : Int := match c.iss.xc with
  | none => i.toInt
  | some x => (xcImm x ++ i).toInt

/-- A lane's address (R205): base, offset register scaled by the size, immediate scaled by the size. -/
def Cur.laneAddr (c : Cur) (n off size : Nat) (noOff : Bool) (imm : Int) (l : Nat) : Addr :=
  let o : Addr := if noOff then 0 else (c.vec false off l).zeroExtend 64
  c.wv.getS64 (2 * n) + BitVec.ofNat 64 size * o + BitVec.ofInt 64 (size * imm)

/-- Order of the word (R45): 0 RLX, 1 ACQ, 2 REL, 3 SC. -/
def Cur.order (c : Cur) : Nat := match c.iss.xc with
  | none => 0
  | some x => (x.extractLsb' 8 2).toNat

/-- Scope of the word (R45). -/
def Cur.scope (c : Cur) : BitVec 2 := match c.iss.xc with
  | none => 0
  | some x => x.extractLsb' 10 2

/-- The scope at which the word acquires, if it does (R219). -/
def Cur.acquires (c : Cur) : Option (BitVec 2) := if c.order % 2 = 1 then some c.scope else none

/-- The scope at which the word releases, if it does (R219). -/
def Cur.releases (c : Cur) : Option (BitVec 2) := if c.order ≥ 2 then some c.scope else none

/-- A vector code that a memory word may read: a register or a constant, no latch (R231). -/
def Cur.memSrcOk (c : Cur) (code : Nat) : Bool :=
  decide (code < c.blk.decl.vregs) || (decide (244 ≤ code) && decide (code < 248))

/-- What an XC may carry before a memory word (R230). -/
def xcMem (imm : Bool) (d : FieldKind) : XcRule := { memOrder := true, imm := imm, d := d }

/-- Checks and registers of LDB-LDQ and STB-STQ (R230, R231): `k` registers of data. -/
def formM (op size : Nat) (store : Bool) (d v : BitVec 8) (n : BitVec 5) (z : Bool) (c : Cur) : Form :=
  let k := max 1 (size / 4)
  let dataOk := if store && k == 1 then c.memSrcOk d.toNat else c.vregsOk d.toNat k k
  { opcode := op, fieldsOk := (!z || v == 0) && c.order != (if store then 1 else 2), xc := xcMem true .reg,
    operandsOk := dataOk && (z || c.memSrcOk v.toNat) && c.sregsOk (2 * n.toNat) 2 2,
    reads := { v := (if z then [] else srcRegs v.toNat 1) ++ (if store then srcRegs d.toNat k else []),
               s := [2 * n.toNat, 2 * n.toNat + 1], p := c.xcReads, t := [] },
    writes := if store then noRegs else { noRegs with v := List.range' d.toNat k }, lat := 0 }

/-- Do two byte ranges meet? -/
def rangesMeet (a : Addr) (n : Nat) (b : Addr) (m : Nat) : Bool :=
  decide ((b - a).toNat < n) || decide ((a - b).toNat < m)

/-- Does an address lie on another device's page? -/
def farAddr (s : State) (core ctx : Nat) (need : Need) (a : Addr) : Bool :=
  !inAperture a && match s.translate core ctx need a with
    | .ok t => (match t.space with
      | .remote _ _ => true
      | _ => false)
    | _ => false

/-- Bytes of a lane that the wave may not read yet: an atomic on them is outstanding (R215), a remote
store to them is not acknowledged (R212), or a remote read of their line is on its way (R218). -/
def laneBlocked (s : State) (c : Cur) (a : Addr) (size : Nat) : Bool :=
  let far := farAddr s c.iss.core c.blk.ctx { r := true } a
  (c.wv.sq.any fun e => match e.2 with
    | .atom _ _ _ lanes _ _ _ => lanes.any fun x => rangesMeet a size x.2.1 4
    | .store _ lanes _ _ => far && lanes.any fun x => rangesMeet a size x.2.1 x.2.2.length
    | _ => false)
  || (c.wv.atoms.any fun e => match e with
    | .atom _ _ _ lanes _ _ _ => lanes.any fun x => rangesMeet a size x.2.1 4
    | _ => false)
  || (c.wv.acks.any fun x => rangesMeet a size x.2.2.1 x.2.2.2)
  || (far && c.wv.loads.any fun l => l.waits.any fun x => match s.translate c.iss.core c.blk.ctx { r := true } a with
      | .ok t => decide (t.pa / 128 = x.2.2.1 / 128)
      | _ => false)

/-- The wave's earlier accesses are all performed, as an SC access needs (R222). -/
def Wave.quiet (w : Wave) : Bool :=
  w.sq.isEmpty && w.atoms.isEmpty && w.acks.isEmpty && w.loads.all fun l => l.waits.isEmpty

/-- A memory word waits: an acquire is outstanding, SC is asked for and an earlier access is not
performed, or a lane's bytes are not readable yet. -/
def memHolds (s : State) (c : Cur) (m : Mask) (addr : Nat → Addr) (size : Nat) (reads : Bool) : Bool :=
  c.wv.acqPending || (c.order == 3 && !c.wv.quiet) ||
    (reads && (lanesOf m).any fun l => laneBlocked s c (addr l) size)

/-- A load in progress: the state, the lanes' bytes, killed lanes, waits, remote lines asked for, and
the least latency (R29). -/
structure Loading where
  st : State
  data : List (Nat × List Byte)
  killed : Mask
  waits : List (Nat × Nat × Nat × Nat)
  /-- Device, line and request of each remote line this word has asked for. -/
  asked : List (Nat × Nat × Nat)
  lat : Nat
  deriving DecidableEq, Repr

/-- One lane of a load that reaches no other device. -/
def loadHere (c : Cur) (size l : Nat) (a : Addr) (t : Target) (x : Loading) : Loading :=
  let core := c.iss.core
  let hit := (x.st.l1Line core c.blk.ctx (a.toNat / 128)).isSome
  let s1 := ((x.st.fillTlb core c.blk.ctx a).fillRdc core t).fillLine core c.blk.ctx a t
  let bs := (List.range size).map fun i =>
    s1.loadByte core c.blk.ctx c.wv (a + BitVec.ofNat 64 i) { t with pa := t.pa + i }
  let lat := if hit then 24 else if t.space == .here && homeDie t.pa = dieOf core then 220 else 520
  match allBytes bs with
  | some d => { x with st := s1, data := x.data ++ [(l, d)], lat := max x.lat lat }
  | none => { x with st := s1.withhold (some c.blk.ctx), killed := x.killed ||| (1 : Mask) <<< l, lat := max x.lat lat }

/-- One lane of a load from another device: from the L1 or the RDC, when they hold it, else a READ, whose line both
then hold (R207, R209, R211, R373). -/
def loadFar (c : Cur) (size l : Nat) (a : Addr) (t : Target) (dev slot : Nat) (x : Loading) : Loading :=
  let core := c.iss.core
  let s0 := x.st.fillTlb core c.blk.ctx a
  let line := if t.policy = 2 then t.pa / 64 else t.pa / 128
  let held := s0.l1Line core c.blk.ctx (a.toNat / 128)
  let hit := held.isSome
  let lost := held.any fun ln => (List.range size).any fun i => ln.bad.getLsbD (a.toNat % 128 + i)
  if lost then { x with st := s0.withhold (some c.blk.ctx), killed := x.killed ||| (1 : Mask) <<< l }
  else match allBytes ((List.range size).map fun i =>
      s0.loadByte core c.blk.ctx c.wv (a + BitVec.ofNat 64 i) { t with pa := t.pa + i }) with
  | some d => { x with st := s0.fillLine core c.blk.ctx a t, data := x.data ++ [(l, d)], lat := max x.lat (if hit then 24 else 290) }
  | none =>
    match x.asked.find? fun e => e.1 == dev && e.2.1 == line with
    | some e => { x with st := s0, waits := x.waits ++ [(l, e.2.2, t.pa, size)] }
    | none =>
      let r := if t.policy = 2 then s0.remoteRead dev slot c.blk.ctx t.pa 1 none none (.load c.blk.uid c.iss.wave)
        else s0.remoteRead dev slot c.blk.ctx (line * 128) 2 (some (dieOf core, t.policy == 1))
          (some (core, a.toNat / 128)) (.load c.blk.uid c.iss.wave)
      { x with st := r.2, waits := x.waits ++ [(l, r.1, t.pa, size)], asked := x.asked ++ [(dev, line, r.1)] }

/-- One lane of a load. -/
def loadLane (c : Cur) (size : Nat) (addr : Nat → Addr) (x : Loading) (l : Nat) : Loading :=
  let a := addr l
  if inAperture a then { x with data := x.data ++ [(l, c.blk.bmemRun (apOffset a) size)] }
  else
    match x.st.translate c.iss.core c.blk.ctx { r := true } a with
    | .ok t =>
      match t.space with
      | .remote dev slot => loadFar c size l a t dev slot x
      | _ => loadHere c size l a t x
    | _ => { x with killed := x.killed ||| (1 : Mask) <<< l }

/-- Lanes whose page-table walk met an abort are killed at issue, whatever the access (R205, R235). -/
def killAborts (s : State) (c : Cur) (m : Mask) : State :=
  if m = 0 then s else ((s.withhold (some c.blk.ctx)).killLanes c.blk.uid c.iss.wave m).settle c.blk.uid

/-- A load issues: its lanes are read at once, or asked of another device, and its destinations stay
pending until LOAD_COMPLETE (R234, R235; log 5). `one` says that one access serves the whole wave: an
abort then kills every live lane of the split. -/
def issueLoad (s : State) (c : Cur) (f : Form) (m : Mask) (addr : Nat → Addr) (size : Nat) (one : Bool)
    (dest : LoadDest) : Out :=
  match addrFault s c.iss.core c.blk.ctx c.blk.decl.bmem f.opcode { r := true } size m addr with
  | some t => .next (takeTrap s c t)
  | none =>
    if memHolds s c m addr size true then .next (holdSlot s)
    else
      let ab := walkAborts s c.iss.core c.blk.ctx { r := true } m addr
      let run := m &&& ~~~ab
      let s0 := match c.acquires with
        | some sc => s.acquireCaches c.iss.core c.blk.ctx sc.toNat
        | none => s
      let x := (lanesOf run).foldl (loadLane c size addr)
        { st := s0, data := [], killed := 0, waits := [], asked := [],
          lat := match dest with
            | .tile _ => 30
            | _ => 20 }
      let all (k : Mask) : Mask := if one && k != 0 then c.liveMask else k
      let waits := if one then (match x.waits.head? with
        | some e => (lanesOf c.liveMask).map fun l => (l, e.2)
        | none => []) else x.waits
      let op : LoadOp :=
        { part := c.iss.part, dest := dest, data := x.data, killed := all x.killed, waits := waits,
          acqScope := c.acquires, issued := s.now, due := s.now + x.lat }
      let w := if run = 0 then c.wv else { c.wv with loads := c.wv.loads ++ [op] }
      match retire x.st c { wave := w } with
      | s1 => .next (killAborts s1 c (all ab))

/-- LDB-LDQ (R233, R234). -/
def runLoad (s : State) (op size : Nat) (d v : BitVec 8) (n : BitVec 5) (i : BitVec 3) (z : Bool) : Out :=
  runWord s (formM op size false d v n z) fun c f =>
    issueLoad s c f c.execMask (c.laneAddr n.toNat v.toNat size z (c.memImm i)) size false
      (.vec d.toNat (max 1 (size / 4)))

/-- LDB. -/
def execLdb (d v : BitVec 8) (n : BitVec 5) (i : BitVec 3) (z : Bool) (s : State) : Out := runLoad s 0x60 1 d v n i z
/-- LDH. -/
def execLdh (d v : BitVec 8) (n : BitVec 5) (i : BitVec 3) (z : Bool) (s : State) : Out := runLoad s 0x61 2 d v n i z
/-- LDW. -/
def execLdw (d v : BitVec 8) (n : BitVec 5) (i : BitVec 3) (z : Bool) (s : State) : Out := runLoad s 0x62 4 d v n i z
/-- LDD. -/
def execLdd (d v : BitVec 8) (n : BitVec 5) (i : BitVec 3) (z : Bool) (s : State) : Out := runLoad s 0x63 8 d v n i z
/-- LDQ. -/
def execLdq (d v : BitVec 8) (n : BitVec 5) (i : BitVec 3) (z : Bool) (s : State) : Out := runLoad s 0x64 16 d v n i z

/-- Lane `l` placed by its rank in the order that the spec leaves undefined. -/
def insertRank (n l : Nat) : List Nat → List Nat
  | [] => [l]
  | x :: t => if Config.freeRank n l < Config.freeRank n x then l :: x :: t else x :: insertRank n l t

/-- The lanes in the order in which they are performed: ascending where it cannot be seen, by a free
rank where two lanes touch the same bytes (R215, R218; log 10, log 11). -/
def laneOrder (n : Nat) (clash : Bool) (ls : List Nat) : List Nat :=
  if clash then ls.foldr (insertRank n) [] else ls

/-- Do two lanes of a list touch the same bytes? -/
def lanesClash (addr : Nat → Addr) (size : Nat) : List Nat → Bool
  | [] => false
  | l :: t => (t.any fun k => rangesMeet (addr l) size (addr k) size) || lanesClash addr size t

/-- A wave's release finds nothing left to wait for (R213): its stores have left, and at fabric scope
its posted remote stores and atomics are answered. -/
def Wave.releaseReady (w : Wave) (sc : BitVec 2) : Bool :=
  sc != 3 || (w.acks.isEmpty && w.loads.all fun l => l.waits.isEmpty)

/-- Does the word release at a scope that needs a cache action? -/
def cacheRelease (r : Option (BitVec 2)) : Bool := match r with
  | some sc => decide (sc.toNat ≥ 2)
  | none => false

/-- A release has written the context's dirty bytes back, and waits for the acknowledgements of those that went to
another device (R213). -/
def State.releaseWaits (s : State) (core ctx : Nat) (sc : Option (BitVec 2)) : Bool := cacheRelease sc && s.evicting core ctx

/-- Bytes of block memory with their offsets, as they are (R20). -/
def bmemOld (b : Block) (off n : Nat) : List (Nat × Byte) :=
  (List.range n).map fun i => (off + i, getAt 0 b.bmem (off + i))

/-- A write-back's fault as the releasing word reports it (R228, R329). -/
def lateFault (e : Nat × Nat × Nat) (op : Nat) (m : Mask) : TrapInfo :=
  { cause := e.1, reason := e.2.1, opcode := op, addr := BitVec.ofNat 64 e.2.2, mask := m }

/-- A store issues: the block-memory lanes are performed, the others wait in the store queue (R208,
R227, R234). A release whose lanes are performed at issue waits for the earlier stores and does its
cache action first (R213). -/
def issueStore (s : State) (c : Cur) (f : Form) (m : Mask) (addr : Nat → Addr) (size : Nat)
    (data : Nat → List Byte) : Out :=
  match addrFault s c.iss.core c.blk.ctx c.blk.decl.bmem f.opcode { w := true } size m addr with
  | some t => .next (takeTrap s c t)
  | none =>
    let near := (lanesOf m).any fun l => inAperture (addr l)
    let rel := c.releases
    if memHolds s c m addr size false || (near && rel.isSome && c.wv.storesQueued) ||
        (near && !(c.wv.releaseReady (rel.getD 0))) then .next (holdSlot s)
    else
      match (if near && cacheRelease rel then s.releaseL1 c.iss.core c.blk.ctx else .ok s) with
      | .error e => .next (takeTrap (s.unpinAll c.iss.core c.blk.ctx) c (lateFault e f.opcode m))
      | .ok s0 =>
        if near && s0.releaseWaits c.iss.core c.blk.ctx rel then .next (holdSlot s0) else
        let ab := walkAborts s c.iss.core c.blk.ctx { w := true } m addr
        let lanes := lanesOf (m &&& ~~~ab)
        let clash := lanesClash addr size lanes
        let ord := laneOrder s0.free clash lanes
        let s1 := if clash then s0.takeFree.2 else s0
        let old := (ord.filter fun l => inAperture (addr l)).flatMap fun l =>
          (bmemOld c.blk (apOffset (addr l)) size).map fun e => (l, e)
        let s2 := ord.foldl (fun s l => if inAperture (addr l) then
          s.updBlock c.blk.uid fun b => b.bmemWrite (apOffset (addr l)) (data l) else s) (s1.noteUndo c old [] [])
        let out := (ord.filter fun l => !inAperture (addr l)).map fun l => (l, addr l, data l)
        let s3 := out.foldl (fun s x => s.fillTlb c.iss.core c.blk.ctx x.2.1) s2
        let w := if out.isEmpty then c.wv else
          { c.wv with sq := c.wv.sq ++ [(s.now, .store c.iss.part out rel (position c.iss.pc c.startWord))] }
        .next (killAborts (retire s3 c { wave := w }) c ab)

/-- STB-STQ (R233, R234). -/
def runStore (s : State) (op size : Nat) (d v : BitVec 8) (n : BitVec 5) (i : BitVec 3) (z : Bool) : Out :=
  runWord s (formM op size true d v n z) fun c f =>
    issueStore s c f c.execMask (c.laneAddr n.toNat v.toNat size z (c.memImm i)) size fun l =>
      if size < 4 then leBytes size (c.vec false d.toNat l).toNat
      else (List.range (size / 4)).flatMap fun j => leBytes 4 (c.vec false (d.toNat + j) l).toNat

/-- STB. -/
def execStb (d v : BitVec 8) (n : BitVec 5) (i : BitVec 3) (z : Bool) (s : State) : Out := runStore s 0x65 1 d v n i z
/-- STH. -/
def execSth (d v : BitVec 8) (n : BitVec 5) (i : BitVec 3) (z : Bool) (s : State) : Out := runStore s 0x66 2 d v n i z
/-- STW. -/
def execStw (d v : BitVec 8) (n : BitVec 5) (i : BitVec 3) (z : Bool) (s : State) : Out := runStore s 0x67 4 d v n i z
/-- STD. -/
def execStd (d v : BitVec 8) (n : BitVec 5) (i : BitVec 3) (z : Bool) (s : State) : Out := runStore s 0x68 8 d v n i z
/-- STQ. -/
def execStq (d v : BitVec 8) (n : BitVec 5) (i : BitVec 3) (z : Bool) (s : State) : Out := runStore s 0x69 16 d v n i z

/-- Checks and registers of runSload. -/
def formSload (op size : Nat) (d : BitVec 8) (n : BitVec 5) (c : Cur) : Form :=
  let k := size / 4
  { opcode := op, fieldsOk := c.order != 2, xc := xcMem true .sreg,
    operandsOk := c.sregsOk (c.sNum 2 d) k k && c.sregsOk (2 * n.toNat) 2 2,
    reads := { v := [], s := [2 * n.toNat, 2 * n.toNat + 1], p := c.xcReads, t := [] },
    writes := { noRegs with s := List.range' (c.sNum 2 d) k }, lat := 0 }
/-- SLDW and SLDD (R229-R234): one access, when the lead lane's predicate is true. -/
def runSload (s : State) (op size : Nat) (d : BitVec 8) (n : BitVec 5) (i : BitVec 3) : Out :=
  let k := size / 4
  runWord s (formSload op size d n) fun c f =>
    let m : Mask := if c.scalarTakes then (1 : Mask) <<< c.lead else 0
    issueLoad s c f m (fun _ => c.wv.getS64 (2 * n.toNat) + BitVec.ofInt 64 (size * c.memImm i)) size true
      (.scalar (c.sNum 2 d) k)

/-- SLDW. -/
def execSldw (d : BitVec 8) (n : BitVec 5) (i : BitVec 3) (s : State) : Out := runSload s 0x6A 4 d n i
/-- SLDD. -/
def execSldd (d : BitVec 8) (n : BitVec 5) (i : BitVec 3) (s : State) : Out := runSload s 0x6B 8 d n i

/-- The new value of an atomic's word (R236). -/
def atomOp (fn : Nat) (old d new : Word) : Word :=
  match fn with
  | 0 => old + d
  | 1 => if d.toInt < old.toInt then d else old
  | 2 => if old.toInt < d.toInt then d else old
  | 3 => if d.toNat < old.toNat then d else old
  | 4 => if old.toNat < d.toNat then d else old
  | 5 => old &&& d
  | 6 => old ||| d
  | 7 => old ^^^ d
  | 8 => d
  | 9 => if old = d then new else old
  | 10 => (sum32 .rn [f32 old, f32 d]).1
  | _ => (packedPair fmtBF16 .rn (fun v => [v 0, v 1]) old d 0).1

/-- The lanes of an atomic on block memory, one after another: old values and the block (R237). -/
def atomNear (fn : Nat) (b : Block) : List AtomLane → List (Nat × Word) × Block
  | [] => ([], b)
  | x :: t =>
    let off := apOffset x.2.1
    let old : Word := BitVec.ofNat 32 (leNat (b.bmemRun off 4))
    let r := atomNear fn (b.bmemWrite off (leBytes 4 (atomOp fn old x.2.2.1 x.2.2.2).toNat)) t
    ((x.1, old) :: r.1, r.2)

/-- The value that an association list gives a lane. -/
def laneVal (l : List (Nat × Word)) (k : Nat) : Word := ((l.find? fun e => e.1 == k).map (·.2)).getD 0

/-- Checks and registers of runAtom. -/
def formAtom (op : Nat) (ret : Bool) (fn : BitVec 4) (d v : BitVec 8) (n : BitVec 5) (c : Cur) : Form :=
  let cas := fn == 9
  { opcode := op, fieldsOk := decide (fn.toNat ≤ 11) && (ret || (fn != 8 && fn != 9)), xc := xcMem false .reg,
    operandsOk := (if ret then c.vregsOk d.toNat (if cas then 2 else 1) (if cas then 2 else 1)
        else c.memSrcOk d.toNat) && c.memSrcOk v.toNat && c.sregsOk (2 * n.toNat) 2 2,
    reads := { v := srcRegs v.toNat 1 ++ srcRegs d.toNat (if cas then 2 else 1),
               s := [2 * n.toNat, 2 * n.toNat + 1], p := c.xcReads, t := [] },
    writes := if ret then { noRegs with v := if cas then [d.toNat, d.toNat + 1] else [d.toNat] } else noRegs, lat := 24 }
/-- ATOM and ATOMN (R236, R237). -/
def runAtom (s : State) (op : Nat) (ret : Bool) (fn : BitVec 4) (d v : BitVec 8) (n : BitVec 5) : Out :=
  let cas := fn == 9
  runWord s (formAtom op ret fn d v n) fun c f =>
    let m := c.execMask
    let addr := c.laneAddr n.toNat v.toNat 4 false 0
    let need : Need := { r := true, w := true, a := true }
    match addrFault s c.iss.core c.blk.ctx c.blk.decl.bmem op need 4 m addr with
    | some t => .next (takeTrap s c t)
    | none =>
      let near := (lanesOf m).any fun l => inAperture (addr l)
      if memHolds s c m addr 4 false || (near && c.releases.isSome && c.wv.storesQueued) ||
          (near && !(c.wv.releaseReady (c.releases.getD 0))) then .next (holdSlot s)
      else
        match (if near && cacheRelease c.releases then s.releaseL1 c.iss.core c.blk.ctx else .ok s) with
        | .error e => .next (takeTrap (s.unpinAll c.iss.core c.blk.ctx) c (lateFault e op m))
        | .ok s0 =>
          if near && s0.releaseWaits c.iss.core c.blk.ctx c.releases then .next (holdSlot s0) else
          let ab := walkAborts s c.iss.core c.blk.ctx need m addr
          let lanes := lanesOf (m &&& ~~~ab)
          let clash := lanesClash addr 4 lanes
          let s1 := if clash then s0.takeFree.2 else s0
          let mk (l : Nat) : AtomLane := (l, addr l, c.vec false d.toNat l,
            if cas then c.vec false (d.toNat + 1) l else 0)
          let all := (laneOrder s0.free clash lanes).map mk
          let here := all.filter fun x => inAperture x.2.1
          let out := all.filter fun x => !inAperture x.2.1
          let r := atomNear fn.toNat c.blk here
          let old := here.flatMap fun x => (bmemOld c.blk (apOffset x.2.1) 4).map fun e => (x.1, e)
          let s2 := if here.isEmpty then s1 else
            (s1.noteUndo c old [] []).updBlock c.blk.uid fun b => { b with bmem := r.2.bmem }
          let s3 := match c.acquires with
            | some sc => if here.isEmpty then s2 else s2.acquireCaches c.iss.core c.blk.ctx sc.toNat
            | none => s2
          let w1 := if ret then c.wv.setV d.toNat (maskOf (fun l => r.1.any fun e => e.1 == l) 32) (laneVal r.1)
            else c.wv
          let s4 := out.foldl (fun s x => s.fillTlb c.iss.core c.blk.ctx x.2.1) s3
          let w2 := if out.isEmpty then w1 else
            { w1 with sq := w1.sq ++ [(s.now, .atom c.iss.part fn (if ret then some d.toNat else none) out
                c.acquires c.releases (position c.iss.pc c.startWord))] }
          let done : Done := { wave := w2, writes := if here.isEmpty then noRegs else f.writes, lat := 24 }
          .next (killAborts (retire s4 c done) c ab)

/-- ATOM. -/
def execAtom (f : BitVec 4) (d v : BitVec 8) (n : BitVec 5) (s : State) : Out := runAtom s 0x6C true f d v n
/-- ATOMN. -/
def execAtomn (f : BitVec 4) (d v : BitVec 8) (n : BitVec 5) (s : State) : Out := runAtom s 0x6D false f d v n

/-- Checks of TLD and TST (R142, R143). -/
def formTile (op : Nat) (store : Bool) (t : BitVec 5) (v : BitVec 8) (n : BitVec 5) (c : Cur) : Form :=
  { opcode := op, fieldsOk := true, xc := xcNone,
    operandsOk := c.tileOk t.toNat && decide (v.toNat < c.blk.decl.vregs) && c.sregsOk (2 * n.toNat) 2 2,
    reads := { v := srcRegs v.toNat 1, s := [2 * n.toNat, 2 * n.toNat + 1], p := [],
               t := if store then [t.toNat] else [] },
    writes := if store then noRegs else { noRegs with t := [t.toNat] }, lat := 0 }

/-- TLD (R143): as LDQ, into the lane's 16 bytes of the tile. -/
def execTld (t : BitVec 5) (v : BitVec 8) (n : BitVec 5) (s : State) : Out :=
  runWord s (formTile 0x58 false t v n) fun c f =>
    issueLoad s c f c.liveMask (c.laneAddr n.toNat v.toNat 16 false 0) 16 false (.tile t.toNat)

/-- TST (R143): as STQ, from the lane's 16 bytes of the tile. -/
def execTst (t : BitVec 5) (v : BitVec 8) (n : BitVec 5) (s : State) : Out :=
  runWord s (formTile 0x59 true t v n) fun c f =>
    issueStore s c f c.liveMask (c.laneAddr n.toNat v.toNat 16 false 0) 16 fun l =>
      (List.range 16).map fun i => c.tile t.toNat (16 * l + i)

/-- The word holds its wave until an event ends it (R224, R226, R238). -/
def Cur.hold (c : Cur) (s : State) (op : Nat) : Hold :=
  { opcode := op, pos := position c.iss.pc c.startWord, part := c.iss.part, acq := false, rel := false, scope := 0,
    mask := 0, mark := s.nextUid, since := s.now, inval := none }

/-- Checks of FENCE and DRAIN: a mask that is not zero, no extension (R230, R238, R239). -/
def formHold (op : Nat) (ok : Bool) (_ : Cur) : Form :=
  { opcode := op, fieldsOk := ok, xc := xcNone, operandsOk := true, reads := noRegs, writes := noRegs, lat := 0 }

/-- FENCE (R224, R238): kinds 0 ACQ, 1 REL, 2 AR, 3 SC. -/
def execFence (sc k : BitVec 2) (m : BitVec 5) (s : State) : Out :=
  runWord s (formHold 0x6E (m != 0)) fun c _ =>
    let h : Hold := { c.hold s 0x6E with acq := k != 1, rel := k != 0, scope := sc, mask := m }
    .next (retire s c { wave := { c.wv with run := .fence h } })

/-- DRAIN (R226, R239). -/
def execDrain (p : BitVec 5) (s : State) : Out :=
  runWord s (formHold 0x6F (p != 0)) fun c _ =>
    let h : Hold := { c.hold s 0x6F with mask := p }
    .next (retire s c { wave := { c.wv with run := .drain h } })

/-- Checks of the cache words (R240): with ALL every operand field is zero. -/
def formCache (fields all : Bool) (n : BitVec 5) (o : BitVec 8) (c : Cur) : Form :=
  { opcode := 0x7D, fieldsOk := fields && (!all || (n == 0 && o == 0)), xc := xcNone,
    operandsOk := all || (c.memSrcOk o.toNat && c.sregsOk (2 * n.toNat) 2 2),
    reads := if all then noRegs else { noRegs with v := srcRegs o.toNat 1, s := [2 * n.toNat, 2 * n.toNat + 1] },
    writes := noRegs, lat := 0 }

/-- A lane's address of a cache word: the offset is in bytes (R240). -/
def Cur.cacheAddr (c : Cur) (n o l : Nat) : Addr := c.laneAddr n o 1 false 0 l

/-- Where a cache word's address leads; an address that does not translate is skipped (R232). -/
def cacheTarget (s : State) (c : Cur) (a : Addr) : Option Target :=
  if !canonical a || inAperture a then none
  else match s.translate c.iss.core c.blk.ctx {} a with
    | .ok t => some t
    | _ => none

/-- One prefetched line (R241). -/
def prefLane (c : Cur) (lvl : Nat) (s : State) (a : Addr) : State :=
  match cacheTarget s c a with
  | none => s
  | some t =>
    let core := c.iss.core
    if t.policy = 2 then s
    else
      match t.space with
      | .remote dev slot =>
        if lvl = 1 then s
        else if (s.belowByte core c.blk.ctx t).isSome then (if lvl = 0 then s.fillLine core c.blk.ctx a t else s)
        else (s.remoteRead dev slot c.blk.ctx (t.pa / 128 * 128) 2 (some (dieOf core, t.policy == 1))
          (if lvl = 0 then some (core, a.toNat / 128) else none) .pref).2
      | .host => s
      | .here =>
        if lvl = 0 then (s.fillRdc core t).fillLine core c.blk.ctx a t
        else if lvl = 2 then s.fillRdc core t
        else s.holdL2 (t.pa / 128) id

/-- PREF (R241). -/
def execPref (n : BitVec 5) (o : BitVec 8) (l : BitVec 2) (s : State) : Out :=
  runWord s (formCache (l != 3) false n o) fun c _ =>
    let s1 := (lanesOf c.liveMask).foldl (fun s k => prefLane c l.toNat s (c.cacheAddr n.toNat o.toNat k)) s
    .next (endWith s1 c (c.pt.goto c.nextPc))

/-- CINV (R242): the wave waits at the word until the write-backs have left and are acknowledged. -/
def execCinv (n : BitVec 5) (o : BitVec 8) (a : Bool) (s : State) : Out :=
  runWord s (formCache true a n o) fun c _ =>
    let lines := (lanesOf c.liveMask).filterMap fun k =>
      let x := c.cacheAddr n.toNat o.toNat k
      if (cacheTarget s c x).isSome then some (x.toNat / 128) else none
    .next (endClause s c { c.wv.setPart c.iss.part (some (c.pt.stay c .none)) with
      run := .fence { c.hold s 0x7D with inval := some (if a then none else some lines) } })

/-- RDCPURGE (R243). -/
def execRdcpurge (n : BitVec 5) (o : BitVec 8) (a : Bool) (s : State) : Out :=
  runWord s (formCache true a n o) fun c _ =>
    let die := dieOf c.iss.core
    let drop (s : State) (k : Nat) : State :=
      match cacheTarget s c (c.cacheAddr n.toNat o.toNat k) with
      | some t =>
        let dev := match t.space with
          | .remote d _ => d
          | _ => s.own
        { s with rdc := s.rdc.filter fun r => !(r.die == die && r.dev == dev && r.line == t.pa / 128 &&
            (r.ctx == none || r.ctx == some c.blk.ctx)) }
      | none => s
    let s1 := if a then { s with rdc := s.rdc.filter fun r => !(r.die == die && r.ctx == some c.blk.ctx) }
      else (lanesOf c.liveMask).foldl drop s
    .next (endWith s1 c (c.pt.goto c.nextPc))

/-- Checks of ALD and AST (R267): `k` accepted code kinds of V. -/
def formAcc (op : Nat) (store : Bool) (v o w : BitVec 8) (c : Cur) : Form :=
  { opcode := op, fieldsOk := true, xc := { pred := true, d := .reg, a := .reg, b := .reg },
    operandsOk := (if store then c.memSrcOk v.toNat else c.vregsOk v.toNat 1 1) && c.memSrcOk o.toNat &&
      decide (w.toNat < c.blk.decl.awin),
    reads := { v := srcRegs o.toNat 1 ++ (if store then srcRegs v.toNat 1 else []), s := [], p := c.xcReads, t := [] },
    writes := if store then noRegs else { noRegs with v := [v.toNat] }, lat := 28 }

/-- Lanes whose window offset lies beyond the saturation count (R267). -/
def Cur.badOffsets (c : Cur) (o : Nat) : Mask := laneFails c.execMask fun l => decide ((c.vec false o l).toNat > 4096)

/-- An element of a window, or its saturation count for 4,096 (R267). -/
def Block.winElem (b : Block) (w e : Nat) : Word :=
  if e < 4096 then getAt 0 b.win (4096 * w + e) else getAt 0 b.satCount w

/-- Write an element of a window, or its saturation count for 4,096. -/
def Block.setWinElem (b : Block) (w e : Nat) (x : Word) : Block :=
  if e < 4096 then { b with win := setAt 0 b.win (4096 * w + e) x } else { b with satCount := setAt 0 b.satCount w x }

/-- ALD (R267): the elements are read at issue and written 28 cycles later. -/
def execAld (v o w : BitVec 8) (s : State) : Out :=
  runWord s (formAcc 0x75 false v o w) fun c f =>
    let bad := c.badOffsets o.toNat
    if bad ≠ 0 then .next (takeTrap s c { cause := causeProt, reason := 2, opcode := f.opcode, mask := bad })
    else if c.wv.acqPending then .next (holdSlot s)
    else
      let data := (lanesOf c.execMask).map fun l =>
        (l, leBytes 4 (c.blk.winElem w.toNat (c.vec false o.toNat l).toNat).toNat)
      let op : LoadOp :=
        { part := c.iss.part, dest := .vec v.toNat 1, data := data, killed := 0, waits := [],
          acqScope := none, issued := s.now, due := s.now + 28 }
      .next (retire s c { wave := { c.wv with loads := c.wv.loads ++ [op] } })

/-- AST (R267): performed at issue, the highest-numbered lane last. -/
def execAst (v o w : BitVec 8) (s : State) : Out :=
  runWord s (formAcc 0x76 true v o w) fun c f =>
    let bad := c.badOffsets o.toNat
    if bad ≠ 0 then .next (takeTrap s c { cause := causeProt, reason := 2, opcode := f.opcode, mask := bad })
    else if c.wv.acqPending then .next (holdSlot s)
    else
      let es := (lanesOf c.execMask).map fun l => (l, (c.vec false o.toNat l).toNat)
      let oldW := (es.filter fun e => decide (e.2 < 4096)).map fun e =>
        (e.1, 4096 * w.toNat + e.2, c.blk.winElem w.toNat e.2)
      let oldC := (es.filter fun e => e.2 == 4096).map fun e => (e.1, w.toNat, c.blk.winElem w.toNat 4096)
      let s1 := (s.noteUndo c [] oldW oldC).updBlock c.blk.uid fun b => (lanesOf c.execMask).foldl (fun b l =>
        b.setWinElem w.toNat (c.vec false o.toNat l).toNat (c.vec false v.toNat l)) b
      .next (retire s1 c { wave := c.wv })

/-- The clause that a wave is issuing leaves its slot before its next word (R330). -/
def State.stopIssue (s : State) (b i : Nat) : State :=
  match s.issues.find? fun x => x.block == b && x.wave == i with
  | none => s
  | some x => ({ s with issues := s.issues.filter fun y => !(y.block == b && y.wave == i) } : State).updWave b i fun w =>
      match w.part? x.part with
      | some p => w.setPart x.part (some { p with pc := x.pc, word := x.ext.getD x.k })
      | none => w

/-- A trap charged to a word that has already issued, or to a fetch (R228, R326, R329): the block halts, and
the faulting wave issues nothing more (R330). -/
def lateTrap (s : State) (b i : Nat) (pos : Addr) (t : TrapInfo) : State :=
  (s.stopIssue b i).updBlock b fun x => x.takeTrap s.now i pos t

/-- One lane's stored bytes leave the wave: into the L1, to their point of coherence, to the host, or to
another device, with the acknowledgement that is awaited (R208, R209, R212). A page that is no longer
writable faults. -/
def leaveLane (b : Block) (i : Nat) (s : State) (x : Nat × Addr × List Byte) :
    Except TrapInfo (State × List (Nat × Nat × Addr × Nat)) :=
  match s.translate b.core b.ctx { w := true } x.2.1 with
  | .ok t =>
    match t.space with
    | .here => .ok (s.storeLocal b.core b.ctx x.2.1 t x.2.2, [])
    | .host => .ok (s.hostBytes t.pa x.2.2, [])
    | .remote dev slot =>
      let r := (s.dropBorrowed b.core dev t.pa b.ctx x.2.1).remoteWrite dev slot b.ctx t.pa x.2.2 (.store b.uid i x.1)
      .ok (r.2, [(r.1, x.1, x.2.1, x.2.2.length)])
  | .pageFault => .error { cause := causePage, opcode := 0, addr := x.2.1, mask := (1 : Mask) <<< x.1 }
  | .prot r => .error { cause := causeProt, reason := r, opcode := 0, addr := x.2.1, mask := (1 : Mask) <<< x.1 }
  | .abort => .ok (((s.withhold (some b.ctx)).killLanes b.uid i ((1 : Mask) <<< x.1)).settle b.uid, [])

/-- All lanes of a store leave in their order. -/
def leaveLanes (b : Block) (i : Nat) :
    List (Nat × Addr × List Byte) → State → Except TrapInfo (State × List (Nat × Nat × Addr × Nat))
  | [], s => .ok (s, [])
  | x :: t, s =>
    match leaveLane b i s x with
    | .error e => .error e
    | .ok r =>
      match leaveLanes b i t r.1 with
      | .error e => .error e
      | .ok q => .ok (q.1, r.2 ++ q.2)

/-- The cache action of a release by the block's core, as a trap where a write-back faults (R213,
R228). -/
def releaseAt (s : State) (b : Block) (op : Nat) (sc : Option (BitVec 2)) : Except TrapInfo State :=
  if cacheRelease sc then
    match s.releaseL1 b.core b.ctx with
    | .ok s1 => .ok s1
    | .error e => .error (lateFault e op 0)
  else .ok s

/-- The head of a wave's store queue, once it may leave the core (R21). -/
def Wave.leaving (w : Wave) (aged : Nat → Bool) : Option (Nat × Effect) := w.sq.head?.filter fun e => aged e.1

/-- The entry `e` has left the store queue of a wave that held it: `f` is what it becomes. -/
def Wave.left (e : Nat × Effect) (f : Wave → Wave) (w : Wave) : Wave :=
  if w.sq.contains e then f { w with sq := w.sq.erase e } else w

/-- A store leaves its wave (R21, R208, R212, R213). A release writes the context's dirty bytes back
before its own bytes and with them (log 23); until those of another device are acknowledged the store stays (R213). -/
def leaveStore (s : State) (b : Block) (w : Wave) (e : Nat × Effect) (lanes : List (Nat × Addr × List Byte))
    (rel : Option (BitVec 2)) : Except TrapInfo State :=
  match releaseAt s b 0 rel with
  | .error x => .error x
  | .ok s1 =>
    if s1.releaseWaits b.core b.ctx rel then .ok s1 else
    match leaveLanes b w.idx lanes s1 with
    | .error x => .error x
    | .ok r =>
      match releaseAt r.1 b 0 rel with
      | .error x => .error x
      | .ok s2 => .ok (s2.updWaveAll b.uid w.idx (Wave.left e fun w => { w with acks := w.acks ++ r.2 }))

/-- The line of an address leaves the core's L1, its dirty bytes going ahead (R215). -/
def State.flushLine (s : State) (core ctx line : Nat) : State :=
  match s.l1Line core ctx line with
  | none => s
  | some ln =>
    match s.writeBack ln with
    | .ok s1 => s1.setL1 core ctx line none
    | .error _ => s

/-- An atomic leaves its wave (R215, R237): the lines it names are flushed, remote lanes are sent, the
others are outstanding until ATOM_RETURN. -/
def leaveAtom (s : State) (b : Block) (w : Wave) (e : Nat × Effect) (part : Nat) (fn : BitVec 4)
    (dest : Option Nat) (lanes : List AtomLane) (acq rel : Option (BitVec 2)) (pos : Addr) :
    Except TrapInfo State :=
  match releaseAt s b (if dest.isSome then 0x6C else 0x6D) rel with
  | .error x => .error x
  | .ok s1 =>
    if s1.releaseWaits b.core b.ctx rel then .ok s1 else
    let s2 := lanes.foldl (fun s x => s.flushLine b.core b.ctx (x.2.1.toNat / 128)) s1
    let far (x : AtomLane) : Option (Nat × Nat × Nat) :=
      match s2.translate b.core b.ctx { r := true, w := true, a := true } x.2.1 with
      | .ok t => (match t.space with
        | .remote dev slot => some (dev, slot, t.pa)
        | _ => none)
      | _ => none
    let send (acc : State × List (Nat × Nat × Nat × Nat)) (x : AtomLane) : State × List (Nat × Nat × Nat × Nat) :=
      match far x with
      | some (dev, slot, pa) =>
        let r := (acc.1.dropBorrowed b.core dev pa b.ctx x.2.1).remoteAtom dev slot b.ctx pa fn.toNat x.2.2.1 x.2.2.2
          (.atom b.uid w.idx x.1)
        (r.2, acc.2 ++ [(x.1, r.1, pa, 4)])
      | none => acc
    let r := lanes.foldl send (s2, [])
    let near := lanes.filter fun x => (far x).isNone
    let ack (q : Nat × Nat × Nat × Nat) : Nat × Nat × Addr × Nat :=
      (q.2.1, q.1, ((lanes.find? fun x => x.1 == q.1).map fun x => x.2.1).getD 0, 4)
    .ok (r.1.updWaveAll b.uid w.idx (Wave.left e fun w =>
      { w with
        atoms := if near.isEmpty then w.atoms else w.atoms ++ [.atom part fn dest near acq rel pos]
        acks := w.acks ++ r.2.map ack
        loads := if r.2.isEmpty then w.loads else w.loads ++
          [{ part := part, data := [], killed := 0,
             dest := match dest with
               | some d => if fn == 9 then .cas d else .vec d 1
               | none => .vec 0 0
             waits := r.2, acqScope := acq, issued := s.now, due := s.now }] }))

/-- One lane of an atomic at its point of coherence on this device (R215, R236): its old value, or none
on an abort. -/
def atomLane (b : Block) (fn : Nat) (s : State) (x : AtomLane) : Option Word × State :=
  let s0 := s.flushLine b.core b.ctx (x.2.1.toNat / 128)
  match s0.translate b.core b.ctx { r := true, w := true, a := true } x.2.1 with
  | .ok t =>
    if s0.isBad t.pa 4 then (none, s0.withhold (some b.ctx))
    else
      let old := s0.mem32 t.pa
      (some old, s0.pocWrite t.pa (some (dieOf b.core)) (leBytes 4 (atomOp fn old x.2.2.1 x.2.2.2).toNat))
  | _ => (none, s0.walkWithheld b.core b.ctx { r := true, w := true, a := true } x.2.1)

/-- The lanes of an atomic, one after another: lane and old value, killed lanes. -/
def atomLanes (b : Block) (fn : Nat) : List AtomLane → State → List (Nat × Word) × Mask × State
  | [], s => ([], 0, s)
  | x :: t, s =>
    let r := atomLane b fn s x
    let q := atomLanes b fn t r.2
    match r.1 with
    | some old => ((x.1, old) :: q.1, q.2.1, q.2.2)
    | none => (q.1, q.2.1 ||| (1 : Mask) <<< x.1, q.2.2)

/-- The atomic has returned to a wave that awaits it. -/
def Wave.returned (e : Effect) (dest : Option Nat) (old : List (Nat × Word)) (w : Wave) : Wave :=
  if w.atoms.contains e then
    let w1 := { w with atoms := w.atoms.erase e }
    match dest with
    | some d => w1.setV d (maskOf (fun l => old.any fun e => e.1 == l) 32 &&& ~~~w.gone) (laneVal old)
    | none => w1
  else w

/-- ATOM_RETURN (R236, R237): the wave's oldest outstanding atomic is performed and returns. -/
def execAtomReturn (b wv : Nat) (s : State) : Out :=
  match s.block? b, s.wave? b wv with
  | some blk, some w =>
    match w.atoms with
    | .atom p fn dest lanes acq rl pos :: _ =>
      let r := atomLanes blk fn.toNat lanes s
      let s1 := match acq with
        | some sc => r.2.2.acquireCaches blk.core blk.ctx sc.toNat
        | none => r.2.2
      let s2 := s1.updWaveAll b wv (Wave.returned (.atom p fn dest lanes acq rl pos) dest r.1)
      .next ((if r.2.1 = 0 then s2 else s2.killLanes b wv r.2.1).settle b)
    | _ => .next s
  | _, _ => .next s

/-- The first load of a wave whose data are here. -/
def Wave.loadDone (w : Wave) (now : Nat) : Option LoadOp :=
  w.loads.find? fun l => l.waits.isEmpty && decide (l.due ≤ now) && l.dest != .packet

/-- The word at byte 4 j of a lane's data. -/
def dataWord (bs : List Byte) (j : Nat) : Word := BitVec.ofNat 32 (leNat ((bs.drop (4 * j)).take 4))

/-- A load's data written into its destinations, but for killed lanes (R234, R235). -/
def Wave.landLoad (w : Wave) (l : LoadOp) : Wave :=
  let ok (k : Nat) : Bool := l.data.any (fun e => e.1 == k) && !l.killed.getLsbD k && !w.gone.getLsbD k
  let bytes (k : Nat) : List Byte := ((l.data.find? fun e => e.1 == k).map (·.2)).getD []
  match l.dest with
  | .vec d n => (List.range n).foldl (fun w j => w.setV (d + j) (maskOf ok 32) fun k => dataWord (bytes k) j) w
  | .cas d => w.setV d (maskOf ok 32) fun k => dataWord (bytes k) 0
  | .scalar d n =>
    match l.data.head? with
    | some e => if l.killed = 0 then (List.range n).foldl (fun w j => w.setS (d + j) (dataWord e.2 j)) w else w
    | none => w
  | .tile t => { w with t := setTile w.t t (fun b => ok (b / 16)) (fun b => (bytes (b / 16)).getD (b % 16) 0) 512 }
  | .packet => w

/-- LOAD_COMPLETE (R234, R235): the oldest load whose data have returned writes its destinations; lanes
whose data were withheld are killed. -/
def execLoadComplete (b wv : Nat) (s : State) : Out :=
  match s.block? b, s.wave? b wv with
  | some blk, some w =>
    match w.loadDone s.now with
    | none => .next s
    | some l =>
      let s1 := s.updWave b wv fun w => { w.landLoad l with loads := w.loads.erase l }
      let s2 := match l.acqScope with
        | some sc => s1.acquireCaches blk.core blk.ctx sc.toNat
        | none => s1
      .next (if l.killed = 0 then s2 else (s2.killLanes b wv l.killed).settle b)
  | _, _ => .next s

/-- RESULT_WRITEBACK (R13): the pending bits of the wave's results that are due clear. The results
themselves were written when their words issued, which no word can tell (log 5). -/
def execResultWriteback (b wv : Nat) (s : State) : Out :=
  .next (s.updWave b wv fun w => { w with pend := w.pend.filter fun p => decide (p.due > s.now) })

/-- Path bit of a copy's destination (R239): BMEM, GLOB, BST, ACC, NET. -/
def CopyJob.path (j : CopyJob) : Nat := match j.dstKind with
  | 0 => 1
  | 1 => 0
  | k => k

/-- The block's stream is in the middle of no word: an MBAR that has begun has completed (R196, R224, R256). -/
def Block.streamIdle (b : Block) : Bool := match b.stream with
  | none => true
  | some t => match t.run with
    | .mbar _ _ => false
    | .mbarAgain _ _ => false
    | _ => true

/-- The waits of a FENCE or CINV are satisfied (R21, R213, R224, R242). -/
def fenceReady (s : State) (b : Block) (w : Wave) (h : Hold) : Bool :=
  let old := s.aged b.core h.since
  match h.inval with
  | some _ => old
  | none =>
    let mem := h.mask.getLsbD 0
    (!h.rel || ((old || h.scope.toNat < 2) && !w.storesQueued && w.releaseReady h.scope))
    && (!mem || (w.sq.isEmpty && w.atoms.isEmpty && w.loads.isEmpty))
    && (!h.mask.getLsbD 1 || !((s.core b.core).copies.any fun j => j.block == b.uid && decide (j.seq < h.mark)))
    && (!(h.acq && h.mask.getLsbD 2) || b.streamIdle)
    && (!h.mask.getLsbD 3 || w.rays.isEmpty)
    && (!h.mask.getLsbD 4 || w.colls.isEmpty)

/-- Part 4 of a wave becomes part `k`, for all that waits in its name (R158). -/
def Wave.renamePart (w : Wave) (k : Nat) : Wave :=
  let named (n : Nat) : Nat := if n = 4 then k else n
  { w with
    loads := w.loads.map fun l => { l with part := named l.part }
    rays := w.rays.map fun o => { o with part := named o.part }
    sq := w.sq.map fun e => (e.1, match e.2 with
      | .store p l r q => .store (named p) l r q
      | .atom p f d l a r q => .atom (named p) f d l a r q
      | .launch h q a => .launch { h with part := named h.part } q a
      | .grow h d i => .grow { h with part := named h.part } d i
      | .post p r l => .post (named p) r l
      | .take p r v m => .take (named p) r v m
      | x => x)
    run := match w.run with
      | .waitv a => .waitv { a with part := named a.part }
      | .fence h => .fence { h with part := named h.part }
      | .drain h => .drain { h with part := named h.part }
      | .entering h => .entering { h with part := named h.part }
      | .trapping p c m d t r => .trapping (named p) c m d t r
      | x => x }

/-- The part that waits at a control word goes on to the next clause. -/
def Wave.pastPart (w : Wave) (k : Nat) : Wave := match w.part? k with
  | some p => w.setPart k (some p.past)
  | none => w

/-- A CINV writes its lines back and drops them (R242); a fault leaves the line as it is. -/
def cinvLines (core ctx : Nat) : List Nat → State → Except (Nat × Nat × Nat) State
  | [], s => .ok s
  | line :: t, s =>
    match s.l1Line core ctx line with
    | none => cinvLines core ctx t s
    | some ln =>
      match s.writeBack ln with
      | .error e => .error (e.1, e.2, line * 128)
      | .ok s1 => cinvLines core ctx t (s1.setL1 core ctx line none)

/-- A word that had issued executes again later: its wave is back at it, and its clause leaves the slot
(R228, R334). -/
def State.rewind (s : State) (b i k : Nat) (pos : Addr) : State :=
  ({ s with issues := s.issues.filter fun x => !(x.block == b && x.wave == i) } : State).updWave b i fun w =>
    let w1 := { w with run := .running }
    match w.part? k with
    | some p => w1.setPart k (some { p with pc := (pos.extractLsb' 0 55).signExtend 64, word := (pos.extractLsb' 60 4).toNat })
    | none => w1

/-- FENCE_COMPLETE (R224, R238, R242): the cache actions of R213, then the wave goes on, once what went to another device
is acknowledged; an acquire that names COLL is one at fabric scope, as the tokens' would be (R396; log 51); a release
that names MEM and RAY lets no later query read a line older than the wave's own writes (R290). A write-back
that faults is charged to the FENCE or CINV, which executes again after the restore. -/
def execFenceComplete (b wv : Nat) (s : State) : Out :=
  match s.block? b, s.wave? b wv with
  | some blk, some w =>
    match w.run with
    | .fence h =>
      if !fenceReady s blk w h then .next s
      else
        let done : Except (Nat × Nat × Nat) State := match h.inval with
          | some (some lines) => cinvLines blk.core blk.ctx lines s
          | some none => cinvLines blk.core blk.ctx ((s.l1Of blk.core blk.ctx).map L1Line.line) s
          | none => if h.rel && cacheRelease (some h.scope) then s.releaseL1 blk.core blk.ctx else .ok s
        match done with
        | .error e =>
          let covers (line : Nat) : Bool := match h.inval with
            | some (some lines) => lines.contains line
            | _ => true
          .next (lateTrap ((s.unpin blk.core blk.ctx covers).rewind b wv h.part h.pos) b wv h.pos (lateFault e h.opcode 0))
        | .ok s1 =>
          if (h.inval.isSome || h.rel) && s1.releaseWaits blk.core blk.ctx (some (if h.inval.isSome then 2 else h.scope)) then
            .next s1
          else
          let s2 := if h.acq then s1.acquireCaches blk.core blk.ctx (if h.mask.getLsbD 4 then 3 else h.scope.toNat)
            else if h.rel && cacheRelease (some h.scope) && h.mask.getLsbD 0 && h.mask.getLsbD 3 then
              s1.dropRays blk.core blk.ctx
            else s1
          .next (s2.updWave b wv fun w =>
            let w1 := { w with run := .running }
            if h.inval.isSome then w1.pastPart h.part else w1)
    | _ => .next s
  | _, _ => .next s

/-- DRAIN_COMPLETE (R226, R239): the copies that the engine had accepted, 4 cycles after they issued (R244), when the
DRAIN issued have written what it names. -/
def execDrainComplete (b wv : Nat) (s : State) : Out :=
  match s.block? b, s.wave? b wv with
  | some blk, some w =>
    match w.run with
    | .drain h =>
      if (s.core blk.core).copies.any fun j => decide (j.issued + 4 < h.since) && h.mask.getLsbD j.path then .next s
      else .next (s.updWave b wv fun w => { w with run := .running })
    | _ => .next s
  | _, _ => .next s

end Sys2Proof.Machine
end

