-- ==== Sys2Proof/Machine/Cycle.lean ====
section
/-! DEFINITION. The core's own cycle: well-formed clauses (R31-R33), readiness and the choice of the next
clause (R7-R12, R170), instruction fetch (R8, R185), the deferred path (R158), promotion, sleep, deadlock
(R171), set phases (R195) and WAITV's rereads (R197). -/

namespace Sys2Proof.Machine

open Sys2Proof

/-- Class of an opcode (R47): 0 VEC, 1 SCA, 2 MEM, 3 FRG, 4 SFU, 5 CTL, 6 ENG; none when undefined or
an extension. -/
def opClass (op : Nat) : Option Nat :=
  if op ≤ 0x32 then some 0
  else if op ≤ 0x35 then none
  else if op = 0x39 then some 4
  else if op ≤ 0x3C then some 0
  else if op ≤ 0x3F then none
  else if op ≤ 0x47 then some 0
  else if op ≤ 0x57 then some 1
  else if op ≤ 0x5D then some 3
  else if op = 0x5E then some 0
  else if op = 0x5F then some 1
  else if op ≤ 0x6F then some 2
  else if op ≤ 0x76 then some 6
  else if op = 0x77 then none
  else if op ≤ 0x7A then some 6
  else if op = 0x7B then none
  else if op ≤ 0x7D then some 5
  else none

/-- The words of a clause break a rule of R32. `xp` and `xc` say which extensions stand before the word,
`lit` that it is a literal. -/
def badWords (cls : Nat) : Bool → Bool → Bool → List Word → Bool
  | xp, xc, lit, [] => xp || xc || lit
  | xp, xc, lit, w :: t =>
    let op := (w.extractLsb' 25 7).toNat
    if lit then badWords cls false false false t
    else if op = 0x7E then xp || badWords cls true xc false t
    else if op = 0x7F then xc || badWords cls xp true false t
    else
      (match opClass op with
        | some k => decide (cls ≠ 7 ∧ k ≠ cls) || (k == 5 && !t.isEmpty)
        | none => false) || badWords cls false false (op == 0x5E || op == 0x5F) t

/-- A malformed clause (R32). -/
def clauseBad (h : Word) (ws : List Word) : Bool :=
  headerN h == 0 || h.extractLsb' 19 13 != 0 || badWords (h.extractLsb' 4 3).toNat false false false ws

/-- Is a line in a core's instruction cache? -/
def State.icHas (s : State) (core ctx line : Nat) : Bool :=
  s.icache.any fun x => x.core == core && x.ctx == ctx && x.line == line

/-- The first line of the clause at `pc` that the instruction cache does not hold (R8). -/
def State.missingLine (s : State) (core ctx : Nat) (pc : Addr) : Option Nat :=
  let l0 := pc.toNat / 128
  if !s.icHas core ctx l0 then some l0
  else
    match s.fetch32 core ctx pc with
    | .ok h =>
      let l1 := (pc.toNat + 4 * headerN h) / 128
      if l1 = l0 || s.icHas core ctx l1 then none else some l1
    | _ => some l0

/-- What the slots would find at a part's PC. -/
inductive Offer where
  /-- Nothing can be issued. -/
  | none
  /-- The clause traps with illegal-clause (R32). -/
  | bad
  /-- The part has reached its reconvergence address (R157). -/
  | reconv
  /-- A clause of this class is ready, with its header. -/
  | ready (cls : Nat) (h : Word)
  deriving DecidableEq, Repr

/-- The tokens that a header's wait bits name (R31). -/
def waitTokens (h : Word) : List Nat := (List.range 8).filter fun k => h.getLsbD (7 + k)

/-- The header's wait bits are satisfied (R10, R31). -/
def waitsDone (b : Block) (w : Wave) (h : Word) : Bool :=
  ((List.range 8).all fun k => !h.getLsbD (7 + k) || (b.token k).outst.isEmpty)
  && (!h.getLsbD 15 || (w.loads.isEmpty && w.atoms.isEmpty && !(w.sq.any fun e => match e.2 with
    | .atom _ _ _ _ _ _ _ => true
    | .take _ _ _ _ => true
    | _ => false)))
  && (!h.getLsbD 16 || w.pending.all fun r => r == noRegs)

/-- What a part offers (R10). -/
def State.offer (s : State) (b : Block) (w : Wave) (p : Part) : Offer :=
  if p.wait != .none && p.wait != .merged then .none
  else
    match s.missingLine b.core b.ctx p.pc with
    | some _ => .none
    | none =>
      match s.fetch32 b.core b.ctx p.pc with
      | .ok h =>
        match s.fetchRun b.core b.ctx (p.pc + 4) (headerN h) with
        | .ok ws =>
          if clauseBad h ws then .bad
          else if h.getLsbD 17 && p.pc == p.rho && p.rho != 0 && p.word == 0 && p.wait == .none then .reconv
          else if waitsDone b w h then .ready (h.extractLsb' 4 3).toNat h else .none
        | .error _ => .none
      | _ => .none

/-- A wave may be chosen: it runs, its block is not halted, and no clause of it is issuing (R8, R10). A wave
that has faulted issues nothing more (R330). -/
def State.mayIssue (s : State) (b : Block) (w : Wave) : Bool :=
  w.run == .running && !(s.issues.any fun i => i.block == b.uid && i.wave == w.idx) &&
    match b.halt with
    | none => true
    | some h => !h.signalled && h.wave != w.idx && w.faulted.isNone

/-- Is a slot of a sub-core free (R7)? -/
def State.slotFree (s : State) (core sub : Nat) (slot1 : Bool) : Bool :=
  !(s.issues.any fun i => i.core == core && i.sub == sub && (i.mix || i.slot1 == slot1))

/-- Does a clause of a class belong to a slot (R7)? A MIX clause is chosen by slot 0's choice. -/
def classFits (cls : Nat) (slot1 : Bool) : Bool := if cls = 7 then true else (cls == 0) == !slot1

/-- A wave's clause that a slot may choose. -/
structure Pick where
  block : Block
  wave : Wave
  part : Nat
  offer : Offer
  deriving DecidableEq, Repr

/-- The splits in the order of their turns: after the one whose clause issued last (R10). -/
def Wave.turns (w : Wave) : List Nat := (List.range 4).map fun j => (w.turn + 1 + j) % 4

/-- A part's offer as a pick. -/
def State.pickPart (s : State) (b : Block) (w : Wave) (k : Nat) : Option Pick :=
  match w.part? k with
  | none => none
  | some p => match s.offer b w p with
    | .none => none
    | o => some { block := b, wave := w, part := k, offer := o }

/-- Is an offer for the slot? -/
def Offer.fits (o : Offer) (slot1 : Bool) : Bool := match o with
  | .ready cls _ => classFits cls slot1
  | .none => false
  | _ => true

/-- A part is ready: a MIX clause only while both slots of the sub-core are free (R10). -/
def State.pickReady (s : State) (x : Pick) : Bool := match x.offer with
  | .ready 7 _ => s.slotFree x.block.core x.wave.sub false && s.slotFree x.block.core x.wave.sub true
  | .none => false
  | _ => true

/-- The one part that a wave offers: one that has reached its reconvergence address (R157), else the next of its
ready splits in turn, and the deferred path only when none is ready (R10, R159). A MIX clause that waits for its
slots is offered when the wave has nothing else, so that it may keep them empty (R170). -/
def State.waveNext (s : State) (b : Block) (w : Wave) : Option Pick :=
  if !s.mayIssue b w then none
  else
    let all := w.turns.filterMap fun k => s.pickPart b w k
    let last := (s.pickPart b w 4).toList
    match (all ++ last).find? fun x => x.offer == .reconv with
    | some x => some x
    | none => match all.find? s.pickReady with
      | some x => some x
      | none => match last.find? s.pickReady with
        | some x => some x
        | none => (all ++ last).head?

/-- What a wave offers to a slot: the split that it offers, when that is for the slot (R10). -/
def State.waveOffer (s : State) (b : Block) (w : Wave) (slot1 : Bool) : Option Pick :=
  (s.waveNext b w).filter fun x => x.offer.fits slot1

/-- The wave is ready for a slot (R10, R12). -/
def State.waveReady (s : State) (b : Block) (w : Wave) : Bool := match s.waveNext b w with
  | some x => s.pickReady x
  | none => false

/-- The picks of a sub-core's slot. -/
def State.picks (s : State) (core sub : Nat) (slot1 : Bool) : List Pick :=
  (s.blocks.filter fun b => b.core == core).flatMap fun b =>
    (b.waves.filter fun w => w.sub == sub).filterMap fun w => s.waveOffer b w slot1

/-- Rank of a pick, lowest first (R11): a part that comes to its reconvergence address takes no slot and comes
first; tiers keep fillers below all others and pass yielding waves over. -/
def Pick.rank (x : Pick) (slot1 : Bool) : List Nat :=
  let y := if x.wave.yielded.getLsbD (if slot1 then 1 else 0) then 1 else 0
  [if x.offer == .reconv then 0 else 1, (if x.block.decl.filler then 2 else 0) + y,
   (match x.wave.promoted with
    | some _ => 0
    | none => 1),
   x.wave.promoted.getD 0, 255 - x.block.decl.prio, x.block.decl.cls, x.block.started, x.block.uid, x.wave.idx]

/-- Lexicographic order. -/
def lexLt : List Nat → List Nat → Bool
  | a :: s, b :: t => decide (a < b) || (a == b && lexLt s t)
  | _, _ => false

/-- The best pick. -/
def bestPick (slot1 : Bool) : List Pick → Option Pick
  | [] => none
  | x :: t => match bestPick slot1 t with
    | none => some x
    | some y => if lexLt (y.rank slot1) (x.rank slot1) then some y else some x

/-- A MIX clause. -/
def Pick.isMix (x : Pick) : Bool := match x.offer with
  | .ready 7 _ => true
  | _ => false

/-- A MIX clause takes both slots, so it must come first in the other slot too (R7, R11; log 25). -/
def State.bestInBoth (s : State) (core sub : Nat) (slot1 : Bool) (x : Pick) : Bool :=
  s.slotFree core sub (!slot1) && match bestPick (!slot1) (s.picks core sub (!slot1)) with
    | some y => y.isMix && y.block.uid == x.block.uid && y.wave.idx == x.wave.idx
    | none => false

/-- The pick a slot takes: a promoted MIX clause at the front keeps the slot empty until both slots are
free (R170). -/
def State.choose (s : State) (core sub : Nat) (slot1 : Bool) : Option Pick :=
  if !s.slotFree core sub slot1 then none
  else
    let all := s.picks core sub slot1
    match bestPick slot1 all with
    | none => none
    | some x =>
      if !x.isMix || s.bestInBoth core sub slot1 x then some x
      else if x.wave.promoted.isSome then none
      else bestPick slot1 (all.filter fun y => !y.isMix)

/-- A wave whose MIX clause is ready as a slot takes another clause: this cycle counts as one in which it was, and it is
ready no longer (R10, R12; log 25). -/
def State.passedOver (s : State) (b : Block) (w : Wave) : Wave := match w.readySince, s.waveNext b w with
  | some t, some x => if x.isMix then { w with starveCnt := w.starveCnt + s.since b.core t + 1, readySince := none } else w
  | _, _ => w

/-- The clause takes its slot: latches zero (R15), its wave no longer ready (R12), the part's turn taken
(R10), the tokens it waited for observed (R225, R396), and a checkpoint (R20). -/
def State.startClause (s : State) (core sub : Nat) (slot1 : Bool) (x : Pick) (h : Word) (p : Part) : State :=
  let bit : BitVec 2 := if x.isMix then 0 else if slot1 then 1 else 2
  let s1 : State := { s with blocks := s.blocks.map fun b =>
    if b.core == core then { b with waves := b.waves.map fun w =>
      if w.sub == sub then { s.passedOver b w with yielded := w.yielded &&& bit } else w } else b }
  let s2 := s1.updWave x.block.uid x.wave.idx fun w =>
    { w.setPart x.part (some { p with wait := .none }) with
      starveCnt := 0, readySince := none, promoted := none, turn := if x.part < 4 then x.part else w.turn }
  let i : Issue :=
    { core := core, sub := sub, slot1 := slot1, mix := x.isMix, block := x.block.uid, wave := x.wave.idx,
      part := x.part, pc := p.pc, header := h, k := max 1 p.word, xc := none, xp := none, ext := none,
      lat0 := [], lat1 := [] }
  let s3 := (s2.observe x.block (waitTokens h)).checkpoint core x.block.uid x.wave.idx true false
  { s3 with issues := i :: s3.issues }

/-- A wave's readiness noted for its starvation counter (R12; log 25): `since` counts cycles from a time. -/
def Wave.noteReady (w : Wave) (now : Nat) (since : Nat → Nat) (ready : Bool) : Wave :=
  if ready then { w with readySince := some (w.readySince.getD now) }
  else match w.readySince with
    | some t => { w with starveCnt := w.starveCnt + since t, readySince := none }
    | none => w

/-- A wave whose noted readiness is not what it is now: its counter starts or stops in this cycle (R12). -/
def State.noteDue (s : State) (b : Block) (w : Wave) : Option State :=
  let r := s.waveReady b w
  if r == w.readySince.isSome then none else some (s.updWave b.uid w.idx fun w => w.noteReady s.now (s.since b.core) r)

/-- CLAUSE_SELECT (R11, R32, R157): a part that has reached its reconvergence address waits there, a
malformed clause traps, or the chosen clause takes the slot. -/
def execClauseSelect (core sub : Nat) (slot1 : Bool) (s : State) : Out :=
  match s.choose core sub slot1 with
  | none => .next s
  | some x =>
    match x.wave.part? x.part with
    | none => .next s
    | some p =>
      match x.offer with
      | .bad => .next (s.updBlock x.block.uid fun b => b.takeTrap s.now x.wave.idx (position p.pc 0)
          { cause := 2, opcode := 0 })
      | .reconv => .next ((s.updWave x.block.uid x.wave.idx fun w =>
          w.setPart x.part (some { p with wait := .reconv })).settle x.block.uid)
      | .ready _ h =>
        .next (s.startClause core sub slot1 x h p)
      | .none => .next s

/-- Parts of a context's blocks on a core whose next clause needs a line. -/
def State.fetchers (s : State) (core ctx line : Nat) : List (Nat × Nat × Nat × Addr) :=
  (s.blocks.filter fun b => b.core == core && b.ctx == ctx).flatMap fun b =>
    b.waves.flatMap fun w => (w.parts.filter fun e => (e.2.wait == .none || e.2.wait == .merged) &&
      s.missingLine core ctx e.2.pc == some line).map fun e => (b.uid, w.idx, e.1, e.2.pc)

/-- Blocks of a context on a core whose running stream needs a line (R54, R255). -/
def State.streamFetchers (s : State) (core ctx line : Nat) : List (Nat × Addr) :=
  s.blocks.filterMap fun b => match b.stream with
    | some t =>
      if b.core == core && b.ctx == ctx && b.halt.isNone && t.run == .running && t.pc.toNat / 128 == line then
        some (b.uid, t.pc) else none
    | none => none

/-- The streams that fetch a line halt their blocks (R254, R257, R326, R437). -/
def State.streamFetchTrap (s : State) (core ctx line : Nat) (info : TrapInfo) : State :=
  (s.streamFetchers core ctx line).foldl (fun s e => s.updBlock e.1 fun b =>
    b.takeTrap s.now 0xFE (position e.2 0) info) s

/-- The blocks that fetch a line trap (R185, R326); ADDR names the line of the header (DEDUCED, log 35). -/
def State.fetchTrap (s : State) (core ctx line cause reason : Nat) : State :=
  let info : TrapInfo := { cause := cause, reason := reason, opcode := 0, addr := BitVec.ofNat 64 (line * 128) }
  ((s.fetchers core ctx line).foldl (fun s e => lateTrap s e.1 e.2.1 (position e.2.2.2 0) info) s).streamFetchTrap core ctx line info

/-- A fetch of a line meets an abort: the fetching splits are killed, the fetching streams fault (R437). -/
def State.fetchAbort (s : State) (core ctx line : Nat) : State :=
  let s1 := (s.fetchers core ctx line).foldl (fun s e =>
    match (s.wave? e.1 e.2.1).bind fun w => w.part? e.2.2.1 with
    | some p => (s.killLanes e.1 e.2.1 p.mask).settle e.1
    | none => s) (s.withhold (some ctx))
  s1.streamFetchTrap core ctx line { cause := 10, opcode := 0, addr := BitVec.ofNat 64 (line * 128) }

/-- INSTRUCTION_FETCH_COMPLETE (R8, R185, R326, R437): the line enters the instruction cache; a fault
halts the fetching blocks at the header, an abort kills the fetching splits. -/
def execInstructionFetchComplete (core cx line : Nat) (s : State) : Out :=
  let va := BitVec.ofNat 64 (line * 128)
  let abort : State := s.fetchAbort core cx line
  if !canonical va then .next (s.fetchTrap core cx line causeProt 1)
  else
    match s.translate core cx { x := true } va with
    | .pageFault => .next (s.fetchTrap core cx line causePage 0)
    | .prot r => .next (s.fetchTrap core cx line causeProt r)
    | .abort => .next abort
    | .ok t =>
      match t.space with
      | .here => if s.isBad t.pa 128 then .next abort else .next ((s.fillTlb core cx va).icFill core cx line [])
      | .host => .next ((s.fillTlb core cx va).icFill core cx line [])
      | .remote dev slot =>
        match s.rdc.find? fun r => r.die == dieOf core && r.ctx == some cx && r.dev == dev && r.line == t.pa / 128 with
        | some r => .next ((s.fillTlb core cx va).icFill core cx line r.data)
        | none =>
          let same (q : Request) : Bool := q.owner == .code core line && q.ctx == cx
          if (s.sv.tags.any fun q => same q.req) || (s.sv.egress.any fun q => match q.req with
            | some r => same r
            | none => false) then .next s
          else .next (s.remoteRead dev slot cx (t.pa / 128 * 128) 2
            (if t.policy = 2 then none else some (dieOf core, t.policy == 1)) none (.code core line)).2

/-- DEFERRED_MOVE (R158): at a clause boundary the deferred path takes the lowest free entry. -/
def execDeferredMove (b wv : Nat) (s : State) : Out :=
  match s.wave? b wv with
  | none => .next s
  | some w =>
    if s.issues.any fun i => i.block == b && i.wave == wv then .next s
    else
      match w.deferred, w.freeEntry with
      | some p, some k => .next ((s.updWave b wv fun w => ((w.setPart k (some p)).setPart 4 none).renamePart k).settle b)
      | _, _ => .next s

/-- The count of a wave has reached the limit of WAVE.STARVE (R12). -/
def Wave.starved (w : Wave) (since : Nat → Nat) : Bool :=
  w.promoted.isNone && decide (w.starveCnt + ((w.readySince.map since).getD 0) ≥ w.starve.toNat)

/-- WAVE_PROMOTE (R12). -/
def execWavePromote (b wv : Nat) (s : State) : Out :=
  .next (s.updBlock b fun x => x.updWave wv fun w =>
    if w.starved (s.since x.core) then { w with promoted := some s.now } else w)

/-- SLEEP_EXPIRE (R188): a sleep of core cycles is over. -/
def execSleepExpire (b wv : Nat) (s : State) : Out :=
  .next (s.updBlock b fun x => x.updWave wv fun w => match w.run with
    | .sleeping t => if t ≤ s.coreCycles x.core then { w with run := .running } else w
    | _ => w)

/-- Stuck without a break for 4,096 cycles (R171). -/
def Block.deadlocked (b : Block) (since : Nat → Nat) : Bool :=
  b.halt.isNone && match b.stuckSince with
    | some t => decide (since t ≥ 4096)
    | none => false

/-- DEADLOCK_DETECT (R171, R336): the block halts with no faulting word. -/
def execDeadlockDetect (b : Nat) (s : State) : Out :=
  .next (s.updBlock b fun x =>
    if x.deadlocked (s.since x.core) then x.takeTrap s.now 0xFF 0 { cause := 8, opcode := 0 } else x)

/-- The block of a launch with an index has ended (R195, R312). -/
def State.blockEnded (s : State) (l : Launch) (idx : Nat) : Bool :=
  decide (idx < l.nextIdx) && !l.returned.contains idx &&
    !(s.blocks.any fun b => b.launch == l.uid && b.index == idx) &&
    !(s.cores.any fun c => c.pending.contains (l.uid, idx))

/-- Every member block of a set has arrived in its phase, or ended (R195). -/
def State.setDone (s : State) (l : Launch) (x : Nat) : Bool :=
  !(l.phase x).arrived.isEmpty && (l.sets.getD x []).all fun r =>
    (List.range' r.1 r.2).all fun i => (l.phase x).arrived.contains i || s.blockEnded l i

/-- A block whose live waves all wait at a set goes on from its phase, in a checkpoint taken as the last of
them arrived (R195; log 8). -/
def Block.passSet (set ph : Nat) (b : Block) : Block :=
  let at_ (p : Part) : Bool := p.wait == .gsyncPhase set ph || p.wait == .gsync set
  if b.liveWaves.all fun w => w.allParts at_ then
    { b with
      gsync := b.gsync.filter fun e => e.1 != set
      waves := b.waves.map fun w => w.mapParts fun p => if at_ p then p.past else p }
  else b

/-- SET_PHASE_COMPLETE (R195): the waiting waves of the member blocks go on. -/
def execSetPhaseComplete (l set : Nat) (s : State) : Out :=
  match s.launch? l with
  | none => .next s
  | some x =>
    if !s.setDone x set then .next s
    else
      let ph := (x.phase set).phase
      let s1 := s.updLaunch l fun y =>
        { y with phases := (set, { phase := ph + 1, arrived := [] }) :: y.phases.filter fun e => e.1 != set }
      let go (b : Block) : Block :=
        let b1 : Block := { b with gsync := b.gsync.filter fun e => e.1 != set }
        if b.halt.isSome then b1 else b1.passSets set (ph + 1)
      .next { s1 with
        blocks := s1.blocks.map fun b => if b.launch == l then go b else b
        cores := s1.cores.map fun k => { k with history := k.history.map fun y =>
          { y with blocks := y.blocks.map fun b => if b.launch == l then b.passSet set ph else b } } }

/-- A WAITV's test on a value that has been read: it holds, and the wave goes on, or it waits for the next
report (R197). -/
def State.waitTest (s : State) (b : Block) (w : Wave) (m : Word) : State :=
  match w.run with
  | .waitv a =>
    if b.halt.isSome then s
    else if waitCmp a.cmp.toNat m a.val then
      (s.acquireCaches b.core b.ctx (waitScope s b a.addr)).updWave b.uid w.idx fun w =>
        { w with run := .running }.pastPart a.part
    else s.updWave b.uid w.idx fun w => { w with run := .waitv (s.watch b { a with asked := none } (s.coreCycles b.core + 4096)) }
  | _ => s

/-- WAITV_REREAD (R197): a read like the first, with its faults and aborts. -/
def execWaitvReread (b wv : Nat) (s : State) : Out :=
  match s.block? b, s.wave? b wv with
  | some blk, some w =>
    match w.run with
    | .waitv a =>
      match (if blk.halt.isSome then none else w.part? a.part) with
      | none => .next s
      | some p =>
        match addrFault s blk.core blk.ctx blk.decl.bmem 0x7D { r := true } 4 p.mask (fun _ => a.addr) with
        | some t => .next (lateTrap (s.updWave b wv fun w => { w with run := .running }) b wv a.pos t)
        | none =>
          let r := waitRead s blk w a.addr
          if r.2 then
            .next ((s.withhold (some blk.ctx)).waitAborted b wv a)
          else
            match r.1 with
            | some m => .next (s.waitTest blk w m)
            | none =>
              match s.translate blk.core blk.ctx { r := true } a.addr with
              | .ok t =>
                match t.space with
                | .remote dev slot =>
                  let r := s.remoteRead dev slot blk.ctx t.pa 1 none none (.waitv b wv)
                  .next (r.2.updWave b wv fun w =>
                    { w with run := .waitv (s.watch blk { a with asked := some r.1 } (s.coreCycles blk.core + 4096)) })
                | _ => .next s
              | _ => .next s
    | _ => .next s
  | _, _ => .next s

end Sys2Proof.Machine
end

