-- ==== Sys2Proof/Machine/Errors.lean ====
section
/-! DEFINITION. The management error log (R450), the repair table (R443, R444), machine-check records
(R27) and the freeze (R453). -/

namespace Sys2Proof.Machine

open Sys2Proof

/-- A freeze (R453): every clock stops and every link goes down. -/
def State.freezeNow (s : State) : State :=
  { s with
    rel := { s.rel with frozen := true }
    sv := { s.sv with ports := s.sv.ports.map fun p => { p with up := false } } }

/-- The unit that reports an error-log record (R450): a core, a die's fabric, the I/O die. -/
inductive Reporter where
  | core (c : Nat)
  | die (d : Nat)
  | io
  deriving DecidableEq, Repr

/-- SOURCE of its records. -/
def Reporter.source : Reporter → Nat
  | .core c => dieOf c
  | .die d => d
  | .io => 8

/-- CLOCK of its records. -/
def Reporter.clock : Reporter → Nat
  | .core _ => 0
  | .die _ => 1
  | .io => 2

/-- The die's own reporter, by SOURCE. -/
def dieReporter (d : Nat) : Reporter := if d < 8 then .die d else .io

/-- The reporting unit's own cycle count (R450; log 1). -/
def State.localCount (s : State) : Reporter → Nat
  | .core c => s.cycleOf c
  | _ => s.svNow

/-- Append a record to the error log (R450); a TYPE in the freeze mask freezes the device once the record
is written (R453). -/
def State.logError (s : State) (typ : Nat) (who : Reporter) (payload : List Word) : State :=
  let seq := s.rel.errNext
  let rec8 : List Word :=
    [BitVec.ofNat 8 typ ++ BitVec.ofNat 8 who.source ++ (0 : BitVec 16), seq] ++
      (List.range 4).map (fun k => payload.getD k 0) ++ [BitVec.ofNat 32 (s.localCount who), BitVec.ofNat 32 who.clock]
  let s1 : State := { s with rel := { s.rel with
    errLog := setRun 0 s.rel.errLog (8 * (seq.toNat % 4096)) rec8, errNext := seq + 1 } }
  if typ < 8 && s.mgmt.freezeMask.getLsbD typ then s1.freezeNow else s1

/-- Entries of the repair table (R444). -/
def repairEntries : Nat := 16384

/-- Is entry i valid? -/
def repairValid (m : Words) (i : Nat) : Bool := (getAt 0 m (4 * i)).getLsbD 31

/-- KIND of an entry. -/
def repairKind (m : Words) (i : Nat) : Nat := ((getAt 0 m (4 * i)).extractLsb' 27 3).toNat

/-- Numbers of the valid entries, from the words that are listed. -/
def validRepairs (m : Words) : List Nat :=
  (m.filter fun e => e.1 % 4 == 0 && e.2.getLsbD 31).map fun e => e.1 / 4

/-- Lowest entry at or above i that is not valid, with fuel n. -/
def freeRepair (m : Words) : Nat → Nat → Nat
  | 0, i => i
  | n + 1, i => if repairValid m i then freeRepair m n (i + 1) else i

/-- Write a repair into the table unless the table already holds it (R443); its SEQ is the record that
follows. -/
def State.addRepair (s : State) (kind : Nat) (w1 w2 : Word) : State :=
  let m := s.rel.repairs
  if (validRepairs m).any fun i => repairKind m i == kind && getAt 0 m (4 * i + 1) == w1 && getAt 0 m (4 * i + 2) == w2
  then s
  else
    let i := freeRepair m repairEntries 0
    let w0 : Word := (1 : BitVec 1) ++ (0 : BitVec 1) ++ BitVec.ofNat 3 kind ++ (0 : BitVec 27)
    { s with rel := { s.rel with repairs := setRun 0 m (4 * i) [w0, w1, w2, s.rel.errNext] } }

/-- Word 1 of a repair of a core's part (R444). -/
def repairWord1 (core sub phys : Nat) : Word :=
  (0 : BitVec 6) ++ BitVec.ofNat 10 core ++ BitVec.ofNat 3 sub ++ (0 : BitVec 7) ++ BitVec.ofNat 6 phys

/-- Word 2 of an HBM lane swap (R444). -/
def repairWord2 (stack pch lane : Nat) : Word :=
  BitVec.ofNat 4 stack ++ BitVec.ofNat 8 pch ++ BitVec.ofNat 6 lane ++ (0 : BitVec 14)

/-- Entry j of a core's machine-check queue. -/
def mchkEntry (q : List (List Word)) (j : Nat) : List Word := q.getD j []

/-- VALID of a machine-check entry. -/
def mchkValid (e : List Word) : Bool := (e.headD 0).getLsbD 31

/-- OVF set in word 0 (R27). -/
def mchkOverflow (e : List Word) : List Word := match e with
  | w :: t => (w ||| 1) :: t
  | [] => []

/-- A machine-check record is queued in the lowest free entry, or counted as lost in the newest (R27). -/
def Core.pushMchk (c : Core) (r : List Word) : Core :=
  let q := (List.range 4).map fun j => mchkEntry c.mchk j
  match (List.range 4).find? fun j => !mchkValid (mchkEntry q j) with
  | some j => { c with mchk := updIdx j (fun _ => r) q, mchkLast := j }
  | none => { c with mchk := updIdx c.mchkLast mchkOverflow q }

/-- A machine check of a core: the record, forwarded to the error log (R27, R450). -/
def State.machineCheck (s : State) (core : Nat) (r : List Word) : State :=
  (s.updCore core fun c => c.pushMchk r).logError 1 (.core core) r

/-- A part of a core is fenced (R25, R26, R451): 2 a sub-core, 3 the array, 1 the core. -/
def Core.fence (c : Core) (kind sub : Nat) : Core :=
  match kind with
  | 1 => { c with fenced := true }
  | 2 => { c with fencedSubs := if c.fencedSubs.contains sub then c.fencedSubs else sub :: c.fencedSubs }
  | _ => { c with fencedArray := true }

end Sys2Proof.Machine
end

