-- ==== Sys2Proof/Machine/Flits.lean ====
section
/-! DEFINITION. The receiving side of the Svacon fabric: links (R359, R366-R369), forwarding (R361-R363,
R384), running totals (R370-R372), requests served (R373, R374, R377-R380), replies and timeouts
(R375, R376, R382, R383). -/

namespace Sys2Proof.Machine

open Sys2Proof

/-- A remote request ends with an abort, whoever waits for it: a code line kills its fetching splits
(R437). -/
def State.abortAny (s : State) (r : Request) : State :=
  match r.owner with
  | .code core line => s.fetchAbort core r.ctx line
  | _ => s.abortReq r

/-- A request ends at its own router: it has no route, or its token is withheld (R363, R437). -/
def State.endRequest (s : State) (x : Request × Bool) : State :=
  (if x.2 then s.withhold (some x.1.ctx) else s.svCount 13).abortAny x.1

/-- One pass over the egress queue; requests without a route end at once (R363). A packet's path is kept for as long
as a flit of it is to come (R362). -/
def State.pump (s : State) : State :=
  let r := pumpList s.sv.egress { s with sv := { s.sv with egress := [] } } [] []
  let under (p : Packet) : Bool := (p.longClass 0).isSome || r.2.1.any fun q => q.packet == p
  let s1 := { r.1 with sv := { r.1.sv with egress := r.2.1, paths := r.1.sv.paths.filter fun e => under e.1 } }
  r.2.2.foldl State.endRequest s1

/-- Flit cycles (log 1). -/
def State.flitNow (s : State) : Nat := s.now / 4

/-- Credits that a port owes go back at once in a NULL flit (R366, R368; log 1). -/
def State.returnCredits (s : State) (port : Nat) : State :=
  let p := s.port port
  if p.up && p.credit.2 != 0 then s.updPort port fun p => p.emit (s.flit 0 p.peer 0 0 []) else s

/-- A flit leaves its slot: its credit is owed to the sender (R368). -/
def State.freeSlot (s : State) (port vc : Nat) : State :=
  (s.updPort port fun p => { p with owed := updIdx vc (fun n => n + 1) p.owed }).returnCredits port

/-- A LEND flit's payload (R369). -/
def lendPayload (epoch : BitVec 4) (limits : List Nat) : List Byte :=
  [epoch.zeroExtend 8, 0] ++ limits.flatMap fun n => leBytes 2 n

/-- Flits of a VC that a port holds. -/
def Port.heldOn (p : Port) (vc : Nat) : Nat := (p.rx.filter fun e => flitVc e.2.2 == vc).length

/-- The limits of stage 1 of a round: the lower of old and new (R369). -/
def Port.stageLimits (p : Port) : List Nat :=
  if p.stage = 1 then (List.range 8).map fun v => min (p.granted.getD v 0) (p.newLimits.getD v 0) else p.newLimits

/-- Send the LEND of the stage under way. -/
def State.sendLend (s : State) (port : Nat) : State :=
  s.updPort port fun p =>
    { p.emit (s.flit 13 p.peer 0 0 (lendPayload p.epoch p.stageLimits)) with lendAt := s.flitNow }

/-- A round's stages follow the LACK that has arrived and the flits that are held (R369). -/
def State.lendStep (s : State) (port : Nat) : State :=
  let p := s.port port
  if p.stage = 1 && p.lackSeen == p.epoch &&
      (List.range 8).all fun v => decide (p.newLimits.getD v 0 ≥ p.granted.getD v 0) ||
        decide (p.heldOn v ≤ p.newLimits.getD v 0) then
    (s.updPort port fun p => { p with stage := 2, epoch := p.epoch + 1 }).sendLend port
  else if p.stage = 2 && p.lackSeen == p.epoch then
    s.updPort port fun p => { p with stage := 0, granted := p.newLimits }
  else s

/-- A flit arrives on a port (R366-R369): credits and LACK are taken, and a data flit is accepted when it
is the next in sequence; one that is not is discarded with all it carries, since it will come again (R367; log 34). -/
def State.linkRecv (s : State) (port : Nat) (f : Flit) : State × Bool :=
  if !(isLinkLocal f.typ.toNat || f.lseq == (s.port port).expect) then (s, false)
  else
    let s1 := s.updPort port fun p =>
      let p1 := { p with
        outst := updIdx f.cvc.toNat (fun n => n - f.ccnt.toNat) p.outst
        lackSeen := f.lack }
      if isLinkLocal f.typ.toNat then p1
      else { p1 with expect := p1.expect + 1, counts := updIdx (flitVc f) (fun n => n + 1) p1.counts }
    (s1.lendStep port, true)

/-- Is a flit for this device at the end of its path: not to be forwarded (R362)? -/
def State.isMine (s : State) (f : Flit) : Bool :=
  f.dst.toNat == s.own && (f.via.toNat == 1023 || f.via.toNat == s.own)

/-- Does a flit of one of these types arrive here on a port that is up and takes flits (R451)? -/
def State.arrives (s : State) (port : Nat) (f : Flit) (typ : Nat) : Bool :=
  (s.port port).up && !(s.port port).fenced && f.typ.toNat == typ && (isLinkLocal typ || s.isMine f)

/-- Flits of a class from a peer are freed (R371). -/
def State.freeClass (s : State) (peer cls n : Nat) : State :=
  s.updTotals peer cls fun t => { t with freed := t.freed + BitVec.ofNat 32 n, changed := some (t.changed.getD s.svNow) }

/-- A reply to a request flit (R374, R379, R382): its flits, sectors from 0 on, are one packet (R362). -/
def State.reply (s : State) (f : Flit) (typ : Nat) (src : Nat) (payloads : List (List Byte)) : State :=
  let n := s.freshId
  payloads.zipIdx.foldl (fun s e =>
    let g := s.flit typ f.src.toNat f.ctx.toNat clsRSP e.1
    s.enqueue (.single n.1)
      { g with src := BitVec.ofNat 10 src, tagIdx := f.tagIdx, tagGen := f.tagGen, sec := BitVec.ofNat 2 e.2 } none) n.2

/-- An ABORT reply: REASON and the address (R379). -/
def State.replyAbort (s : State) (f : Flit) (src reason addr : Nat) : State :=
  s.reply f 11 src [[BitVec.ofNat 8 reason, 0, 0, 0, 0, 0, 0, 0] ++ leBytes 8 addr]

/-- Bytes `o .. o+n-1` of a payload as a number. -/
def payNat (f : Flit) (o n : Nat) : Nat := leNat ((f.payload.drop o).take n)

/-- The grant token that a request carries. -/
def flitToken (f : Flit) : BitVec 64 := BitVec.ofNat 64 (payNat f 0 8)

/-- Key of a context's slot (R466). -/
def State.key? (s : State) (ctx slot : Nat) : Option (BitVec 128) :=
  match s.ctxs.find? fun x => x.id == ctx with
  | some c => (c.keys.find? fun e => e.1 == slot).map fun e => e.2
  | none => none

/-- Fields of a window-table entry (R378). -/
def winValid (e : BitVec 64) : Bool := e.getLsbD 63
/-- OWNER. -/
def winOwner (e : BitVec 64) : Nat := (e.extractLsb' 57 6).toNat
/-- SIZE. -/
def winSize (e : BitVec 64) : Nat := (e.extractLsb' 51 6).toNat
/-- BASE. -/
def winBase (e : BitVec 64) : Nat := (e.extractLsb' 16 24).toNat * 65536

/-- Window-table entry that a token names. -/
def State.window (s : State) (t : BitVec 64) : BitVec 64 := getAt 0 s.sv.windows (t.extractLsb' 12 12).toNat

/-- The checks of R379 after FORMAT, in order; none when the request passes. `bit` is the right it needs;
`range` is what it accesses, none for Mantle and work-record traffic (R386, R415). -/
def State.ingress (s : State) (f : Flit) (bit : Nat) (range : Option (Nat × Nat)) : Option Nat :=
  let t := flitToken f
  let e := s.window t
  if !winValid e then some 2
  else
    match s.key? (winOwner e) ((t.extractLsb' 24 1).toNat) with
    | none => some 3
    | some k =>
      let left := (t.extractLsb' 25 11).toNat + 2048 - s.sv.tick.toNat
      let ext := (t.extractLsb' 6 6).toNat
      let sub := (t.extractLsb' 0 6).toNat
      let lo := winBase e + sub * 2 ^ ext
      if t.extractLsb' 40 24 != tokenMac k t f.src.toNat s.own f.ctx.toNat then some 4
      else if left % 2048 = 0 || left % 2048 ≥ 1024 then some 5
      else if !t.getLsbD bit then some 6
      else match range with
        | none => none
        | some (a, n) =>
          if ext < 16 || ext > winSize e || (sub + 1) * 2 ^ ext > 2 ^ winSize e || a < lo || a + n > lo + 2 ^ ext
          then some 7 else none

/-- FORMAT of a remote request (R373, R379). -/
def formatBad (f : Flit) : Bool :=
  let a := payNat f 8 8
  match f.typ.toNat with
  | 1 => f.payload.length != 17 || a % 64 != 0 ||
      !(payNat f 16 1 == 1 || (payNat f 16 1 == 2 && a % 128 == 0))
  | 2 => f.payload.length != 88 || a % 64 != 0
  | _ => f.payload.length != 28 || a % 4 != 0 || decide (payNat f 16 1 > 11) || payNat f 17 3 != 0

/-- The address that an ABORT of a request names: a REC or COLL request has none (R379). -/
def abortAddr (f : Flit) : Nat := if f.typ.toNat ≤ 3 then payNat f 8 8 else 0

/-- A target refuses a request (R379). -/
def State.refuse (s : State) (f : Flit) (reason : Nat) : State :=
  let s1 := s.replyAbort f s.own reason (abortAddr f)
  if 1 ≤ reason && reason ≤ 7 then s1.svCount reason else s1

/-- A request that has arrived here leaves its slot and its class (R368, R371). -/
def State.taken (s : State) (port : Nat) (f : Flit) : State :=
  (s.freeSlot port (flitVc f)).freeClass f.src.toNat f.cls.toNat 1

/-- A remote READ, WRITE or ATOM that has arrived: `go` performs it at the address once every check has
passed (R374, R379). -/
def serve (port : Nat) (f : Flit) (s : State) (typ bit : Nat) (len : Nat) (go : State → Nat → State) : Out :=
  if !s.arrives port f typ then .next s
  else
    let r := s.linkRecv port f
    if !r.2 then .next r.1
    else
      let s1 := r.1.taken port f
      let a := payNat f 8 8
      if formatBad f then .next (s1.refuse f 1).pump
      else
        match s1.ingress f bit (some (a, len)) with
        | some reason => .next (s1.refuse f reason).pump
        | none =>
          if s1.groupFenced a then .next (s1.refuse f 9).pump
          else .next (go s1 a).pump

/-- READ_FLIT (R373, R374, R379). -/
def execReadFlit (port : Nat) (f : Flit) (s : State) : Out :=
  let n := payNat f 16 1
  serve port f s 1 39 (64 * n) fun s a =>
    if s.isBad a (64 * n) then (s.withhold none).refuse f 8
    else s.reply f 8 s.own ((List.range n).map fun k => s.memRun (a + 64 * k) 64)

/-- Write the bytes of a sector that a mask names (R373). -/
def State.maskWrite (s : State) (pa mask : Nat) (bs : List Byte) : State :=
  (bs.zipIdx).foldl (fun s e => if mask.testBit e.2 then s.pocByte (pa + e.2) e.1 none else s) s

/-- WRITE_FLIT (R373, R374, R379). -/
def execWriteFlit (port : Nat) (f : Flit) (s : State) : Out :=
  serve port f s 2 38 64 fun s a =>
    (s.maskWrite a (payNat f 16 8) ((f.payload.drop 24).take 64)).reply f 9 s.own [[]]

/-- ATOM_FLIT (R215, R373, R374, R379). -/
def execAtomFlit (port : Nat) (f : Flit) (s : State) : Out :=
  serve port f s 3 37 4 fun s a =>
    if s.isBad a 4 then (s.withhold none).refuse f 8
    else
      let old := s.mem32 a
      let new := atomOp (payNat f 16 1) old (BitVec.ofNat 32 (payNat f 20 4)) (BitVec.ofNat 32 (payNat f 24 4))
      (s.pocWrite a none (leBytes 4 new.toNat)).reply f 10 s.own [leBytes 4 old.toNat]

/-- The outstanding request that a reply names (R383). -/
def State.tagOf (s : State) (f : Flit) : Option Tag :=
  s.sv.tags.find? fun t => t.target == f.src.toNat && t.idx == f.tagIdx.toNat && t.gen == f.tagGen

/-- The tag's index is free again. -/
def State.dropTag (s : State) (t : Tag) : State :=
  { s with sv := { s.sv with tags := s.sv.tags.filter fun x => !(x.target == t.target && x.idx == t.idx) } }

/-- A reply arrives: `go` completes the request that it names; any other is dropped and counted
(R383). -/
def replied (port : Nat) (f : Flit) (s : State) (typ : Nat) (go : State → Tag → State) : Out :=
  if !s.arrives port f typ then .next s
  else
    let r := s.linkRecv port f
    if !r.2 then .next r.1
    else
      let s1 := r.1.freeSlot port (flitVc f)
      match s1.tagOf f with
      | some t => .next (go s1 t).pump
      | none => .next (s1.svCount 8).pump

/-- Bytes of an access at `pa` from sectors that have been received. -/
def gotBytes (got : List (Nat × List Byte)) (pa n : Nat) : List Byte :=
  match got.find? fun e => e.1 == pa / 64 with
  | some e => (e.2.drop (pa % 64)).take n
  | none => []

/-- The data of a remote read reach a wave's loads, and its checkpoints (R234; log 8). -/
def LoadOp.fill (rid : Nat) (bytes : Nat → Nat → List Byte) (l : LoadOp) : LoadOp :=
  { l with
    data := l.data ++ (l.waits.filter fun e => e.2.1 == rid).map fun e => (e.1, bytes e.2.2.1 e.2.2.2)
    waits := l.waits.filter fun e => e.2.1 != rid }

/-- A launch's memory wait tests a value that has been read (R304): it holds, and the read acquires for
each block that starts, or it waits for the next report. -/
def State.waitTestLaunch (s : State) (l : Launch) (m : Word) : State :=
  if l.started || l.waitDone || l.status.isSome then s
  else s.updLaunch l.uid fun x =>
    { x with waitDone := waitCmp (pktCmp x.packet) m (pw x.packet 21), lastRead := some s.now }

/-- A read's sectors are all here: its waiter receives them, and its line enters the RDC (R211, R373). -/
def State.deliver (s : State) (t : Tag) (got : List (Nat × List Byte)) : State :=
  let r := t.req
  let line := r.sector / 2
  let s1 := match r.fill with
    | some (die, streaming) =>
      let data := gotBytes got (line * 128) 64 ++ gotBytes got (line * 128 + 64) 64
      let held : RdcLine :=
        { die := die, ctx := some r.ctx, dev := t.target, line := line, streaming := streaming, data := data }
      let s1 := s.putRdc held
      (match r.l1 with
      | some (core, vline) => s1.fillLine core r.ctx (BitVec.ofNat 64 (vline * 128))
          { space := .remote t.target 0, pa := line * 128, policy := if streaming then 1 else 0 }
      | none => s1)
    | none => s
  match r.owner with
  | .load b wv => s1.updWaveAll b wv fun w => { w with loads := w.loads.map (LoadOp.fill r.rid (gotBytes got)) }
  | .copy core seq => s1.updCopy core seq fun j =>
      { j with asked := j.asked.filter fun x => x != r.rid, got := j.got ++ got.map fun e => (t.target, e.1, e.2) }
  | .ray b wv _ =>
    let bytes := gotBytes got (line * 128) 64 ++ gotBytes got (line * 128 + 64) 64
    let fill (o : RayOp) : RayOp := if o.asked.contains r.rid then
        { o with asked := o.asked.filter fun x => x != r.rid, got := o.got ++ [(t.target, line, bytes)] } else o
    s1.updWaveAll b wv fun w => { w with rays := w.rays.map fill }
  | .waitv b wv =>
    match s1.block? b, s1.wave? b wv with
    | some blk, some w => match w.run with
      | .waitv a =>
        let pa := r.sector * 64 + a.addr.toNat % 64
        if a.asked != some r.rid then s1 else match seenWord s1 blk w a.addr (gotBytes got pa 4) with
          | some m => s1.waitTest blk w m
          | none => (s1.withhold (some r.ctx)).waitAborted b wv a
      | _ => s1
    | _, _ => s1
  | .code core vline => s1.icFill core r.ctx vline (gotBytes got (line * 128) 64 ++ gotBytes got (line * 128 + 64) 64)
  | .wait l => match s1.launch? l with
    | some x => s1.waitTestLaunch x (dataWord (gotBytes got (r.sector * 64 + (pktWaddr x.packet).toNat % 64) 4) 0)
    | none => s1
  | .mread => s1.mantleAnswer r.rid (some (gotBytes got (r.sector * 64) 64))
  | _ => s1

/-- RDATA_FLIT (R374, R383). -/
def execRdataFlit (port : Nat) (f : Flit) (s : State) : Out :=
  replied port f s 8 fun s t =>
    let sec := t.req.sector + f.sec.toNat
    let got := (t.got.filter fun e => e.1 != sec) ++ [(sec, f.payload)]
    if got.length < t.req.count then
      { s with sv := { s.sv with tags := s.sv.tags.map fun x =>
          if x.target == t.target && x.idx == t.idx then { x with got := got } else x } }
    else (s.dropTag t).deliver t got

/-- WACK_FLIT (R212, R374, R383): the posted write is acknowledged. -/
def execWackFlit (port : Nat) (f : Flit) (s : State) : Out :=
  replied port f s 9 fun s t =>
    let s1 := s.dropTag t
    match t.req.owner with
    | .store b wv _ => s1.updWaveAll b wv fun w => { w with acks := w.acks.filter fun e => e.1 != t.req.rid }
    | .copy core seq => s1.updCopy core seq fun j => { j with acks := j.acks.filter fun x => x.1 != t.req.rid }
    | .record q (some (dev, slot, pa, bs)) vec => (s1.remoteWrite dev slot t.req.ctx pa bs (.record q none vec)).2
    | .record _ none (some v) => s1.raise v
    | .mput => s1.mantlePosted t.req.rid true
    | _ => s1

/-- ARSP_FLIT (R374, R383): the old value returns to its lane. -/
def execArspFlit (port : Nat) (f : Flit) (s : State) : Out :=
  replied port f s 10 fun s t =>
    match t.req.owner with
    | .atom b wv _ => (s.dropTag t).updWaveAll b wv fun w =>
        { w with
          acks := w.acks.filter fun e => e.1 != t.req.rid
          loads := w.loads.map (LoadOp.fill t.req.rid fun _ _ => f.payload.take 4) }
    | _ => s.dropTag t

/-- ABORT_FLIT (R235, R248, R379, R417): the request ends; a datum withheld at the target raises the
context's vector (R438). -/
def execAbortFlit (port : Nat) (f : Flit) (s : State) : Out :=
  replied port f s 11 fun s t =>
    let s1 := (s.dropTag t).abortAny t.req
    if payNat f 0 1 = 8 then s1.raise (32 * t.req.ctx + 19) else s1

/-- NULL_FLIT (R366, R368). -/
def execNullFlit (port : Nat) (f : Flit) (s : State) : Out :=
  if !s.arrives port f 0 then .next s else .next (s.linkRecv port f).1.pump

/-- LEND_FLIT (R369): new limits are applied unless their epoch has been applied already; a NULL flit carries the epoch
back at once, where no other flit may be at hand (R366; log 1). -/
def execLendFlit (port : Nat) (f : Flit) (s : State) : Out :=
  if !s.arrives port f 13 then .next s
  else
    let s1 := (s.linkRecv port f).1
    let epoch : BitVec 4 := (f.payload.headD 0).extractLsb' 0 4
    let s2 := if (s1.port port).applied == epoch then s1 else s1.updPort port fun p =>
      { p with applied := epoch, limits := (List.range 8).map fun v => payNat f (2 + 2 * v) 2 }
    .next (s2.updPort port fun p => p.emit (s.flit 0 p.peer 0 0 [])).pump

/-- LINK_NAK (R367): the data flits from the named one on are sent again, with the epoch that has been applied by now
(R369). -/
def execLinkNak (port : Nat) (f : Flit) (s : State) : Out :=
  if !s.arrives port f 14 then .next s
  else
    let s1 := (s.linkRecv port f).1
    let lseq := BitVec.ofNat 11 (payNat f 0 2)
    .next ((s1.updPort port fun p =>
      let now := p.replay.map fun g => { g with lack := p.applied }
      { p with replay := now, tx := p.tx ++ now.dropWhile fun g => g.lseq != lseq }).svCount 11)

/-- CRC_FAILURE (R367): the flit is discarded; for a data flit a NAK names the one expected. -/
def execCrcFailure (port : Nat) (f : Flit) (s : State) : Out :=
  if !(s.port port).up || isLinkLocal f.typ.toNat then .next s
  else .next (s.updPort port fun p => p.emit (s.flit 14 p.peer 0 0 (leBytes 2 p.expect.toNat)))

/-- LINK_TRAINING (R359, R368): the peer's LINK flit has been received. The port starts afresh: its held flits, replay
buffer, sequence numbers, outstanding counts and owed credits are cleared with the limits that R368 names (DESIGN
CHOICE, log 52: the rule gives the limits only). -/
def execLinkTraining (port peer peerPort : Nat) (s : State) : Out :=
  let want := neighbour s.own port
  let s1 := s.updPort port fun p => { p with tx := p.tx ++ [s.flit 14 peer 0 0 (leBytes 2 s.own ++ leBytes 1 port)] }
  if (s.port port).fenced || port ≥ 32 then .next s
  else if want = some peer && peerPort = portTo peer s.own then
    .next (s1.updPort port fun p =>
      { Port.fresh port with up := true, peer := peer, roundAt := s.flitNow, tx := p.tx, rx := [] }).pump
  else .next ((s1.updPort port fun p => { p with up := false }).svCount 12)

/-- Flits received in the interval, by which the slots are shared (R369). -/
def lendShares (u : List Nat) : List Nat :=
  let total := u.foldl (· + ·) 0
  if total = 0 then freshLimits
  else
    let first := u.map fun x => 8 + 448 * x / total
    let left := 512 - first.foldl (· + ·) 0
    let rank (v : Nat) : Nat := ((List.range 8).filter fun k =>
      decide (u.getD k 0 > u.getD v 0) || (u.getD k 0 == u.getD v 0 && decide (k < v))).length
    (List.range 8).map fun v => first.getD v 0 + left / 8 + (if rank v < left % 8 then 1 else 0)

/-- LENDING_ROUND (R369). -/
def execLendingRound (port : Nat) (s : State) : Out :=
  let p := s.port port
  if !p.up || s.flitNow < p.roundAt + 1024 then .next s
  else
    let s1 := s.updPort port fun p => { p with roundAt := s.flitNow, counts := List.replicate 8 0 }
    if p.stage ≠ 0 then .next s1
    else .next ((s1.updPort port fun p' =>
      { p' with stage := 1, epoch := p'.epoch + 1, newLimits := lendShares p.counts }).sendLend port)

/-- LEND_RESEND (R369). -/
def execLendResend (port : Nat) (s : State) : Out :=
  let p := s.port port
  if !p.up || p.stage = 0 || p.lackSeen == p.epoch || s.flitNow < p.lendAt + 64 then .next s
  else .next (s.sendLend port)

/-- The VC of a flit on its next link (R363). -/
def nextVc (f : Flit) : Nat := (if isResponse f.typ.toNat then 4 else 0) + f.hop.toNat + 1

/-- Where a router sends a flit that arrives: out of a port, or nowhere because it has crossed four links or its path
is cut (R361-R363). -/
inductive Way where
  | out (port : Nat)
  | tooFar
  | cut
  deriving DecidableEq, Repr

/-- A flit as it goes on: at its VIA it has none any more, and it has crossed one link more (R362, R363). -/
def State.onward (s : State) (f : Flit) : Flit :=
  { f with via := if f.via.toNat = s.own then 1023 else f.via, hop := f.hop + 1 }

/-- The way of a flit, by the table entry read now (R361-R363). -/
def State.wayOf (s : State) (f : Flit) : Way :=
  let via := (s.onward f).via.toNat
  let e := s.route (if via = 1023 then f.dst.toNat else via)
  if f.hop == 3 then .tooFar
  else if !rtValid e || !(s.port (rtPort e)).up then .cut
  else .out (rtPort e)

/-- A flit may leave on port `out`: there is room, and none of `ahead` waits for the same port and VC (R368). -/
def State.mayPass (s : State) (ahead : List (Nat × Nat × Flit)) (out : Nat) (f : Flit) : Bool :=
  decide ((s.port out).room (nextVc f) ≠ 0) && !(s.port out).fenced &&
    !(ahead.any fun e => e.2.1 == out && nextVc e.2.2 == nextVc f)

/-- A flit of a type that is not defined (R366). -/
def badType (t : Nat) : Bool := t == 6 || t == 7 || t == 15

/-- A flit whose path is cut: a request is answered, a response dropped (R363). The answer carries the
requester's target as its source, by which the requester finds the tag. -/
def State.unreach (s : State) (f : Flit) : State :=
  if isResponse f.typ.toNat then s else (s.replyAbort f f.dst.toNat 10 (abortAddr f)).svCount 13

/-- FLIT_FORWARD (R361-R363, R366): an arriving flit, or one that waits in the port's buffer for the port chosen when
it arrived, goes on. -/
def execFlitForward (port : Nat) (f : Flit) (s : State) : Out :=
  let p := s.port port
  match p.rx.find? fun e => e.2.2 == f with
  | some e =>
    let s1 := s.updPort port fun p => { p with rx := p.rx.erase e }
    if !(s.port e.2.1).up then .next (((s1.unreach f).freeSlot port (flitVc f)).lendStep port).pump
    else if s.mayPass (p.rx.takeWhile fun x => x != e) e.2.1 f then
      .next (((s1.updPort e.2.1 fun p => p.emit (s.onward f)).freeSlot port (flitVc f)).lendStep port)
    else .next s
  | none =>
    if !p.up || p.fenced || isLinkLocal f.typ.toNat || (s.isMine f && !badType f.typ.toNat) then .next s
    else
      let r := s.linkRecv port f
      if !r.2 then .next r.1
      else if badType f.typ.toNat then .next ((r.1.svCount 10).freeSlot port (flitVc f))
      else
        match r.1.wayOf f with
        | .tooFar => .next ((r.1.svCount 10).freeSlot port (flitVc f))
        | .cut => .next ((r.1.unreach f).freeSlot port (flitVc f)).pump
        | .out k =>
          if r.1.mayPass p.rx k f then .next ((r.1.updPort k fun p => p.emit (s.onward f)).freeSlot port (flitVc f))
          else .next (r.1.updPort port fun p => { p with rx := p.rx ++ [(s.svNow, k, f)] })

/-- STALE_DROP (R384): a flit that has waited 2^19 Svacon cycles is dropped. -/
def execStaleDrop (port : Nat) (s : State) : Out :=
  match (s.port port).rx.find? fun e => decide (e.1 + 2 ^ 19 ≤ s.svNow) with
  | none => .next s
  | some e => .next ((((s.updPort port fun p => { p with rx := p.rx.erase e }).svCount 9).freeSlot port (flitVc e.2.2)).lendStep
      port)

/-- Send a TOTALS flit for a peer and class (R371). -/
def State.sendTotals (s : State) (peer cls : Nat) : State :=
  let t := s.totals peer cls
  let payload := leBytes 1 cls ++ [0] ++ leBytes 2 t.tseq.toNat ++ leBytes 4 t.sent.toNat ++ leBytes 4 t.freed.toNat ++
    leBytes 4 t.limit ++ leBytes 2 (t.lastApplied.getD 0).toNat
  let n := s.freshId
  (n.2.enqueue (.single n.1) (s.flit 12 peer 0 clsRSP payload) none).updTotals peer cls fun t =>
    { t with tseq := t.tseq + 1, lastReported := t.freed, lastAt := some s.svNow, changed := none,
             sent0 := t.sent, freed0 := t.freed }

/-- A trigger of R371 that time or counting brings. -/
def Totals.due (t : Totals) (now : Nat) : Bool :=
  decide ((t.sent - t.sent0).toNat + (t.freed - t.freed0).toNat ≥ 4096) ||
  (match t.changed with
    | some x => decide (now ≥ x + 4096)
    | none => false) ||
  ((t.lastAt.any fun x => decide (now ≥ x + 65536)) && t.sent != t.peerFreed)

/-- TOTALS_SEND (R371). -/
def execTotalsSend (peer cls : Nat) (s : State) : Out :=
  if s.sv.totals.any fun t => t.peer == peer && t.cls == cls && t.due s.svNow then
    .next (s.sendTotals peer cls).pump
  else .next s

/-- REC and COLL flits that a peer has freed are over: their tags are free (R371, R382; log 47). -/
def State.freeMarked (s : State) (peer cls : Nat) (freed : Word) : State :=
  { s with sv := { s.sv with tags := s.sv.tags.filter fun t => !(t.target == peer && match t.mark with
      | some (c, m) => c == cls && decide ((freed - m).toNat < 2 ^ 31)
      | none => false) } }

/-- TOTALS_FLIT (R371, R372): applied when newer; answered when its SENT is not what was last reported.
A communicator that waits to be freed counts the exchange, and answers until it has counted two (R387; log 47). -/
def execTotalsFlit (port : Nat) (f : Flit) (s : State) : Out :=
  if !s.arrives port f 12 then .next s
  else
    let r := s.linkRecv port f
    if !r.2 then .next r.1
    else
      let s1 := r.1.freeSlot port (flitVc f)
      let peer := f.src.toNat
      let cls := payNat f 0 1
      let tseq := BitVec.ofNat 16 (payNat f 2 2)
      let t := s1.totals peer cls
      let newer := match t.lastApplied with
        | none => true
        | some x => 1 ≤ (tseq - x).toNat && (tseq - x).toNat ≤ 32767
      if !newer then .next s1.pump
      else
        let s2 := s1.updTotals peer cls fun t =>
          { t with lastApplied := some tseq, peerFreed := BitVec.ofNat 32 (payNat f 8 4), peerLimit := payNat f 12 4 }
        let quiet := s.mantle.comms.any fun c => c.id + 64 == cls && c.phase == .quiescent &&
          decide ((c.exchanges.filter fun x => x == peer).length < 2)
        let s3 : State := { s2 with mantle := { s2.mantle with comms := s2.mantle.comms.map fun c =>
          if c.id + 64 == cls && c.phase == .quiescent then { c with exchanges := peer :: c.exchanges } else c } }
        let s4 := s3.freeMarked peer cls (BitVec.ofNat 32 (payNat f 8 4))
        let again := BitVec.ofNat 32 (payNat f 4 4) != t.lastReported && t.lastAt.all fun x => decide (s.svNow ≥ x + 1024)
        .next (if again || quiet then s4.sendTotals peer cls else s4).pump

/-- REQUEST_TIMEOUT (R375, R383). -/
def execRequestTimeout (target idx : Nat) (s : State) : Out :=
  match s.sv.tags.find? fun t => t.target == target && t.idx == idx with
  | none => .next s
  | some t =>
    if s.svNow < t.sent + 2 ^ s.mgmt.svTimeout then .next s
    else
      let s1 := s.dropTag t
      let s2 : State := { s1 with sv := { s1.sv with
        gens := setAt 0 s1.sv.gens (1024 * target + idx) (t.gen + 1)
        quarantine := s1.sv.quarantine ++
          if t.req.count = 0 then [(target, idx, s.svNow + 2 ^ 23, none)]
          else (List.range t.req.count).map fun k => (target, idx, s.svNow + 2 ^ 23, some (t.req.sector + k)) } }
      .next ((s2.svCount 13).abortAny t.req).pump

/-- TAG_QUARANTINE_END (R375, R383). -/
def execTagQuarantineEnd (target idx : Nat) (s : State) : Out :=
  .next ({ s with sv := { s.sv with quarantine := s.sv.quarantine.filter fun q =>
    !(q.1 == target && q.2.1 == idx && decide (q.2.2.1 ≤ s.svNow)) } } : State).pump

/-- TARGET_TICK (R378): every 2^22 Svacon cycles. -/
def execTargetTick (s : State) : Out :=
  if s.svNow / 2 ^ 22 % 2048 = s.sv.tick.toNat then .next s
  else .next { s with sv := { s.sv with tick := s.sv.tick + 1 } }

end Sys2Proof.Machine
end

