-- ==== Sys2Proof/Machine/Mantle.lean ====
section
/-! DEFINITION. The Mantle: communicators, operations and their chunk steps, messages, loss and send streams
(17, R386-R413; 18, R419-R422). -/

namespace Sys2Proof.Machine

open Sys2Proof

/-- A communicator that is not freed. -/
def State.comm? (s : State) (id : Nat) : Option Comm := s.mantle.comms.find? fun c => c.id == id

/-- Change a communicator. -/
def State.updComm (s : State) (id : Nat) (f : Comm → Comm) : State :=
  { s with mantle := { s.mantle with comms := updFirst (fun c => c.id == id) f s.mantle.comms } }

/-- Change the operation that a communicator runs. -/
def State.updRun (s : State) (id : Nat) (f : CollRun → CollRun) : State :=
  s.updComm id fun c => { c with run := c.run.map f }

/-- Add to a counter of R418, saturating. -/
def State.mantleCount (s : State) (k n : Nat) : State :=
  let v := (getAt 0 s.mantle.counters k).toNat
  { s with mantle := { s.mantle with
    counters := setAt 0 s.mantle.counters k (BitVec.ofNat 32 (min 0xFFFFFFFF (v + n))) } }

/-- The core number by which the Mantle translates: no core's and no die's cache is its own. -/
def mantleCore : Nat := Config.nCores

/-- What a piece that the Mantle reads gives, within a sector: bytes, a fault or an abort (`withheld` when the datum is
uncorrectable), or a sector of another device that is still to be asked for: device, token slot and sector. -/
inductive Piece where
  | ok (bs : List Byte)
  | bad (withheld : Bool)
  | ask (q : Nat × Nat × Nat)
  deriving DecidableEq, Repr

/-- What the Mantle holds of a sector of another device, for a reader. -/
def State.mantleHeld (s : State) (key dev sector : Nat) : Option (Option (List Byte)) :=
  (s.mantle.reads.find? fun r => r.key == key && r.dev == dev && r.sector == sector).bind fun r => r.data

/-- One piece that the Mantle reads, within a sector (R396, R411). -/
def State.mantlePiece (s : State) (key ctx : Nat) (va : Addr) (n : Nat) : Piece :=
  if !canonical va || inAperture va then .bad false
  else
    match s.translate mantleCore ctx { r := true } va with
    | .ok t =>
      (match t.space with
      | .here => if s.isBad t.pa n then .bad true else .ok (s.memRun t.pa n)
      | .host => .ok (getRun 0 s.hostMem t.pa n)
      | .remote dev slot => match s.mantleHeld key dev (t.pa / 64) with
        | none => .ask (dev, slot, t.pa / 64)
        | some none => .bad false
        | some (some bs) => .ok ((bs.drop (t.pa % 64)).take n))
    | .abort => .bad true
    | _ => .bad false

/-- What a read of the Mantle gives: its bytes, zeros where a sector faults or aborts, how many sectors did, how many
data were withheld, and the sectors to be asked for (R410, R411, R438). -/
structure Got where
  bytes : List Byte
  bad : Nat
  withheld : Nat
  asks : List (Nat × Nat × Nat)
  deriving DecidableEq, Repr

/-- A piece of `k` bytes before the rest of a read. -/
def Got.cons (k : Nat) (p : Piece) (g : Got) : Got := match p with
  | .ok bs => { g with bytes := bs ++ g.bytes }
  | .bad w => { g with bytes := List.replicate k 0 ++ g.bytes, bad := g.bad + 1, withheld := g.withheld + if w then 1 else 0 }
  | .ask q => { g with bytes := List.replicate k 0 ++ g.bytes, asks := q :: g.asks }

/-- Read `n` bytes by sectors, with fuel (R411). `hit` says that the first access meets an abort from outside. -/
def State.mantleRead (s : State) (key ctx : Nat) (hit : Bool) (va : Addr) : Nat → Nat → Got
  | 0, _ => { bytes := [], bad := 0, withheld := 0, asks := [] }
  | _ + 1, 0 => { bytes := [], bad := 0, withheld := 0, asks := [] }
  | fuel + 1, n =>
    let k := min n (64 - va.toNat % 64)
    let p := if hit then .bad false else s.mantlePiece key ctx va k
    (s.mantleRead key ctx false (va + BitVec.ofNat 64 k) fuel (n - k)).cons k p

/-- Read `n` bytes (R396). -/
def State.mRead (s : State) (key ctx : Nat) (hit : Bool) (va : Addr) (n : Nat) : Got :=
  s.mantleRead key ctx hit va (n / 64 + 2) n

/-- Sectors are asked for, each once (R373). -/
def State.mantleAsk (s : State) (key ctx : Nat) (asks : List (Nat × Nat × Nat)) : State :=
  asks.foldl (fun s q =>
    if s.mantle.reads.any fun r => r.key == key && r.dev == q.1 && r.sector == q.2.2 then s
    else
      let r := s.remoteRead q.1 q.2.1 ctx (64 * q.2.2) 1 none none .mread
      { r.2 with mantle := { r.2.mantle with reads := r.2.mantle.reads ++
        [{ rid := r.1, key := key, dev := q.1, sector := q.2.2, data := none }] } }) s

/-- A reader waits for sectors. -/
def State.mantleWaits (s : State) (key : Nat) : Bool := s.mantle.reads.any fun r => r.key == key && r.data.isNone

/-- A reader is done with its sectors. -/
def State.mantleDone (s : State) (key : Nat) : State :=
  { s with mantle := { s.mantle with reads := s.mantle.reads.filter fun r => r.key != key } }

/-- The interrupts of data withheld from the Mantle (R438). -/
def State.withholds (s : State) (ctx n : Nat) : State := (List.range n).foldl (fun s _ => s.withhold (some ctx)) s

/-- Read bytes of a context at device scope, as the dispatcher and COMMCREATE do (R301, R347, R386): the bytes, none
when a sector faults or aborts, or the sectors to be asked for; with the interrupts that it raises. -/
def State.ctxRead (s : State) (key ctx : Nat) (va : Addr) (n : Nat) : Except (List (Nat × Nat × Nat)) (State × Option (List Byte)) :=
  let r := s.mRead key ctx false va n
  if !r.asks.isEmpty then .error r.asks
  else .ok (s.withholds ctx r.withheld, if r.bad = 0 then some r.bytes else none)

/-- Write one piece within a sector: the state, and whether it could be written. A piece on another device's page is
posted (R212, R396). -/
def State.mantlePut (s : State) (ctx : Nat) (use : PostUse) (va : Addr) (bs : List Byte) : State × Bool :=
  if !canonical va || inAperture va then (s, false)
  else
    match s.translate mantleCore ctx { w := true } va with
    | .ok t =>
      (match t.space with
      | .here => (s.pocWrite t.pa none bs, true)
      | .host => (s.hostBytes t.pa bs, true)
      | .remote dev slot =>
        let r := s.remoteWrite dev slot ctx t.pa bs .mput
        ({ r.2 with mantle := { r.2.mantle with posts := r.2.mantle.posts ++ [{ rid := r.1, use := use, done := none }] } }, true))
    | .abort => (s.withhold (some ctx), false)
    | _ => (s, false)

/-- Write bytes by sectors, with fuel; a sector that faults is left as it is and counted (R411). -/
def State.mantleWrite (ctx : Nat) (use : PostUse) : Nat → State → Bool → Addr → List Byte → State × Nat
  | 0, s, _, _, _ => (s, 0)
  | fuel + 1, s, hit, va, bs =>
    if bs.isEmpty then (s, 0)
    else
      let k := 64 - va.toNat % 64
      let put := if hit then (s, false) else s.mantlePut ctx use va (bs.take k)
      let r := State.mantleWrite ctx use fuel put.1 false (va + BitVec.ofNat 64 k) (bs.drop k)
      (r.1, r.2 + if put.2 then 0 else 1)

/-- Write bytes (R396). -/
def State.mWrite (s : State) (ctx : Nat) (use : PostUse) (hit : Bool) (va : Addr) (bs : List Byte) : State × Nat :=
  State.mantleWrite ctx use (bs.length / 64 + 2) s hit va bs

/-- Writes that are still to be answered. -/
def State.posted (s : State) (p : PostUse → Bool) : Bool := s.mantle.posts.any fun x => p x.use

/-- Header of a message without its token (R407). -/
def mantleHeader (c : Comm) (opseq step chunk kind : Nat) (inc : Bool) (flit : Nat) : List Byte :=
  leBytes 2 (c.id + 64 * c.gen) ++ leBytes 2 opseq ++ leBytes 2 step ++ leBytes 2 chunk ++
    leBytes 1 kind ++ [if inc then 1 else 0] ++ leBytes 2 flit

/-- The flits' data of a chunk: pieces of 92 bytes, the last one shorter, empty if need be (R407; log 34). -/
def flitPieces (bs : List Byte) : List (List Byte) :=
  let n := bs.length / 92
  (List.range (n + 1)).map fun i => (bs.drop (92 * i)).take 92

/-- The UET message that carries a chunk (R407-R409): a write in reliable-unordered delivery, or, for a send stream, a
send in reliable-ordered delivery; traffic class t goes as the DSCP codepoint 8t. -/
def State.uetMsg (s : State) (c : Comm) (m kind : Nat) (data : List Byte) : UetMsg :=
  { comm := c.id, peer := m, endpoint := getRun 0 s.mantle.peers (16 * m) 16, ordered := kind == 2, send := kind == 2,
    dscp := 8 * c.tclass, data := data }

/-- Send one chunk to a rank: COLL flits on Svacon, one message on Ultra Ethernet (R407, R408). A context to the peer
opens with the first (R409). `owner` is the chunk step whose buffer the flits leave (R397). -/
def State.sendChunk (s : State) (c : Comm) (peer opseq step chunk kind : Nat) (inc : Bool) (bs : List Byte)
    (owner : Option (Nat × Nat × Nat) := none) : State :=
  let m := c.members.getD peer 0
  if c.uet then
    let msg := s.uetMsg c m kind (mantleHeader c opseq step chunk kind inc 0 ++ bs)
    let pdc := (c.id, m, msg.ordered)
    { s with
      mantle :=
        { s.mantle with
          out := s.mantle.out ++ [msg],
          unacked := s.mantle.unacked ++ [msg],
          openPdc := if s.mantle.openPdc.contains pdc then s.mantle.openPdc else s.mantle.openPdc ++ [pdc] } }
  else
    let n := s.freshId
    let packet := if kind = 2 then Packet.stream c.id peer else .single n.1
    (flitPieces bs).zipIdx.foldl (fun s e =>
      let body := leBytes 8 (c.tokens.getD peer 0).toNat ++ mantleHeader c opseq step chunk kind inc e.2 ++ e.1
      (s.request m (s.flit 5 m c.ctx (64 + c.id) body) 0 0 c.ctx none none none (some packet) (.coll owner)).2) n.2

/-- Fields of a COLL descriptor (R390). -/
def collOp (d : List Word) : Nat := ((d.getD 5 0).extractLsb' 28 4).toNat
/-- FMT. -/
def collFmt (d : List Word) : Nat := ((d.getD 5 0).extractLsb' 26 2).toNat
/-- MODE. -/
def collMode (d : List Word) : Nat := ((d.getD 5 0).extractLsb' 24 2).toNat
/-- ROOT, or PEER of a CSEND. -/
def collRoot (d : List Word) : Nat := ((d.getD 5 0).extractLsb' 14 10).toNat
/-- GEN. -/
def collGen (d : List Word) : Nat := ((d.getD 5 0).extractLsb' 10 4).toNat
/-- COMM id. -/
def collComm (d : List Word) : Nat := ((d.getD 5 0).extractLsb' 4 6).toNat
/-- COUNT. -/
def collCount (d : List Word) : Nat := (d.getD 4 0).toNat
/-- SRC. -/
def collSrc (d : List Word) : Addr := d.getD 1 0 ++ d.getD 0 0
/-- DST. -/
def collDst (d : List Word) : Addr := d.getD 3 0 ++ d.getD 2 0
/-- CREC without its flags. -/
def collRec (d : List Word) : Addr := (d.getD 7 0 ++ d.getD 6 0) &&& ~~~(31 : Addr)
/-- IRQ. -/
def collIrq (d : List Word) : Bool := (d.getD 6 0).getLsbD 0
/-- WIDTH and HEIGHT of a composite. -/
def collWidth (d : List Word) : Nat := ((d.getD 4 0).extractLsb' 16 16).toNat
/-- HEIGHT. -/
def collHeight (d : List Word) : Nat := ((d.getD 4 0).extractLsb' 0 16).toNat
/-- LEN of a CSEND (R391). -/
def csendLen (d : List Word) : Nat := (d.getD 2 0).toNat

/-- DATA of an operation header (R419). -/
def opHeader (d : List Word) : List Byte :=
  leBytes 4 (d.getD 4 0).toNat ++ leBytes 4 ((d.getD 5 0).toNat / 16384 * 16384)

/-- An operation is over: its token completes, with its vector (R394, R395). -/
def State.opOver (s : State) (r : MRecord) : State :=
  let s0 : State := { s with mantle := { s.mantle with records := s.mantle.records.filter fun x => x.op.name != r.op.name } }
  let s1 := if r.failed then s0.mantleCount 6 1 else s0
  let s2 := if r.withToken then
      s1.updBlockAll r.op.block fun b =>
        let t := b.token r.op.token
        ({ b.setToken r.op.token { t with outst := t.outst.filter fun n => n != r.op.name, abort := t.abort || r.status != 1, coll := true } with
          waves := b.waves.map fun w => { w with colls := w.colls.filter fun n => n != r.op.name } })
    else s1
  if collIrq r.op.desc then s2.raise (32 * r.op.ctx + 18) else s2

/-- A record that is being written goes on (R395): once its bytes from 0x04 on are written STATUS is, and then the
operation is over. A write that fails ends it there. -/
def State.recordNext (s : State) (name : Nat) : Nat → State
  | 0 => s
  | fuel + 1 =>
    match s.mantle.records.find? fun r => r.op.name == name with
    | none => s
    | some r =>
      if s.posted fun u => u == .record name then s
      else if r.failed || r.head then s.opOver r
      else
        let q := s.mWrite r.op.ctx (.record name) false (collRec r.op.desc) (leBytes 4 r.status)
        let note (x : MRecord) : MRecord := if x.op.name = name then { x with head := true, failed := x.failed || q.2 != 0 } else x
        ({ q.1 with mantle := { q.1.mantle with records := q.1.mantle.records.map note } } : State).recordNext name fuel

/-- The completion record of an operation (R394, R395). -/
def State.collDone (s : State) (op : CollOp) (status sat lost commWord : Nat) (withToken : Bool) : State :=
  let body := leBytes 4 op.seq ++ leBytes 4 sat ++ leBytes 4 lost ++ leBytes 4 commWord ++ List.replicate 12 (0 : Byte)
  let q := s.mWrite op.ctx (.record op.name) false (collRec op.desc + 4) body
  let r : MRecord :=
    { op := op, status := status, sat := sat, lost := lost, comm := commWord, withToken := withToken, head := false,
      failed := q.2 != 0 }
  ({ q.1 with mantle := { q.1.mantle with records := q.1.mantle.records ++ [r] } } : State).recordNext op.name 2

/-- COMM word of a communicator (R386). -/
def Comm.word (c : Comm) : Nat := c.id + 64 * c.gen

/-- Is a quiescent communicator free to go (R387)? -/
def State.commDone (s : State) (c : Comm) : Bool :=
  c.phase == .quiescent && (decide (c.nranks = 1) ||
    (if c.uet then !(s.mantle.openPdc.any fun e => e.1 == c.id)
    else (c.members.filter fun m => m != s.own).all fun m =>
      decide ((c.exchanges.filter fun x => x == m).length ≥ 2)))

/-- A freed id will be issued again with the next generation (R387). -/
def State.freeComm (s : State) (c : Comm) : State :=
  { s with mantle := { s.mantle with
    comms := s.mantle.comms.filter (fun x => x.id != c.id), gens := setAt 0 s.mantle.gens c.id ((c.gen + 1) % 16) } }

/-- Packet delivery contexts of a communicator that is not ACTIVE close once the peer has acknowledged everything
(R387, R409). -/
def State.closePdc (s : State) : State :=
  let going (id : Nat) : Bool := match s.comm? id with
    | some c => c.phase != .active
    | none => true
  { s with mantle := { s.mantle with openPdc := s.mantle.openPdc.filter fun p =>
    !(going p.1 && !(s.mantle.unacked.any fun q => q.comm == p.1 && q.peer == p.2.1)) } }

/-- Work of a communicator's own that is not over: an operation in progress, its writes, its record (R387, R422). -/
def State.commBusy (s : State) (c : Comm) : Bool :=
  c.run.isSome || !c.sends.isEmpty || (c.awaits.any fun a => a.2.2.1.isSome) ||
    s.mantle.records.any fun r => collComm r.op.desc == c.id && r.comm == c.word

/-- The flits of a message are freed (R371). -/
def State.freeMsg (s : State) (c : Comm) (m : MMsg) : State :=
  if m.unfreed = 0 then s else s.freeClass (c.members.getD m.peer 0) (64 + c.id) m.unfreed

/-- Messages that are not kept leave the buffer, and their flits are freed (R371, R398). -/
def State.purge (s : State) (id : Nat) (keep : MMsg → Bool) : State :=
  match s.comm? id with
  | none => s
  | some c => ((c.inbox.filter fun m => !keep m).foldl (fun s m => s.freeMsg c m) s).updComm id fun c =>
      { c with inbox := c.inbox.filter keep }

/-- Quiescence: every accepted operation of a retiring communicator has its record; two TOTALS go to every
peer, and one without anything to wait for is freed at once (R387). -/
def State.quiesce (s : State) (id : Nat) : State :=
  match s.comm? id with
  | none => s
  | some c =>
    if c.phase == .retiring && c.queue.isEmpty && !s.commBusy c then
      let gone : Comm := { c with phase := .quiescent, exchanges := [] }
      let s1 := ((s.updComm id fun _ => gone).purge id fun _ => false).closePdc
      if s1.commDone gone then s1.freeComm gone
      else if c.uet then s1
      else (c.members.filter fun m => m != s.own).foldl (fun s m => (s.sendTotals m (64 + id)).sendTotals m (64 + id)) s1
    else s

/-- COMMRETIRE's effect on an ACTIVE communicator (R387). -/
def State.retireComm (s : State) (id : Nat) : State :=
  (s.updComm id fun c => if c.phase == .active then { c with phase := .retiring } else c).closePdc.quiesce id

/-- Chunks of at least one for `n` units of `cap`. -/
def chunksOf (n cap : Nat) : Nat := (n + cap - 1) / cap

/-- Tiles of a chunk of a ring composite: as many as 64 KiB hold in every encoding (R397, R403; log 34). -/
def ringCap : Nat := 334

/-- Chunks of a partial image of part `p`. -/
def ringChunks (area n p : Nat) : Nat := chunksOf (partLen area n p) ringCap

/-- The partial images that travel with part `p` out of rank `q` (R406): HI, and LO. -/
def ringImages (n p q : Nat) : Nat := (if p + 1 < n then 1 else 0) + (if q < p then 1 else 0)

/-- The chunk steps of an operation at a rank (R400, R405, R406, R421, R422). -/
def collActs (n r : Nat) (d : List Word) : List CollAct :=
  let count := collCount d
  let op := collOp d
  let bytes := count * elemSize (collFmt d)
  let nb := (count + 31) / 32
  let upto (k : Nat) (f : Nat → CollAct) : List CollAct := (List.range k).map f
  let prev (s : Nat) : Nat := (r + 2 * n - 1 - s) % n
  let cut (s : Nat) : Nat := (r + 2 * n - s) % n
  let codeChunks (p : Nat) : Nat := max 1 (chunksOf (partLen nb n p) 32768)
  let dataChunks (p : Nat) : Nat := chunksOf (partLen count n p) 8192
  if n ≤ 1 then
    (match op with
      | 4 => []
      | 5 => upto (chunksOf (collWidth d * collHeight d) ringCap) .copy
      | _ => upto (chunksOf bytes 65536) .copy)
  else
    match op with
    | 0 | 1 =>
      (List.range (n - 1)).flatMap (fun s => upto (codeChunks (prev s)) (.emaxReduce s)) ++
      (List.range (n - 1)).flatMap (fun s => upto (codeChunks (cut s)) (.emaxGather s)) ++
      upto (codeChunks (cut (n - 1))) .emaxLast ++
      (List.range (n - 1)).flatMap (fun s => upto (dataChunks (prev s)) (.data s)) ++
      upto (dataChunks r) .own ++
      (if op = 1 then [] else
        (List.range (n - 1)).flatMap (fun s => upto (dataChunks (cut s)) (.resGather s)) ++
        upto (dataChunks (cut (n - 1))) .resLast)
    | 2 => (List.range (n - 1)).flatMap (fun s => upto (chunksOf bytes 65536) (.gather s)) ++
        upto (chunksOf bytes 65536) .gatherLast
    | 3 => upto (chunksOf bytes 65536) .bcast
    | 4 => upto (n - 1) .barrier ++ [.barrierLast]
    | _ =>
      if n = 2 ^ n.log2 then (List.range n.log2).flatMap fun j => [.swapSend (j + 1), .swapMerge (j + 1)]
      else
        let area := collWidth d * collHeight d
        (List.range (n - 1)).flatMap (fun s =>
          upto (ringChunks area n (prev s) * ringImages n (prev s) r) (.ring s)) ++
        (List.range (ringChunks area n r)).flatMap fun k =>
          (if r = 0 then [] else [.ringLo k]) ++ (if r + 1 < n then [.ringHi k] else [])

/-- The rank before and the rank after. -/
def Comm.prevRank (c : Comm) : Nat := (c.rank + c.nranks - 1) % c.nranks
/-- The rank after. -/
def Comm.nextRank (c : Comm) : Nat := (c.rank + 1) % c.nranks

/-- Part that a data or code step of number `s` sends on: the head of its chain is the rank after it. -/
def Comm.partAt (c : Comm) (s : Nat) : Nat := (c.rank + 2 * c.nranks - 1 - s) % c.nranks

/-- Part that a gather step of number `s` sends on. -/
def Comm.gatherAt (c : Comm) (s : Nat) : Nat := (c.rank + 2 * c.nranks - s) % c.nranks

/-- The whole image as a region. -/
def wholeRegion (d : List Word) : Region := { x := 0, y := 0, w := collWidth d, h := collHeight d }

/-- What chunk `k` of what travels with part `p` is (R406; log 34): whether of HI, whose chunks come first, and which
chunk of its image. -/
def Comm.ringAt (c : Comm) (d : List Word) (p k : Nat) : Bool × Nat :=
  let m := ringChunks (collWidth d * collHeight d) c.nranks p
  if p + 1 < c.nranks then (decide (k < m), if k < m then k else k - m) else (false, k)

/-- What a chunk step waits for: sending rank, kind, step, and a chunk, or the tiles of every chunk (R420). -/
structure CollInput where
  peer : Nat
  kind : Nat
  step : Nat
  chunk : Option Nat
  tiles : List Nat
  deriving DecidableEq, Repr

/-- The input of a chunk step (R399, R420-R422). -/
def collInput (c : Comm) (d : List Word) (a : CollAct) : Option CollInput :=
  let n := c.nranks
  let one (kind step chunk : Nat) : Option CollInput :=
    some { peer := c.prevRank, kind := kind, step := step, chunk := some chunk, tiles := [] }
  match a with
  | .emaxReduce s k => if s = 0 then none else one 1 (s - 1) k
  | .emaxGather s k => one 1 (n - 2 + s) k
  | .emaxLast k => one 1 (2 * n - 3) k
  | .data s k => if s = 0 then none else one 0 (s - 1) k
  | .own k => one 0 (n - 2) k
  | .resGather s k => if s = 0 then none else one 0 (n - 2 + s) k
  | .resLast k => one 0 (2 * n - 3) k
  | .gather s k => if s = 0 then none else one 0 (s - 1) k
  | .gatherLast k => one 0 (n - 2) k
  | .bcast k => if c.rank = collRoot d then none else one 0 0 k
  | .barrier s => if s = 0 then none else one 4 (s - 1) 0
  | .barrierLast => one 4 (n - 2) 0
  | .swapSend _ => none
  | .swapMerge j =>
    let p := c.rank ^^^ 2 ^ (j - 1)
    some { peer := p, kind := 0, step := j - 1, chunk := none,
           tiles := (regionOf c.rank (wholeRegion d) j).tiles (collWidth d) }
  | .ring s k =>
    let p := c.partAt s
    if s = 0 || !((c.ringAt d p k).1 || decide (c.prevRank < p)) then none else one 0 (s - 1) k
  | .ringLo k => one 0 (n - 2) (k + if c.rank + 1 < n then ringChunks (collWidth d * collHeight d) n c.rank else 0)
  | .ringHi k => one 0 (n - 2) k
  | .copy _ => none

/-- The messages that an input names, in chunk order. -/
def Comm.inputMsgs (c : Comm) (seq : Nat) (i : CollInput) : List MMsg :=
  let l := c.inbox.filter fun m => m.peer == i.peer && m.opseq == seq && m.kind == i.kind && m.step == i.step &&
    (match i.chunk with
      | some k => m.chunk == k
      | none => true)
  l.foldr (fun m acc => acc.filter (fun x => decide (x.chunk < m.chunk)) ++ m ::
    acc.filter fun x => !decide (x.chunk < m.chunk)) []

/-- Tiles in a list of chunks, good or bad. -/
def msgTiles (mode : Nat) (ms : List MMsg) : List (Nat × Option Tile) :=
  ms.flatMap fun m => decodeTiles mode (m.data.length / 4 + 1) m.data

/-- The operation header that an input needs before it has come, if it needs one (R419). -/
def CollRun.headed (r : CollRun) (i : CollInput) : Bool :=
  i.kind != 0 || r.hdrGot.contains i.peer || (i.chunk.isNone && i.tiles.isEmpty)

/-- How far the chunks of a step have come, its tiles rising: `top` is above every wanted tile of the chunks from
number `k` on without a gap, arrived or lost (R410, R420). -/
def tileTop (mode : Nat) (want : List Nat) : Nat → Nat → List MMsg → Nat
  | _, top, [] => top
  | k, top, m :: ms =>
    if m.chunk != k || !m.closed then top
    else
      let seen := ((msgTiles mode [m]).filter fun e => e.2.isSome && want.contains e.1).map fun e => e.1 + 1
      tileTop mode want (k + 1) (seen.foldl max top) ms

/-- Every tile that a step takes has come, good or dropped, or is lost with its chunk: it has arrived itself, or a later
one has with every chunk before (R403, R410, R420). -/
def tilesHere (mode : Nat) (want : List Nat) (ms : List MMsg) : Bool :=
  let top := tileTop mode want 0 0 ms
  let seen := (msgTiles mode (ms.filter fun m => m.closed)).map fun e => e.1
  want.all fun t => decide (t < top) || seen.contains t

/-- An input is present (R399): all of it has arrived, and its operation header before it (R419), or it is
declared lost (R410). -/
def Comm.hasInput (c : Comm) (r : CollRun) (i : CollInput) : Bool :=
  let ms := c.inputMsgs r.op.seq i
  (ms.any fun m => m.lost && (i.chunk.isSome || m.allChunks)) ||
    (r.headed i &&
      match i.chunk with
      | some _ => ms.any fun m => m.closed
      | none => (ms.all fun m => m.closed) && tilesHere (collMode r.op.desc) i.tiles ms)

/-- A part of an operation that only takes what has arrived, and is no chunk step: the last gather of the codes, and a
barrier's end (R421, R422). -/
def CollAct.unarbitrated : CollAct → Bool
  | .emaxLast _ => true
  | .barrierLast => true
  | _ => false

/-- The input of an act of the running operation is present. -/
def Comm.actReady (c : Comm) (r : CollRun) (a : CollAct) : Bool := match collInput c r.op.desc a with
  | none => true
  | some i => c.hasInput r i

/-- The communicator's operation has a chunk step whose input is present. -/
def Comm.runReady (c : Comm) : Bool := match c.run with
  | none => false
  | some r => match r.todo with
    | [] => false
    | a :: _ => !a.unarbitrated && c.actReady r a

/-- Does the next step take a message? All that it takes lands in its receiving chunk (R397, R420; log 47). -/
def Comm.takesNext (c : Comm) (m : MMsg) : Bool := match c.run with
  | none => false
  | some r => match r.todo with
    | [] => false
    | a :: _ => match collInput c r.op.desc a with
      | none => false
      | some i => m.peer == i.peer && m.opseq == r.op.seq && m.kind == i.kind && m.step == i.step &&
          i.chunk.all fun k => m.chunk == k

/-- Chunks that have landed and are not the next step's (R398). -/
def Comm.early (c : Comm) : Nat := (c.inbox.filter fun m => m.landed && !m.lost && m.kind != 4 && !c.takesNext m).length

/-- A message lands: what the next step takes, an operation header, which takes no chunk, or a chunk for which there is
room beside a step's two; what is declared lost holds none (R397, R398; log 47). -/
def Comm.mayLand (c : Comm) (m : MMsg) : Bool :=
  m.landed || m.lost || m.kind == 4 || c.takesNext m || decide (c.early + 2 < c.minChunks)

/-- What has arrived lands in the order in which it came, and its flits are freed (R371, R398; log 47). -/
def State.land (s : State) (id : Nat) : State :=
  match s.comm? id with
  | none => s
  | some c => (List.range c.inbox.length).foldl (fun s i => match (s.comm? id).bind fun c => c.inbox[i]?.map fun m => (c, m) with
      | some (c, m) =>
        if c.mayLand m && (!m.landed || m.unfreed != 0) then
          (s.freeMsg c m).updComm id fun c => { c with inbox := c.inbox.set i { m with landed := true, unfreed := 0 } }
        else s
      | none => s) s

/-- A copy row is being appended to the stream to a rank (R413). -/
def State.rowOpen (s : State) (id peer : Nat) : Bool :=
  s.cores.any fun k => k.copies.any fun j => j.dstKind == 4 && decide (j.sector > 0) &&
    (match j.rows[j.row]? with
      | some (_, h) => h % 64 == id && h / 64 == peer
      | none => false)

/-- A step of a communicator has begun and reads from another device. -/
def State.stepUnder (s : State) (id : Nat) : Bool := s.mantle.reads.any fun r => r.key == id

/-- Chunk steps of a communicator whose result is still to be written or forwarded, and one that reads (R397). -/
def State.stepsHeld (s : State) (id : Nat) : Nat :=
  let mine (k name n : Nat) : Option (Nat × Nat) := if k = id then some (name, n) else none
  let writing := s.mantle.posts.filterMap fun p => match p.use with
    | .dst k name n => mine k name n
    | _ => none
  let sending := s.sv.egress.filterMap fun q => match q.req.map fun r => r.owner with
    | some (ReqOwner.coll (some (k, name, n))) => mine k name n
    | _ => none
  (writing ++ sending).eraseDups.length + if s.stepUnder id then 1 else 0

/-- Chunks of the buffer that a communicator holds (R397, R398): two for each step, and one for each chunk that has
landed beside the next step's input, which lands in that step's own. -/
def State.chunksHeld (s : State) (c : Comm) : Nat := 2 * s.stepsHeld c.id + c.early

/-- Chunks that no communicator owns and that are not lent (R398). -/
def State.chunksLendable (s : State) : Nat :=
  Config.nChunks - s.mantle.comms.foldl (fun n c => n + max c.minChunks (s.chunksHeld c)) 0

/-- The two chunks of a communicator's next step are free (R397, R398): its own, or, when none of its own is free, lent
ones. -/
def State.chunksFree (s : State) (c : Comm) : Bool :=
  let own := c.minChunks - s.chunksHeld c
  decide (own ≥ 2) || (own == 0 && decide (s.chunksLendable ≥ 2))

/-- A communicator is ready: a step of its operation, or of a send stream, has its input and its chunks (R399). -/
def State.commReady (s : State) (c : Comm) : Bool :=
  (c.runReady || (match c.sends with
    | [] => false
    | j :: _ => !s.rowOpen c.id j.peer)) && !s.mantleWaits c.id && (s.stepUnder c.id || s.chunksFree c)

/-- Note since when each communicator has been ready (R399). -/
def State.noteMantle (s : State) : State :=
  { s with mantle := { s.mantle with comms := s.mantle.comms.map fun c =>
    { c with readySince := if s.commReady c then some (c.readySince.getD s.svNow) else none } } }

/-- The header of an operation that has ended here arrives (R393): its sender has this rank's own header if the two
differ, and from a BCAST's receiver in any case, once; a difference retires the communicator. -/
def State.answerEnded (s : State) (id peer opseq : Nat) (data : List Byte) : State :=
  match s.comm? id with
  | none => s
  | some c => match c.past.find? fun e => e.1 == opseq with
    | none => s
    | some (_, d, sent) =>
      let answers := data != opHeader d || (collOp d == 3 && c.rank != collRoot d && peer == c.prevRank)
      let note (e : Nat × List Word × List Nat) : Nat × List Word × List Nat :=
        if e.1 = opseq then (e.1, e.2.1, peer :: e.2.2) else e
      let s1 := if answers && !sent.contains peer then
          (s.sendChunk c peer opseq 0 0 4 false (opHeader d)).updComm id fun c => { c with past := c.past.map note }
        else s
      if data != opHeader d then s1.retireComm id else s1

/-- The running operation completes (R395): its record, its token, and what it leaves in the buffer. What it was and to
whom its header has gone is kept for as long as its number stands for it, and headers that it has not compared are
answered now (R393). -/
def State.endRun (s : State) (id status : Nat) (withToken : Bool) : State :=
  match s.comm? id with
  | none => s
  | some c =>
    match c.run with
    | none => s
    | some r =>
      let st := if status ≠ 0 then status else if r.status ≠ 0 then r.status else if r.lost ≠ 0 then 2 else 1
      let k := if collOp r.op.desc = 5 then 2 else 3
      let kept (e : Nat × List Word × List Nat) : Bool := decide ((c.opseq + 65536 - e.1) % 65536 < 32768)
      let s1 := (((s.mantleDone id).mantleCount k r.lost).mantleCount 4 r.sat).updComm id fun c =>
        { c with run := none, past := (r.op.seq, r.op.desc, r.hdrSent) :: c.past.filter kept }
      let late := c.inbox.filter fun m => m.kind == 4 && m.closed && !m.lost && m.opseq == r.op.seq &&
        !r.hdrGot.contains m.peer && !r.hdrSent.contains m.peer
      let s2 := (s1.purge id fun m => m.opseq != r.op.seq).collDone r.op st r.sat r.lost c.word withToken
      (late.foldl (fun s m => s.answerEnded id m.peer r.op.seq m.data) s2).quiesce id

/-- Both ranks complete with MISMATCH and retire the communicator (R393): nothing more of the operation takes place
here. -/
def State.mismatch (s : State) (id : Nat) : State :=
  ((s.mantleDone id).updRun id fun r => { r with todo := [], status := 4 }).retireComm id

/-- An operation header from a rank against the running operation (R393, R419). -/
def State.checkHeader (s : State) (c : Comm) (r : CollRun) (m : MMsg) : State :=
  let send (s : State) : State :=
    (s.sendChunk c m.peer r.op.seq 0 0 4 false (opHeader r.op.desc)).updRun c.id fun r =>
      { r with hdrSent := m.peer :: r.hdrSent }
  if m.data != opHeader r.op.desc then
    (if r.hdrSent.contains m.peer then s else send s).mismatch c.id
  else
    let s1 := s.updRun c.id fun r => { r with hdrGot := m.peer :: r.hdrGot.filter fun p => p != m.peer }
    if collOp r.op.desc = 3 && c.rank != collRoot r.op.desc && m.peer == c.prevRank then send s1 else s1

/-- May the running operation compare a header now? The root of a BCAST does once it has written and sent all (R393,
R422); a rank that has compared one from a peer does so again only for each step of a BARRIER (R419). -/
def Comm.compares (c : Comm) (r : CollRun) (m : MMsg) : Bool :=
  m.opseq == r.op.seq && r.status != 4 && (collOp r.op.desc == 4 || !r.hdrGot.contains m.peer) &&
    !(collOp r.op.desc == 3 && c.rank == collRoot r.op.desc && !r.todo.isEmpty)

/-- Headers that have arrived are compared (R419). -/
def State.checkHeaders (s : State) (id : Nat) : State :=
  match s.comm? id with
  | none => s
  | some c => (c.inbox.filter fun m => m.kind == 4 && m.closed && !m.lost).foldl (fun s m =>
      match (s.comm? id).bind fun c => c.run.map fun r => (c, r) with
      | some (c, r) => if c.compares r m then s.checkHeader c r m else s
      | none => s) s

/-- The operation that a communicator begins (R413, R422). -/
def Comm.begin_ (c : Comm) (op : CollOp) (now : Nat) : Comm :=
  if op.csend then
    { c with sends := c.sends ++ [{ op := op, peer := collRoot op.desc, start := op.pos, sent := 0, lost := 0 }] }
  else
    { c with run := some { op := op, todo := collActs c.nranks c.rank op.desc, codes := [], image := [], spoiled := [],
                           status := 0, sat := 0, lost := 0, hdrSent := [], hdrGot := [], since := now } }

/-- The next operation of the queue begins once the previous one has completed (R393, R422). -/
def State.beginNext (s : State) (id : Nat) : State :=
  match s.comm? id with
  | none => s
  | some c =>
    match c.queue with
    | op :: rest => if s.commBusy c then s else (s.updComm id fun c => ({ c with queue := rest } : Comm).begin_ op s.svNow).checkHeaders id
    | [] => s

/-- The sending rank of a BCAST waits for its successor's answer (R393, R422). -/
def Comm.awaitsAnswer (c : Comm) (r : CollRun) : Bool :=
  collOp r.op.desc == 3 && r.status != 4 && decide (c.nranks ≥ 2) && c.nextRank != collRoot r.op.desc &&
    !r.hdrGot.contains c.nextRank && r.hdrSent.contains c.nextRank

/-- A chunk step under way: the state and what the step has found, of operation `name` of communicator `key` with
`step` acts left; `hit` says that its first access meets an abort from outside, `asks` what it still has to read from
another device. -/
structure Chunk where
  st : State
  key : Nat
  name : Nat
  step : Nat
  hit : Bool
  inc : Bool := false
  lost : Nat := 0
  fault : Bool := false
  asks : List (Nat × Nat × Nat) := []
  deriving DecidableEq, Repr

/-- Sectors of a run of bytes. -/
def sectorsOf (n : Nat) : Nat := (n + 63) / 64

/-- Read bytes of SRC within a step, with how many sectors were bad (R411). -/
def Chunk.fetch (x : Chunk) (ctx : Nat) (va : Addr) (n : Nat) : List Byte × Nat × Chunk :=
  let r := x.st.mRead x.key ctx x.hit va n
  (r.bytes, r.bad, { x with st := x.st.withholds ctx r.withheld, hit := x.hit && n == 0, asks := x.asks ++ r.asks })

/-- Read bytes of SRC within a step (R411). -/
def Chunk.read (x : Chunk) (ctx : Nat) (va : Addr) (n : Nat) : List Byte × Chunk :=
  let r := x.fetch ctx va n
  (r.1, { r.2.2 with inc := x.inc || r.2.1 != 0, lost := x.lost + r.2.1, fault := x.fault || r.2.1 != 0 })

/-- Write bytes of DST within a step, with how many sectors were bad (R411). -/
def Chunk.put (x : Chunk) (ctx : Nat) (va : Addr) (bs : List Byte) : Nat × Chunk :=
  let r := x.st.mWrite ctx (.dst x.key x.name x.step) x.hit va bs
  (r.2, { x with st := r.1, hit := x.hit && bs.isEmpty, fault := x.fault || r.2 != 0 })

/-- Write bytes of DST within a step (R411). -/
def Chunk.write (x : Chunk) (ctx : Nat) (va : Addr) (bs : List Byte) : Chunk :=
  let r := x.put ctx va bs
  { r.2 with lost := x.lost + r.1 }

/-- Send a KIND 0 chunk of the running operation, its header first if the peer has not had it (R419). -/
def Chunk.send (x : Chunk) (c : Comm) (op : CollOp) (peer step chunk kind : Nat) (bs : List Byte) : Chunk :=
  let had := match (x.st.comm? c.id).bind fun c => c.run with
    | some r => r.hdrSent.contains peer
    | none => true
  let s1 := if kind = 0 && !had then
      (x.st.sendChunk c peer op.seq 0 0 4 false (opHeader op.desc)).updRun c.id fun r =>
        { r with hdrSent := peer :: r.hdrSent }
    else x.st
  { x with st := s1.sendChunk c peer op.seq step chunk kind x.inc bs (some (x.key, x.name, x.step)) }

/-- The bytes of a step's single chunk, zeros where it is lost or short (R410). -/
def Chunk.take (x : Chunk) (ms : List MMsg) (n unit : Nat) : List Byte × Chunk :=
  match ms.find? fun m => !m.lost && m.closed with
  | some m =>
    ((m.data ++ List.replicate n (0 : Byte)).take n,
     { x with inc := x.inc || m.incomplete, lost := x.lost + if m.incomplete then unit else 0 })
  | none => (List.replicate n 0, { x with inc := true, lost := x.lost + unit })

/-- Elements of the input as exact values. -/
def elems (fmt n : Nat) (bs : List Byte) : List Num :=
  (List.range n).map fun i => unpack (redFmt fmt) (leNat ((bs.drop (elemSize fmt * i)).take (elemSize fmt)))

/-- Block codes of the input from block `lo` (R421): position 32 lo + i is element i. -/
def ownCodes (xs : List Num) (n : Nat) : List Nat :=
  (List.range n).map fun b => blockCode ((xs.drop (32 * b)).take 32)

/-- A code array in 2-byte little-endian codes. -/
def codeBytes (ks : List Nat) : List Byte := ks.flatMap fun k => leBytes 2 k

/-- Codes in such bytes. -/
def readCodes (n : Nat) (bs : List Byte) : List Nat := (List.range n).map fun i => leNat ((bs.drop (2 * i)).take 2)

/-- Tiles of the input image, and those that could not be read (R402, R411). -/
def Chunk.readTiles (x : Chunk) (op : CollOp) : List Nat → List (Nat × List Byte) × List Nat × Chunk
  | [] => ([], [], x)
  | t :: rest =>
    let r := x.fetch op.ctx (collSrc op.desc + BitVec.ofNat 64 (192 * t)) 192
    let mine := if r.2.1 = 0 then r.1 else (blankTile (collMode op.desc)).flatMap pixelBytes
    let y : Chunk := if r.2.1 = 0 then r.2.2 else { r.2.2 with inc := true, lost := x.lost + 1, fault := true }
    let q := y.readTiles op rest
    ((t, mine) :: q.1, (if r.2.1 = 0 then q.2.1 else t :: q.2.1), q.2.2)

/-- Write tiles to DST at their places (R405). -/
def Chunk.writeTiles (x : Chunk) (op : CollOp) (ts : List (Nat × List Byte)) : Chunk :=
  ts.foldl (fun x t =>
    let r := x.put op.ctx (collDst op.desc + BitVec.ofNat 64 (192 * t.1)) t.2
    { r.2 with lost := x.lost + (if r.1 = 0 then 0 else 1) }) x

/-- Tile `t` of a list. -/
def tileOf (mode : Nat) (l : List (Nat × List Byte)) (t : Nat) : Tile :=
  match l.find? fun e => e.1 == t with
  | some e => readTile e.2
  | none => blankTile mode

/-- An encoded tile that has arrived: its index, the tile unless it is dropped, and whether its chunk is INCOMPLETE. -/
abbrev InTile := Nat × Option Tile × Bool

/-- The encoded tiles of a step's chunks that are not lost, in order. -/
def inTiles (mode : Nat) (ms : List MMsg) : List InTile :=
  (ms.filter fun m => !m.lost && m.closed).flatMap fun m => (msgTiles mode [m]).map fun e => (e.1, e.2, m.incomplete)

/-- The received tiles of a list of indices, background where a tile is lost or dropped, and those of them that lost
something. A tile that cannot be decoded or lies outside the list is dropped, counted, and counts as lost, and so does
one that has not come at all (R403, R410). -/
def Chunk.takeTiles (x : Chunk) (mode : Nat) (got : List InTile) (want : List Nat) : List (Nat × Tile) × List Nat × Chunk :=
  let good (t : Nat) : Option (Tile × Bool) := (got.find? fun e => e.1 == t && e.2.1.isSome).bind fun e => e.2.1.map fun y => (y, e.2.2)
  let bad := (got.filter fun e => e.2.1.isNone || !want.contains e.1).map fun e => e.1
  let absent := want.filter fun t => (good t).isNone
  let marked := want.filter fun t => (good t).any fun e => e.2
  (want.map fun t => (t, ((good t).map fun e => e.1).getD (blankTile mode)), absent ++ marked,
   { x with st := x.st.mantleCount 1 bad.length, inc := x.inc || !(absent ++ marked).isEmpty,
            lost := x.lost + bad.length + (absent.filter fun t => !bad.contains t).length + marked.length })

/-- Send encoded tiles in chunks of at most 64 KiB, INCOMPLETE where a tile of the chunk is spoiled (R410,
R420). -/
def Chunk.sendTiles (x : Chunk) (c : Comm) (op : CollOp) (peer step : Nat) (spoiled : List Nat) (ts : List (Nat × Tile)) :
    Chunk :=
  let enc := ts.map fun e => (encodeTile (collMode op.desc) e.1 e.2, spoiled.contains e.1)
  (packChunks 65536 ([], false) enc).zipIdx.foldl (fun y e =>
    { ({ y with inc := x.inc || e.1.2 } : Chunk).send c op peer step e.2 0 e.1.1 with inc := x.inc }) x

/-- One chunk step of the e_max pass (R421). -/
def emaxStep (c : Comm) (r : CollRun) (ms : List MMsg) (x : Chunk) (part k step : Nat) (own recv keep send : Bool) :
    Chunk :=
  let d := r.op.desc
  let nb := (collCount d + 31) / 32
  let lo := partLo nb c.nranks part + 32768 * k
  let n := min 32768 (partLen nb c.nranks part - 32768 * k)
  let size := elemSize (collFmt d)
  let cnt := min (32 * n) (collCount d - 32 * lo)
  let a : List Nat × Chunk := if own then
      let q := x.read r.op.ctx (collSrc d + BitVec.ofNat 64 (32 * lo * size)) (cnt * size)
      (ownCodes (elems (collFmt d) cnt q.1) n, if x.hit then q.2 else { q.2 with inc := x.inc, lost := x.lost, fault := x.fault })
    else (List.replicate n 0, x)
  let b : List Nat × Chunk := if recv then
      let q := a.2.take ms (2 * n) (sectorsOf (2 * n))
      (readCodes n q.1, q.2)
    else (List.replicate n 0, a.2)
  let out := (a.1.zip b.1).map fun e => max e.1 e.2
  let y := if keep then { b.2 with st := b.2.st.updRun c.id fun r => { r with codes := setRun 0 r.codes lo out } } else b.2
  if send then y.send c r.op c.nextRank step k 1 (codeBytes out) else y

/-- One chunk step of the data pass (R84, R421): the q values of a chunk, with what has come along the
chain. -/
def dataStep (c : Comm) (r : CollRun) (ms : List MMsg) (x : Chunk) (part k : Nat) (recv : Bool) :
    List Int × Nat × Chunk :=
  let d := r.op.desc
  let lo := partLo (collCount d) c.nranks part + 8192 * k
  let n := min 8192 (partLen (collCount d) c.nranks part - 8192 * k)
  let size := elemSize (collFmt d)
  let h := ceilLog2 c.nranks
  let q := x.read r.op.ctx (collSrc d + BitVec.ofNat 64 (lo * size)) (n * size)
  let own := (elems (collFmt d) n q.1).zipIdx.map fun e => qOf h (getAt 0 r.codes ((lo + e.2) / 32)) e.1
  if recv then
    let t := q.2.take ms (6 * n) (sectorsOf (n * size))
    let got := (List.range n).map fun i => qRead (t.1.drop (6 * i))
    ((own.zip got).map (fun e => qAdd e.1 e.2), lo, t.2)
  else (own, lo, q.2)

/-- The tiles of chunk `k` of part `p` of a ring composite (R406). -/
def ringTiles (c : Comm) (d : List Word) (p k : Nat) : List Nat :=
  let area := collWidth d * collHeight d
  List.range' (partLo area c.nranks p + ringCap * k) (min ringCap (partLen area c.nranks p - ringCap * k))

/-- The rank's own fragment of a list of tiles, read from SRC (R406, R411). -/
def Chunk.ownTiles (x : Chunk) (op : CollOp) (want : List Nat) : List (Nat × Tile) × Chunk :=
  let q := x.readTiles op want
  (q.1.map fun e => (e.1, readTile e.2), q.2.2)

/-- The tiles that a step's chunk brings (R406, R410). -/
def Chunk.ringTake (x : Chunk) (mode : Nat) (ms : List MMsg) (want : List Nat) : List (Nat × Tile) × Chunk :=
  let q := x.takeTiles mode (inTiles mode ms) want
  (q.1, q.2.2)

/-- F over B, of the same tiles (R404). -/
def overTiles (mode : Nat) (f b : List (Nat × Tile)) : List (Nat × Tile) :=
  (f.zip b).map fun e => (e.1.1, mergeTile mode e.1.2 e.2.2)

/-- One chunk of a part on its way along the chain (R406): the rank's own fragment is merged as the back of the partial
image that it belongs to, HI for a rank above the part's owner and LO for one below, and the other goes on as it is. -/
def ringStep (c : Comm) (r : CollRun) (ms : List MMsg) (x : Chunk) (s k : Nat) : Chunk :=
  let d := r.op.desc
  let mode := collMode d
  let p := c.partAt s
  let at_ := c.ringAt d p k
  let want := ringTiles c d p at_.2
  let got := if (collInput c d (.ring s k)).isSome then
      let q := x.ringTake mode ms want
      (some q.1, q.2)
    else (none, x)
  let out := if at_.1 && c.rank < p then (got.1.getD [], got.2)
    else
      let own := got.2.ownTiles r.op want
      (match got.1 with
        | some f => overTiles mode f own.1
        | none => own.1, own.2)
  out.2.send c r.op c.nextRank s k 0 (out.1.flatMap fun e => encodeTile mode e.1 e.2)

/-- A part's owner merges a chunk of LO over its own fragment, and what that gives over HI's chunk; the last of them is
written (R406). -/
def ringEnd (c : Comm) (r : CollRun) (ms : List MMsg) (x : Chunk) (hi : Bool) (k : Nat) : Chunk :=
  let d := r.op.desc
  let mode := collMode d
  let want := ringTiles c d c.rank k
  let got := x.ringTake mode ms want
  let mine := if hi && c.rank != 0 then (want.map fun t => (t, tileOf mode r.image t), got.2) else got.2.ownTiles r.op want
  let out := (if hi then overTiles mode mine.1 got.1 else overTiles mode got.1 mine.1).map fun e =>
    (e.1, e.2.flatMap pixelBytes)
  if hi || c.rank + 1 = c.nranks then
    let y := mine.2.writeTiles r.op out
    { y with st := y.st.updRun c.id fun r => { r with image := [] } }
  else { mine.2 with st := mine.2.st.updRun c.id fun r => { r with image := out } }

/-- The effect of one chunk step on the state (R397, R400-R406, R420-R422). SAT counts the elements of the part that the
rank owns (DEDUCED, log 33). -/
def collStep (c : Comm) (r : CollRun) (ms : List MMsg) (x : Chunk) (a : CollAct) : Chunk :=
  let op := r.op
  let d := op.desc
  let n := c.nranks
  let size := elemSize (collFmt d)
  let count := collCount d
  let bytes := count * size
  let piece (k : Nat) : Nat := min 65536 (bytes - 65536 * k)
  let at_ (base : Addr) (off : Nat) : Addr := base + BitVec.ofNat 64 off
  let mode := collMode d
  match a with
  | .emaxReduce s k => emaxStep c r ms x (c.partAt s) k s true (s != 0) false true
  | .emaxGather s k => emaxStep c r ms x (c.gatherAt s) k (n - 1 + s) (s == 0) true true true
  | .emaxLast k => emaxStep c r ms x (c.gatherAt (n - 1)) k 0 false true true false
  | .data s k =>
    let q := dataStep c r ms x (c.partAt s) k (s != 0)
    q.2.2.send c op c.nextRank s k 0 (q.1.flatMap qBytes)
  | .own k =>
    let q := dataStep c r ms x c.rank k true
    let h := ceilLog2 n
    let res := q.1.zipIdx.map fun e => qResult (collFmt d) h (getAt 0 r.codes ((q.2.1 + e.2) / 32)) e.1
    let bs := res.flatMap fun e => leBytes size e.1
    let off := if collOp d = 1 then q.2.1 - partLo count n c.rank else q.2.1
    let y := q.2.2.write op.ctx (at_ (collDst d) (off * size)) bs
    { y with st := y.st.updRun c.id fun r =>
        { r with
          sat := r.sat + (res.filter fun e => e.2).length
          image := r.image ++ [(k, bs)]
          spoiled := if y.inc then k :: r.spoiled else r.spoiled } }
  | .resGather s k =>
    let p := c.gatherAt s
    let m := min 8192 (partLen count n p - 8192 * k) * size
    let q : List Byte × Chunk := if s = 0 then
        (((r.image.find? fun e => e.1 == k).map fun e => e.2).getD [], { x with inc := x.inc || r.spoiled.contains k })
      else
        let t := x.take ms m (sectorsOf m)
        (t.1, t.2.write op.ctx (at_ (collDst d) ((partLo count n p + 8192 * k) * size)) t.1)
    q.2.send c op c.nextRank (n - 1 + s) k 0 q.1
  | .resLast k =>
    let p := c.gatherAt (n - 1)
    let m := min 8192 (partLen count n p - 8192 * k) * size
    let t := x.take ms m (sectorsOf m)
    t.2.write op.ctx (at_ (collDst d) ((partLo count n p + 8192 * k) * size)) t.1
  | .gather s k =>
    let p := c.gatherAt s
    let q := if s = 0 then x.read op.ctx (at_ (collSrc d) (65536 * k)) (piece k)
      else x.take ms (piece k) (sectorsOf (piece k))
    let y := q.2.write op.ctx (at_ (collDst d) (p * bytes + 65536 * k)) q.1
    y.send c op c.nextRank s k 0 q.1
  | .gatherLast k =>
    let q := x.take ms (piece k) (sectorsOf (piece k))
    q.2.write op.ctx (at_ (collDst d) (c.gatherAt (n - 1) * bytes + 65536 * k)) q.1
  | .bcast k =>
    let q := if c.rank = collRoot d then x.read op.ctx (at_ (collSrc d) (65536 * k)) (piece k)
      else x.take ms (piece k) (sectorsOf (piece k))
    let y := q.2.write op.ctx (at_ (collDst d) (65536 * k)) q.1
    if c.nextRank = collRoot d then y else y.send c op c.nextRank 0 k 0 q.1
  | .barrier s =>
    let y := if s = 0 then x else (x.take ms 0 1).2
    { y with st := y.st.sendChunk c c.nextRank op.seq s 0 4 false (opHeader d) (some (x.key, x.name, x.step)) }
  | .barrierLast => (x.take ms 0 1).2
  | .swapSend j =>
    let start : List (Nat × List Byte) × List Nat × Chunk :=
      if j = 1 then x.readTiles op ((wholeRegion d).tiles (collWidth d)) else (r.image, r.spoiled, x)
    let halves := splitRegion j (regionOf c.rank (wholeRegion d) (j - 1))
    let upper := c.rank.testBit (j - 1)
    let keep := (if upper then halves.2 else halves.1).tiles (collWidth d)
    let give := if upper then halves.1 else halves.2
    let y := ({ start.2.2 with inc := false } : Chunk).sendTiles c op (c.rank ^^^ 2 ^ (j - 1)) (j - 1) start.2.1
      ((give.tiles (collWidth d)).map fun t => (t, tileOf mode start.1 t))
    { y with st := y.st.updRun c.id fun r =>
        { r with image := start.1.filter fun e => keep.contains e.1, spoiled := start.2.1.filter fun t => keep.contains t } }
  | .swapMerge j =>
    let mine := (regionOf c.rank (wholeRegion d) j).tiles (collWidth d)
    let q := x.takeTiles mode (inTiles mode ms) mine
    let upper := c.rank.testBit (j - 1)
    let out := q.1.map fun e =>
      let m := tileOf mode r.image e.1
      (e.1, (if upper then mergeTile mode e.2 m else mergeTile mode m e.2).flatMap pixelBytes)
    let y : Chunk := { q.2.2 with st := q.2.2.st.updRun c.id fun r =>
        { r with image := out, spoiled := mine.filter fun t => r.spoiled.contains t || q.2.1.contains t } }
    if 2 ^ j = n then y.writeTiles op out else y
  | .ring s k => ringStep c r ms x s k
  | .ringLo k => ringEnd c r ms x false k
  | .ringHi k => ringEnd c r ms x true k
  | .copy k =>
    if collOp d = 5 then
      let area := collWidth d * collHeight d
      let own := x.ownTiles op (List.range' (ringCap * k) (min ringCap (area - ringCap * k)))
      own.2.writeTiles op (own.1.map fun e => (e.1, (mergeTile mode e.2 (blankTile mode)).flatMap pixelBytes))
    else
      let q := x.read op.ctx (at_ (collSrc d) (65536 * k)) (piece k)
      q.2.write op.ctx (at_ (collDst d) (65536 * k)) q.1

/-- The messages that an act takes. -/
def Comm.actMsgs (c : Comm) (r : CollRun) (a : CollAct) : List MMsg := match collInput c r.op.desc a with
  | some i => c.inputMsgs r.op.seq i
  | none => []

/-- An act that begins: what it will have found. -/
def CollRun.start (r : CollRun) (c : Comm) (s : State) : Chunk :=
  { st := s, key := c.id, name := r.op.name, step := r.todo.length, hit := c.abortNext }

/-- The next act of a communicator's operation takes place: the state after it, or the sectors of another device that it
has to read first. What is declared lost stays marked, so that nothing late is taken (R410). -/
def State.runStep (s : State) (c : Comm) (r : CollRun) (a : CollAct) : State :=
  let ms := c.actMsgs r a
  let x := collStep c r ms (r.start c s) a
  if !x.asks.isEmpty then s.mantleAsk c.id r.op.ctx x.asks
  else
    let s1 := ((x.st.mantleDone c.id).updRun c.id fun r =>
      { r with
        todo := r.todo.tail
        since := s.svNow
        lost := r.lost + x.lost
        status := if x.fault then 5 else r.status }).updComm c.id fun c => { c with abortNext := x.hit }
    s1.purge c.id fun m => m.lost || !ms.contains m

/-- What follows a chunk step or an arrival: what may land does, what needs no arbitration takes place, operations whose steps are done
complete once their writes are performed, and the next begin (R395, R421, R422). -/
def State.advance (s0 : State) (id : Nat) : Nat → State
  | 0 => s0
  | n + 1 =>
    let s := s0.land id
    match s.comm? id with
    | none => s
    | some c =>
      match c.run with
      | none => if c.queue.isEmpty || s.commBusy c then s else (s.beginNext id).advance id n
      | some r =>
        match r.todo with
        | a :: _ => if a.unarbitrated && c.actReady r a then (s.runStep c r a).advance id n else s
        | [] =>
          let s1 := s.checkHeaders id
          match (s1.comm? id).bind fun c => c.run.map fun r => (c, r) with
          | none => s1
          | some (c, r) =>
            let writing := s1.posted fun u => match u with
              | .dst k name _ => k == id && name == r.op.name
              | _ => false
            if c.awaitsAnswer r || writing then s1 else (s1.endRun id 0 true).advance id n

/-- The Mantle after an event of communicator `id`. -/
def State.mantleNext (s : State) (id : Nat) : State :=
  let acts := match s.comm? id with
    | some c => match c.run with
      | some r => r.todo.length
      | none => 0
    | none => 0
  ((s.advance id (acts + 40)).noteMantle).pump

/-- The next chunk of a CSEND is sent, numbered by CHUNK from 0 (R391, R407, R411, R413). -/
def State.sendStep (s : State) (c : Comm) (j : SendJob) : State :=
  let len := csendLen j.op.desc
  let n := min 65536 (len - j.sent)
  let r := s.mRead c.id j.op.ctx c.abortNext (collSrc j.op.desc + BitVec.ofNat 64 j.sent) n
  if !r.asks.isEmpty then s.mantleAsk c.id j.op.ctx r.asks
  else
    let last := decide (j.sent + n ≥ len)
    let s1 := ((s.mantleDone c.id).withholds j.op.ctx r.withheld).sendChunk c j.peer ((j.start + j.sent) % 65536)
      (if last then 1 else 0) (j.sent / 65536) 2 (r.bad != 0) r.bytes (some (c.id, j.op.name, j.sent))
    let k := { j with sent := j.sent + n, lost := j.lost + r.bad }
    s1.updComm c.id fun c =>
      { c with
        abortNext := false
        sends := if last then c.sends.tail else k :: c.sends.tail
        awaits := if last then c.awaits ++ [(j.peer, j.start + len, some (j.op, k.lost), s.svNow)] else c.awaits }

/-- Effective priority (R399). -/
def Comm.effPrio (c : Comm) : Nat := min 7 (c.prio + c.raise)

/-- The ready communicator that the engine serves next (R399): a step that has begun goes first, since none is
pre-empted. -/
def State.nextComm (s : State) : Option Comm :=
  let better (a b : Comm) : Bool :=
    decide (a.effPrio > b.effPrio) || (a.effPrio == b.effPrio &&
      (decide (a.readySince.getD 0 < b.readySince.getD 0) ||
        (a.readySince.getD 0 == b.readySince.getD 0 && decide (a.id < b.id))))
  match s.mantle.comms.find? fun c => s.stepUnder c.id with
  | some c => if s.commReady c then some c else none
  | none =>
    (s.mantle.comms.filter fun c => s.commReady c).foldl (fun best c => match best with
      | none => some c
      | some b => if better c b then some c else some b) none

/-- CHUNK_STEP (R397-R406, R420-R422). -/
def execChunkStep (s : State) : Out :=
  match s.nextComm with
  | none => .next s
  | some c =>
    let s1 := s.updComm c.id fun c => { c with raise := 0, readySince := none }
    if c.runReady then
      match c.run with
      | some r => match r.todo with
        | a :: _ => .next ((s1.runStep c r a).mantleNext c.id)
        | [] => .next s
      | none => .next s
    else
      match c.sends with
      | j :: _ => .next ((s1.sendStep c j).mantleNext c.id)
      | [] => .next s

/-- A level is due: 65,536 Mantle cycles ready for each (R399). -/
def Comm.ages (c : Comm) (now : Nat) : Bool := match c.readySince with
  | some t => decide (now ≥ t + 65536 * (c.raise + 1)) && decide (c.effPrio < 7)
  | none => false

/-- PRIORITY_AGEING (R399). -/
def execPriorityAgeing (id : Nat) (s : State) : Out :=
  .next (s.updComm id fun c => if c.ages s.svNow then { c with raise := c.raise + 1 } else c)

/-- Refusals at acceptance: status BADCOMM (R392). -/
def State.badComm (s : State) (op : CollOp) : Bool :=
  match s.comm? (collComm op.desc) with
  | none => true
  | some c => c.phase != .active || c.gen != collGen op.desc || c.ctx != op.ctx || (op.csend && c.rxSlice == 0) ||
      decide (collRoot op.desc ≥ c.nranks)

/-- An earlier COLL or CSEND of the wave, of another communicator, is under way or its record still to be written:
entries of a wave's collective queue access memory one after another (R223). Those of one communicator keep their order
in its queue (R396). -/
def State.collHeld (s : State) (op : CollOp) : Bool :=
  let mine (o : CollOp) : Bool := o.block == op.block && o.wave == op.wave && collComm o.desc != collComm op.desc
  (s.mantle.records.any fun r => mine r.op) || s.mantle.comms.any fun c =>
    c.queue.any mine || c.run.any (fun r => mine r.op) || c.sends.any (fun j => mine j.op) ||
      c.awaits.any fun a => a.2.2.1.any fun e => mine e.1

/-- The wave's oldest COLL or CSEND that has reached the Mantle, once it may access memory (R223). -/
def State.collNext (s : State) (b wv : Nat) : Option CollOp :=
  match s.mantle.arriving.find? fun o => o.block == b && o.wave == wv with
  | none => none
  | some op => if s.collHeld op then none else some op

/-- COLL_ACCEPT (R223, R388, R392, R393): the wave's oldest word that has reached the Mantle is accepted, or
completes with BADCOMM. -/
def execCollAccept (b wv : Nat) (s : State) : Out :=
  match s.collNext b wv with
  | none => .next s
  | some op =>
    let s1 : State := { s with mantle := { s.mantle with arriving := s.mantle.arriving.erase op } }
    let id := collComm op.desc
    if s.badComm op then .next (s1.collDone op 3 0 0 (id + 64 * collGen op.desc) true)
    else
      let s2 := s1.updComm id fun c =>
        if op.csend then
          let peer := collRoot op.desc
          let k := getAt 0 c.sendSeq peer
          let start := getAt 0 c.sendPos peer
          { c with
            sendSeq := setAt 0 c.sendSeq peer ((k + 1) % 65536)
            sendPos := setAt 0 c.sendPos peer (start + csendLen op.desc)
            queue := c.queue ++ [{ op with seq := k, pos := start }] }
        else { c with opseq := (c.opseq + 1) % 65536, queue := c.queue ++ [{ op with seq := c.opseq }] }
      .next (s2.mantleNext id)

/-- Bytes of a send stream written into the receive area, with fuel: as many as lie up to the slice's end, and on from
its start (R413). -/
def State.streamPart (c : Comm) (peer : Nat) : Nat → State → Nat → List Byte → State
  | 0, s, _, _ => s
  | n + 1, s, pos, bs =>
    if bs.isEmpty then s
    else
      let slice := 2 ^ c.rxSlice
      let room := slice - pos % slice
      let s1 := (s.mWrite c.ctx (.stream c.id peer) false (c.rxBase + BitVec.ofNat 64 (peer * slice + pos % slice)) (bs.take room)).1
      State.streamPart c peer n s1 (pos + room) (bs.drop room)

/-- Bytes of a send stream written into the receive area, byte q at q mod 2^RXSLICE of the sender's slice (R413). -/
def State.streamBytes (s : State) (c : Comm) (peer pos : Nat) (bs : List Byte) : State :=
  State.streamPart c peer (bs.length / 2 ^ c.rxSlice + 2) s pos bs

/-- The next position word from a rank is written, once every byte of the stream that has come is performed; then the
end is acknowledged (R413). -/
def State.endNext (s : State) (id : Nat) : Nat → State
  | 0 => s
  | n + 1 =>
    match s.comm? id with
    | none => s
    | some c =>
      let waits (p : Nat) : Bool := s.posted fun u => match u with
        | .stream k q => k == id && q == p
        | .word k q _ => k == id && q == p
        | _ => false
      match c.ends.find? fun e => !waits e.1 with
      | none => s
      | some e =>
        let word := c.rxBase + BitVec.ofNat 64 (c.nranks * 2 ^ c.rxSlice + 4 * e.1)
        let s1 := s.updComm id fun c => { c with ends := c.ends.erase e }
        let s2 := (s1.mWrite c.ctx (.word id e.1 e.2) false word (leBytes 4 e.2)).1
        let sent := s2.posted fun u => u == .word id e.1 e.2
        (if sent then s2 else s2.sendChunk c e.1 (e.2 % 65536) 0 0 3 false []).endNext id n

/-- A KIND 2 message, or one flit of it, arrives (R413): the bytes land, and at the end of a CSEND or a
copy row the position word is written and acknowledged (log 34). The flits of a stream come in order (R362), so one that
is not at the position reached tells that flits were lost: then no position word is written and nothing acknowledged for
this CSEND or row, unless it begins here (CHUNK 0), and the sender's own limit completes it with LOST (R410; log 37). A
sector that failed at the sender leaves a place of at most 64 bytes and no loss. -/
def State.recvStream (s : State) (c : Comm) (peer opseq step chunk flit : Nat) (inc closed : Bool) (bs : List Byte) : State :=
  if c.rxSlice = 0 then s
  else
    let next := getAt 0 c.recvPos peer
    let pos := next + (opseq + 92 * flit + 65536 - next % 65536) % 65536
    let failed := inc && bs.isEmpty && decide (pos ≤ next + 64)
    let bad := !(flit == 0 && chunk == 0) && (c.recvBad.contains peer || (pos != next && !failed))
    let reached := pos + bs.length
    let others := c.recvBad.filter fun p => p != peer
    let s1 := (s.streamBytes c peer pos bs).updComm c.id fun c =>
      { c with
        recvPos := setAt 0 c.recvPos peer reached
        recvBad := if bad then peer :: others else others
        ends := if step = 0 || !closed || bad then c.ends else c.ends ++ [(peer, reached)] }
    if closed then s1.endNext c.id (c.ends.length + 1) else s1

/-- A CSEND acknowledge arrives (R413): the end whose position word it names, the oldest of that number, is
acknowledged. -/
def State.recvAck (s : State) (c : Comm) (peer opseq : Nat) : State :=
  match c.awaits.find? fun a => a.1 == peer && a.2.1 % 65536 == opseq with
  | none => s
  | some e =>
    let s1 := s.updComm c.id fun c => { c with awaits := c.awaits.erase e }
    (match e.2.2.1 with
      | some (op, lost) =>
        (if lost = 0 then s1 else s1.mantleCount 3 lost).collDone op (if lost = 0 then 1 else 5) 0 lost c.word true
      | none => s1).quiesce c.id

/-- An operation number that is behind the communicator's own: its operation has ended. -/
def Comm.isOld (c : Comm) (opseq : Nat) : Bool :=
  let cur := match c.run, c.queue.find? fun o => !o.csend with
    | some r, _ => r.op.seq
    | none, some o => o.seq
    | none, none => c.opseq
  let back := (cur + 65536 - opseq) % 65536
  decide (1 ≤ back) && decide (back < 32768)

/-- The bytes of a message's flits from number `i` on, `n` of them, if all have come. -/
def pieceData (l : List (Nat × List Byte)) : Nat → Nat → Option (List Byte)
  | _, 0 => some []
  | i, n + 1 => match l.find? fun e => e.1 == i with
    | some e => (pieceData l (i + 1) n).map fun t => e.2 ++ t
    | none => none

/-- A piece of a message joins what has arrived of it, by its number (R407); a flit of it counts as held (R371). -/
def MMsg.join (m0 : MMsg) (flit : Nat) (inc whole closed : Bool) (bs : List Byte) : MMsg :=
  let m := if whole then m0 else { m0 with unfreed := m0.unfreed + 1 }
  if m.closed || m.pieces.any fun e => e.1 == flit then m
  else
    let m1 := { m with pieces := (flit, bs) :: m.pieces, incomplete := m.incomplete || inc,
                       last := if closed then some flit else m.last }
    match m1.last.bind fun n => pieceData m1.pieces 0 (n + 1) with
    | some data => { m1 with closed := true, data := data, pieces := [] }
    | none => m1

/-- A message that has not arrived yet. -/
def MMsg.blank (peer opseq step chunk kind : Nat) : MMsg :=
  { peer := peer, opseq := opseq, step := step, chunk := chunk, kind := kind, incomplete := false, lost := false,
    allChunks := false, pieces := [], last := none, landed := false, unfreed := 0, closed := false, data := [] }

/-- A chunk that has been declared lost (R410). -/
def Comm.lostAlready (c : Comm) (peer opseq step chunk kind : Nat) : Bool :=
  c.inbox.any fun m => m.lost && m.peer == peer && m.opseq == opseq && m.step == step && m.kind == kind &&
    (m.allChunks || m.chunk == chunk)

/-- A message stays in its communicator's partition (R398): it belongs to an operation that has not ended and was not
declared lost (R410), and operations are still to come (R387). -/
def Comm.keepsMsg (c : Comm) (peer opseq step chunk kind : Nat) : Bool :=
  c.phase != .quiescent && kind != 2 && kind != 3 && !c.isOld opseq && !c.lostAlready peer opseq step chunk kind

/-- A Mantle message, or a flit of one, has arrived for its communicator (R398, R407). `whole` says that it is a whole
message. -/
def State.mantleRecv (s : State) (c : Comm) (peer opseq step chunk kind flags flit : Nat) (whole : Bool)
    (bs : List Byte) : State :=
  let inc := flags % 2 == 1
  let closed := whole || decide (bs.length < 92)
  match kind with
  | 2 => s.recvStream c peer opseq step chunk flit inc closed bs
  | 3 => s.recvAck c peer opseq
  | _ =>
    if !c.keepsMsg peer opseq step chunk kind then
      (if kind = 4 && closed then s.answerEnded c.id peer opseq bs else s)
    else
      let same (m : MMsg) : Bool :=
        m.peer == peer && m.opseq == opseq && m.step == step && m.chunk == chunk && m.kind == kind
      let s1 := s.updComm c.id fun c =>
        { c with inbox := upsert same (MMsg.blank peer opseq step chunk kind) (fun m => m.join flit inc whole closed bs) c.inbox }
      if kind = 4 then s1.checkHeaders c.id else s1

/-- Fields of a Mantle message at byte `o` (R407). -/
def msgField (bs : List Byte) (o n : Nat) : Nat := leNat ((bs.drop o).take n)

/-- The communicator that a message names, current generation only (R388). -/
def State.msgComm (s : State) (h : List Byte) : Option Comm :=
  s.mantle.comms.find? fun c => c.id == msgField h 0 2 % 64 && c.gen == msgField h 0 2 / 64 % 16

/-- A message whose header `h` has arrived: it is taken, or dropped and counted (R388, R407). -/
def State.takeMsg (s : State) (from_ : Nat) (h bs : List Byte) (whole : Bool) : State :=
  match s.msgComm h with
  | none => s.mantleCount 0 1
  | some c =>
    match c.members.findIdx? fun m => m == from_ with
    | none => s.mantleCount 0 1
    | some peer =>
      if msgField h 8 1 > 4 then s.svCount 10
      else
        (s.mantleRecv c peer (msgField h 2 2) (msgField h 4 2) (msgField h 6 2) (msgField h 8 1) (msgField h 9 1)
          (msgField h 10 2) whole bs).mantleNext c.id

/-- A flit stays in its communicator's partition, to be freed as its chunk lands (R371, R398; log 47). -/
def State.keepsFlit (s : State) (from_ : Nat) (h : List Byte) : Bool := match s.msgComm h with
  | none => false
  | some c => match c.members.findIdx? fun m => m == from_ with
    | none => false
    | some peer => decide (msgField h 8 1 ≤ 4) &&
        c.keepsMsg peer (msgField h 2 2) (msgField h 4 2) (msgField h 6 2) (msgField h 8 1)

/-- COLL_FLIT (R379, R388, R407, R410, R413, R419): the flit arrives for its communicator; one that does not stay is
freed at once (R371; log 47). -/
def execCollFlit (port : Nat) (f : Flit) (s : State) : Out :=
  if !s.arrives port f 5 then .next s
  else
    let r := s.linkRecv port f
    if !r.2 then .next r.1
    else
      let s0 := r.1.freeSlot port (flitVc f)
      let s1 := s0.freeClass f.src.toNat f.cls.toNat 1
      let h := (f.payload.drop 8).take 12
      if f.payload.length < 20 || msgField h 0 2 ≥ 1024 || msgField h 9 1 ≥ 2 then .next (s1.refuse f 1).pump
      else
        match s0.ingress f 36 none with
        | some reason => .next (s1.refuse f reason).pump
        | none =>
          let s2 := if s0.keepsFlit f.src.toNat h then s0 else s1
          .next (s2.takeMsg f.src.toNat h (f.payload.drop 20) false).pump

/-- UET_MESSAGE (R388, R407, R408). -/
def execUetMessage (src : Nat) (data : List (BitVec 8)) (s : State) : Out :=
  if data.length < 12 then .next s
  else
    match s.msgComm data with
    | some c => if c.uet then .next (s.takeMsg src (data.take 12) (data.drop 12) true) else .next s
    | none => .next (s.takeMsg src (data.take 12) (data.drop 12) true)

/-- What a communicator's operation waits for and has not received. -/
def Comm.missingInput (c : Comm) : Option (CollRun × CollInput) := match c.run with
  | none => none
  | some r => match r.todo with
    | [] => none
    | a :: _ => match collInput c r.op.desc a with
      | none => none
      | some i => if c.hasInput r i then none else some (r, i)

/-- The lowest number that no whole chunk of a list has, with fuel. -/
def lowestMissing (ms : List MMsg) : Nat → Nat → Nat
  | 0, k => k
  | n + 1, k => if ms.any fun m => m.chunk == k && m.closed then lowestMissing ms n (k + 1) else k

/-- The input that a step waits for is declared lost (R410): its chunk; of a step's tiles what is missing, or, when UET
gave up on one chunk, the first that is missing (log 37); all of it when its operation header has not come (R419). -/
def State.loseInput (s : State) (c : Comm) (r : CollRun) (i : CollInput) (early : Bool) : State :=
  let ms := c.inputMsgs r.op.seq i
  let one := early && r.headed i
  let k := i.chunk.getD (if one then lowestMissing ms ms.length 0 else 0)
  let m : MMsg :=
    { MMsg.blank i.peer r.op.seq i.step k i.kind with
      incomplete := true, lost := true, allChunks := i.chunk.isNone && !one, closed := true }
  let gone := ms.filter fun m => (!m.closed || !r.headed i) && (!one || m.chunk == k)
  (s.purge c.id fun x => !gone.contains x).updComm c.id fun c => { c with inbox := m :: c.inbox }

/-- CHUNK_LOST (R410): the input that the step waits for is declared lost; a CSEND or a BCAST that waits
for an answer completes with LOST, a CSEND with every sector of it, since its sender cannot know which (log 37). Before the
limit, on Ultra Ethernet, it is UET that gave up. -/
def execChunkLost (id : Nat) (s : State) : Out :=
  match s.comm? id with
  | none => .next s
  | some c =>
    let early (since : Nat) : Bool := c.uet && decide (s.svNow < since + Config.chunkTimeout)
    let note (since : Nat) : State := if early since then s.mantleCount 5 1 else s
    match c.missingInput with
    | some (r, i) => .next (((note r.since).loseInput c r i (early r.since)).mantleNext id)
    | none =>
      match c.run.filter fun r => r.todo.isEmpty && c.awaitsAnswer r with
      | some r => .next (((note r.since).updRun id fun r =>
          { r with hdrGot := c.nextRank :: r.hdrGot, lost := r.lost + 1 }).mantleNext id)
      | none =>
        match c.awaits.find? fun a => c.uet || decide (a.2.2.2 + Config.chunkTimeout ≤ s.svNow) with
        | none => .next s
        | some a =>
          let s1 := (note a.2.2.2).updComm id fun c => { c with awaits := c.awaits.erase a }
          match a.2.2.1 with
          | some (op, lost) =>
            let all := max lost (sectorsOf (csendLen op.desc))
            .next ((((s1.mantleCount 3 all).collDone op 2 0 all c.word true).quiesce id).mantleNext id)
          | none => .next (s1.mantleNext id)

/-- COMM_FREE (R387): the id is free, to be issued again with the next generation. -/
def execCommFree (id : Nat) (s : State) : Out :=
  match s.comm? id with
  | none => .next s
  | some c =>
    if s.commDone c then .next (s.freeComm c) else .next s

/-- UET_RETRANSMISSION (R408): the oldest message to a peer that is not acknowledged is sent again. -/
def execUetRetransmission (peer : Nat) (s : State) : Out :=
  match s.mantle.unacked.find? fun e => e.peer == peer with
  | none => .next s
  | some e => .next { s with mantle := { s.mantle with out := s.mantle.out ++ [e] } }

/-- UET_ACKNOWLEDGEMENT (R387, R409): the oldest message to a peer is acknowledged; the delivery contexts
of communicators that are going close once nothing to the peer is outstanding. -/
def execUetAcknowledgement (peer : Nat) (s : State) : Out :=
  match s.mantle.unacked.find? fun e => e.peer == peer with
  | none => .next s
  | some e => .next ({ s with mantle := { s.mantle with unacked := s.mantle.unacked.erase e } } : State).closePdc

/-- A write of the Mantle to another device has been answered (R395, R396, R411, R413): a part of DST that was not
written is LOST, a position word is acknowledged, and what waited for the write goes on. -/
def State.postAnswered (s : State) (p : MPost) : State :=
  let s1 : State := { s with mantle := { s.mantle with posts := s.mantle.posts.erase p } }
  match p.use with
  | .dst id name _ =>
    (if p.done == some true then s1
    else s1.updRun id fun r => if r.op.name = name then { r with lost := r.lost + 1, status := if r.status = 4 then 4 else 5 } else r).mantleNext
      id
  | .stream id _ => (s1.endNext id 64).mantleNext id
  | .word id peer reached =>
    (match s1.comm? id with
    | some c => (s1.sendChunk c peer (reached % 65536) 0 0 3 false []).endNext id 64
    | none => s1).mantleNext id
  | .record name =>
    let note (x : MRecord) : MRecord := if x.op.name = name && p.done != some true then { x with failed := true } else x
    let s2 : State := { s1 with mantle := { s1.mantle with records := s1.mantle.records.map note } }
    let id := match s.mantle.records.find? fun r => r.op.name == name with
      | some r => collComm r.op.desc
      | none => 64
    ((s2.recordNext name 2).quiesce id).mantleNext id

/-- COLL and CSEND words of a wave that have not left it yet: they count on their tokens already (R394). -/
def Block.collsAhead (b : Block) : List CollOp := b.waves.flatMap fun w => w.sq.filterMap fun e => match e.2 with
  | .coll csend name token desc => some
      { csend := csend, name := name, block := b.uid, wave := w.idx, token := token, ctx := b.ctx, desc := desc, seq := 0, pos := 0 }
  | _ => none

/-- The operations of a context that is reset (R412): queued ones are discarded, those in progress stop;
each writes its record with RESET and completes no token; its communicators retire. -/
def State.resetMantle (s : State) (ctx : Nat) : State :=
  let early := ((s.blocks.filter fun b => b.ctx == ctx).flatMap Block.collsAhead) ++ s.mantle.arriving.filter fun o => o.ctx == ctx
  let quiet (r : MRecord) : MRecord := if r.op.ctx = ctx then { r with withToken := false } else r
  let base : State := { s with mantle := { s.mantle with
    arriving := s.mantle.arriving.filter fun o => o.ctx != ctx
    records := s.mantle.records.map quiet } }
  let s0 := early.foldl (fun s o => s.collDone o 6 0 0 (collComm o.desc + 64 * collGen o.desc) false) base
  (s0.mantle.comms.filter fun c => c.ctx == ctx).foldl (fun s c =>
    let s1 := (s.endRun c.id 6 false).mantleDone c.id
    let pending := c.queue ++ c.sends.map (fun j => j.op) ++ c.awaits.filterMap fun a => a.2.2.1.map fun e => e.1
    let s2 := s1.updComm c.id fun c => { c with queue := [], sends := [], awaits := c.awaits.filter fun a => a.2.2.1.isNone }
    let s3 := pending.foldl (fun s o => s.collDone o 6 0 0 c.word false) s2
    s3.retireComm c.id) s0

end Sys2Proof.Machine
end

