-- ==== Sys2Proof/Machine/Copy.lean ====
section
/-! DEFINITION. The copy engine (10, R244-R251): the descriptor and its checks, acceptance, the movement of
sectors, and KSTAT. -/

namespace Sys2Proof.Machine

open Sys2Proof

/-- Checks and registers of COPY, COPYG and COPYS (R44, R244-R246; log 24). The eight descriptor registers and the index
register stay as they are for 4 cycles. -/
def formCopy (op : Nat) (b : BitVec 9) (index : Option (BitVec 8)) (c : Cur) : Form :=
  let v := match index with
    | some i => [i.toNat]
    | none => []
  let regs : Regs := { noRegs with v := v, s := List.range' b.toNat 8 }
  { opcode := op, fieldsOk := true, xc := xcNone,
    operandsOk := c.sregsOk b.toNat 8 8 && v.all fun i => decide (i < c.blk.decl.vregs),
    reads := regs, writes := regs, lat := 4 }

/-- A copy descriptor (R245). -/
structure CopyDesc where
  src : Addr
  dst : Addr
  len : Nat
  sstride : Nat
  dstride : Nat
  ctl : Word
  deriving DecidableEq, Repr

/-- The descriptor in S(b) ... S(b + 7). -/
def Cur.copyDesc (c : Cur) (b : Nat) : CopyDesc :=
  { src := c.wv.getS64 b, dst := c.wv.getS64 (b + 2), len := (c.wv.getS (b + 4)).toNat,
    sstride := (c.wv.getS (b + 5)).toNat, dstride := (c.wv.getS (b + 6)).toNat, ctl := c.wv.getS (b + 7) }

/-- ROWS − 1. -/
def CopyDesc.rows (d : CopyDesc) : Nat := (d.ctl.extractLsb' 20 12).toNat
/-- SRC kind. -/
def CopyDesc.srcKind (d : CopyDesc) : Nat := (d.ctl.extractLsb' 16 4).toNat
/-- DST kind. -/
def CopyDesc.dstKind (d : CopyDesc) : Nat := (d.ctl.extractLsb' 12 4).toNat

/-- The row from source index i to destination index j: exact addresses (R246). -/
def CopyDesc.row (d : CopyDesc) (i j : Nat) : Nat × Nat :=
  (d.src.toNat + i * d.sstride, d.dst.toNat + j * d.dstride)

/-- The extent of a row on one side is legal (R245): a global run canonical and outside the aperture, another
within the block's allocation. -/
def extentOk (m : Decl) (kind len a : Nat) : Bool :=
  let good (x : Addr) : Bool := canonical x && !inAperture x
  match kind with
  | 0 => good (BitVec.ofNat 64 a) && good (BitVec.ofNat 64 (a + len - 1))
  | 1 => decide (a + len ≤ m.bmem)
  | 2 => decide (a + len ≤ 8192 * m.btiles)
  | 3 => decide (a + len ≤ 16384 * m.awin)
  | _ => true

/-- The checks of R245. A network DST with a nonzero bit above 15 fails them (DEDUCED, log 35). -/
def copyOk (m : Decl) (d : CopyDesc) (lanes : Bool) (rows : List (Nat × Nat)) : Bool :=
  let sk := d.srcKind
  let dk := d.dstKind
  (sk == 0 || sk == 1 || sk == 3) && decide (dk ≤ 4) && !(sk == 3 && dk == 3)
    && d.src.toNat % 16 == 0 && (dk == 4 || d.dst.toNat % 16 == 0)
    && d.len % 16 == 0 && decide (16 ≤ d.len) && decide (d.len ≤ 16777216)
    && d.sstride % 16 == 0 && d.dstride % 16 == 0
    && (sk == 0 || decide (d.src.toNat < 2 ^ 32))
    && (dk == 0 || decide (d.dst.toNat < (if dk = 4 then 2 ^ 16 else 2 ^ 32)))
    && (dk != 4 || d.dstride == 0) && (!lanes || d.rows == 0) && d.ctl.extractLsb' 0 12 == 0
    && rows.all fun r => extentOk m sk d.len r.1 && extentOk m dk d.len r.2

/-- A token with one more copy or operation outstanding; a complete one starts again (R251). -/
def Token.add (t : Token) (name : Nat) : Token :=
  if t.outst.isEmpty then { outst := [name], abort := false, failed := 0, coll := false } else { t with outst := t.outst ++ [name] }

/-- A copy word issues (R244-R247): only the producer wave may, and it waits for room in the queue and on the
token. -/
def issueCopy (s : State) (c : Cur) (f : Form) (b k : Nat) (lanes : Bool) (rows : List (Nat × Nat)) : Out :=
  let d := c.copyDesc b
  if c.iss.wave ≠ c.blk.decl.producer then .next (takeTrap s c { cause := 9, opcode := f.opcode })
  else if (s.core c.iss.core).copies.length ≥ Config.copyDepth || (c.blk.token k).outst.length ≥ Config.copyDepth ||
      c.wv.acqPending then .next (holdSlot s)
  else if !copyOk c.blk.decl d lanes rows then .next (takeTrap s c { cause := 11, opcode := f.opcode })
  else
    let n := s.freshId
    let job : CopyJob :=
      { ahead := [], seq := n.1, block := c.blk.uid, wave := c.iss.wave, token := k, opcode := f.opcode,
        pos := position c.iss.pc 0, len := d.len, srcKind := d.srcKind, dstKind := d.dstKind,
        rows := rows.map fun r => (r.1 % 2 ^ 64, r.2 % 2 ^ 64), row := 0, sector := 0, failedNow := false,
        halted := false, issued := s.now, asked := [], got := [], acks := [], base := 0 }
    let s1 := (n.2.updBlock c.blk.uid fun x => x.setToken k ((x.token k).add n.1)).updCore c.iss.core fun x =>
      { x with copies := x.copies ++ [job] }
    .next (retire s1 c { wave := c.wv, writes := f.writes, lat := f.lat })

/-- COPY (R246). -/
def execCopy (b : BitVec 9) (k : BitVec 3) (s : State) : Out :=
  runWord s (formCopy 0x70 b none) fun c f =>
    let d := c.copyDesc b.toNat
    issueCopy s c f b.toNat k.toNat false ((List.range (d.rows + 1)).map fun i => d.row i i)

/-- COPYG (R246). -/
def execCopyg (b : BitVec 9) (k : BitVec 3) (i : BitVec 8) (s : State) : Out :=
  runWord s (formCopy 0x71 b (some i)) fun c f =>
    let d := c.copyDesc b.toNat
    issueCopy s c f b.toNat k.toNat true ((lanesOf c.liveMask).map fun l => d.row (c.vec false i.toNat l).toNat l)

/-- COPYS (R246). -/
def execCopys (b : BitVec 9) (k : BitVec 3) (i : BitVec 8) (s : State) : Out :=
  runWord s (formCopy 0x72 b (some i)) fun c f =>
    let d := c.copyDesc b.toNat
    issueCopy s c f b.toNat k.toNat true ((lanesOf c.liveMask).map fun l => d.row l (c.vec false i.toNat l).toNat)

/-- The status word of a token (R251). -/
def Token.status (t : Token) : Word :=
  BitVec.ofBool (!t.outst.isEmpty) ++ BitVec.ofBool t.abort ++ (0 : BitVec 7) ++ BitVec.ofNat 7 t.outst.length ++
    BitVec.ofNat 16 t.failed

/-- Checks and registers of KSTAT. -/
def formKstat (d : BitVec 9) (c : Cur) : Form :=
  { opcode := 0x73, fieldsOk := true, xc := xcNone, operandsOk := c.sregsOk d.toNat 1 1, reads := noRegs,
    writes := { noRegs with s := [d.toNat] }, lat := 6 }
/-- KSTAT (R251). -/
def execKstat (d : BitVec 9) (k : BitVec 3) (s : State) : Out :=
  runWord s (formKstat d) fun c f =>
    .next (retire (s.observe c.blk [k.toNat]) c
      { wave := c.wv.setS d.toNat (c.blk.token k.toNat).status, writes := f.writes, lat := f.lat })

/-- A fence that waits for a copy which has halted its block executes again after the block resumes (R238, R249): it
holds no other copy. -/
def State.fenceStuck (s : State) (b : Block) (h : Hold) : Bool :=
  b.halt.isSome && (s.core b.core).copies.any fun j => j.block == b.uid && j.halted && decide (j.seq < h.mark)

/-- A fence of a wave of the core that names the copy queue holds the copy back: the copy was issued after the
fence, from whatever block (R224). -/
def State.copyFenced (s : State) (core : Nat) (j : CopyJob) : Bool :=
  (s.blocks.filter fun b => b.core == core).any fun b => b.waves.any fun w => match w.run with
    | .fence h => h.mask.getLsbD 1 && decide (j.seq ≥ h.mark) && !s.fenceStuck b h
    | _ => false

/-- The copy at work: the oldest that is not stopped by a fault, unless a fence holds it, and then every later one
of the queue, back (R223, R224, R249). -/
def State.copyHead (s : State) (core : Nat) : Option CopyJob :=
  ((s.core core).copies.find? fun j => !j.halted).filter fun j => !s.copyFenced core j

/-- Offset and length of sector `k` of a row (R248). -/
def CopyJob.span (j : CopyJob) (dst k : Nat) : Nat × Nat :=
  let skew := if j.dstKind = 4 then 0 else dst % 64
  let o := 64 * k - skew
  (o, min j.len (64 * (k + 1) - skew) - o)

/-- How a read of part of a sector ends. -/
inductive Grain where
  | bytes (bs : List Byte)
  /-- It is asked of another device: device, slot, address and the page's policy. -/
  | ask (dev slot pa policy : Nat)
  | fail
  /-- An abort that has raised its interrupts already. -/
  | lost
  | fault (t : TrapInfo)
  deriving DecidableEq, Repr

/-- Bytes of an accumulator window (R252). -/
def Block.winBytes (b : Block) (off n : Nat) : List Byte :=
  (List.range n).map fun i => BitVec.ofNat 8 ((getAt 0 b.win ((off + i) / 4)).toNat / 256 ^ ((off + i) % 4))

/-- Sixteen bytes that another device has answered: none yet, its bytes, or an abort (R248). -/
def CopyJob.answer (j : CopyJob) (dev slot pa policy : Nat) : Grain :=
  match j.got.find? fun e => e.1 == dev && e.2.1 == pa / 64 with
  | some e => if e.2.2.isEmpty then .lost else .bytes ((e.2.2.drop (pa % 64)).take 16)
  | none => .ask dev slot pa policy

/-- Sixteen bytes of a global source (R247, R249), the core's own dirty bytes first: they fail where one of those is
uncorrectable (R449). -/
def State.copyGrain (s : State) (b : Block) (j : CopyJob) (va : Addr) : Grain :=
  let info (cause reason : Nat) : Grain := .fault { cause := cause, reason := reason, opcode := j.opcode, addr := va }
  match s.translate b.core b.ctx { r := true } va with
  | .pageFault => info causePage 0
  | .prot r => info causeProt r
  | .abort => .fail
  | .ok t =>
    let below := allBytes ((List.range 16).map fun i => s.belowByte b.core b.ctx { t with pa := t.pa + i })
    let found : Grain := match t.space, below with
      | .remote dev slot, none => j.answer dev slot t.pa t.policy
      | _, some bs => .bytes bs
      | _, none => .fail
    match found with
    | .bytes bs => match allBytes (bs.zipIdx.map fun e => s.ownByte b.core b.ctx (va + BitVec.ofNat 64 e.2) e.1) with
      | some l => .bytes l
      | none => .fail
    | g => g

/-- Lines of this device that a copy reads enter the RDC, like those of a load (R209, R210). -/
def State.copyFill (s : State) (b : Block) (j : CopyJob) (src n : Nat) : State :=
  if j.srcKind != 0 then s else (List.range (n / 16)).foldl (fun s i =>
    match s.translate b.core b.ctx { r := true } (BitVec.ofNat 64 (src + 16 * i)) with
    | .ok t => s.fillRdc b.core t
    | _ => s) s

/-- The parts of a sector's source. -/
def State.copyGrains (s : State) (b : Block) (j : CopyJob) (src n : Nat) : List Grain := match j.srcKind with
  | 1 => [.bytes (b.bmemRun src n)]
  | 3 => [.bytes (b.winBytes src n)]
  | _ => (List.range (n / 16)).map fun i => s.copyGrain b j (BitVec.ofNat 64 (src + 16 * i))

/-- The first fault among them. -/
def grainFault : List Grain → Option TrapInfo
  | [] => none
  | .fault t :: _ => some t
  | _ :: t => grainFault t

/-- The bytes, when every part has come. -/
def grainBytes : List Grain → Option (List Byte)
  | [] => some []
  | .bytes bs :: t => (grainBytes t).map fun r => bs ++ r
  | _ :: _ => none

/-- What is to be asked for, each once: device, slot, address and policy; of an uncached page a sector, of a caching one
a line (R209, R211). -/
def grainAsks (l : List Grain) : List (Nat × Nat × Nat × Nat) :=
  (l.filterMap fun g => match g with
    | .ask d k p c => some (d, k, if c = 2 then p / 64 * 64 else p / 128 * 128, c)
    | _ => none).eraseDups

/-- A part of a sector read at issue, as it is kept. -/
def Grain.part : Grain → ReadPart
  | .bytes bs => .bytes bs
  | .ask d k p c => .wait d k p c
  | _ => .lost

/-- What has become of a part that was read or asked for at issue. -/
def CopyJob.partGrain (j : CopyJob) : ReadPart → Grain
  | .bytes bs => .bytes bs
  | .wait d k p c => j.answer d k p c
  | .lost => .lost

/-- Where a sector is to be written (R249). -/
inductive Sink where
  | ok
  | fail
  | fault (t : TrapInfo)
  deriving DecidableEq, Repr

/-- The translation of a global destination sector. -/
def State.copySink (s : State) (b : Block) (j : CopyJob) (dst : Nat) : Sink :=
  let va := BitVec.ofNat 64 dst
  let info (cause reason : Nat) : Sink := .fault { cause := cause, reason := reason, opcode := j.opcode, addr := va }
  if j.dstKind ≠ 0 then .ok
  else match s.translate b.core b.ctx { w := true } va with
    | .ok _ => .ok
    | .pageFault => info causePage 0
    | .prot r => info causeProt r
    | .abort => .fail

/-- Lines of the issuing core's L1 that a copy into global memory has written keep only their dirty bytes (R225). -/
def State.dropWritten (s : State) (core ctx : Nat) (j : CopyJob) : State :=
  let hit (x : L1Line) : Bool := x.core == core && x.ctx == ctx &&
    j.rows.any fun r => decide (128 * x.line < r.2 + j.len) && decide (r.2 < 128 * x.line + 128)
  (((s.l1.filter hit).map fun x => x.line)).foldl (fun s line => s.dropClean core ctx line) s

/-- Pieces of a range that lie in one page of 64 KiB: address and length. -/
def pagePieces : Nat → Nat → Nat → List (Nat × Nat)
  | 0, _, _ => []
  | n + 1, a, len =>
    let k := 65536 - a % 65536
    if len ≤ k then [(a, len)] else (a, k) :: pagePieces n (a + k) (len - k)

/-- Is an address of the destination one of the copy's own source: by its place in the block, or by the memory that
both are mapped to (R247)? -/
def State.sourceHas (s : State) (b : Block) (j : CopyJob) (a : Nat) : Bool :=
  if j.srcKind != j.dstKind then false
  else if j.rows.any fun r => decide (r.1 ≤ a) && decide (a < r.1 + j.len) then true
  else if j.srcKind != 0 then false
  else match s.translate b.core b.ctx { w := true } (BitVec.ofNat 64 a) with
    | .ok t => (j.rows.flatMap fun r => pagePieces 258 r.1 j.len).any fun p =>
        match s.translate b.core b.ctx { r := true } (BitVec.ofNat 64 p.1) with
        | .ok u => u.space == t.space && decide (u.pa ≤ t.pa) && decide (t.pa < u.pa + p.2)
        | _ => false
    | _ => false

/-- Bytes of the copy's destination that its own source holds take one of the values that the source bytes concerned
have held, and which one is free (R247; log 12): `bs` are the bytes read for the sector, `old` those in their place. -/
def overlapBytes (free : Nat) (own : Nat → Bool) (old bs : List Byte) : List Byte :=
  let held := bs ++ (old.zipIdx.filter fun e => own e.2).map fun e => e.1
  bs.zipIdx.map fun e => if own e.2 then held.getD (Config.freeRank free e.2 % held.length) e.1 else e.1

/-- What a destination sector holds before the copy writes it. -/
def State.sinkBytes (s : State) (b : Block) (j : CopyJob) (dst n : Nat) : List Byte := match j.dstKind with
  | 0 => (match s.translate b.core b.ctx { w := true } (BitVec.ofNat 64 dst) with
    | .ok t => if t.space == .here then s.memRun t.pa n else if t.space == .host then getRun 0 s.hostMem t.pa n else []
    | _ => [])
  | 1 => b.bmemRun dst n
  | 3 => b.winBytes dst n
  | _ => []

/-- A send-queue handle's communicator, once a row may enter its stream (R413). -/
def State.sendComm (s : State) (b : Block) (handle : Nat) : Option Comm :=
  match s.comm? (handle % 64) with
  | some c => if c.phase == .active && c.ctx == b.ctx && c.rxSlice != 0 && decide (handle / 64 < c.nranks) then some c else none
  | none => none

/-- Another entry of the stream, accepted earlier, is under way or still to come: the row waits (R413). -/
def State.streamBusy (s : State) (id peer : Nat) : Bool :=
  s.rowOpen id peer || match s.comm? id with
    | some c => (c.sends.any fun j => j.peer == peer) || c.queue.any fun o => o.csend && collRoot o.desc == peer
    | none => false

/-- A sector of a row goes into the send stream, as one message, the row's first with CHUNK 0 (R248, R413; log 34). A
failed sector keeps its place in the stream and carries no byte: INCOMPLETE is set and the position is its end. -/
def State.copySend (s : State) (core : Nat) (b : Block) (j : CopyJob) (handle o n : Nat) (bs : Option (List Byte)) : State :=
  match s.sendComm b handle with
  | none => (s.failSector j.block j.token).updCopy core j.seq fun j => { j with base := 0 }
  | some c =>
    let peer := handle / 64
    let fresh := o = 0
    let base := if fresh then getAt 0 c.sendPos peer else j.base - 1
    if !fresh && j.base = 0 then s.failSector j.block j.token
    else
      let last := decide (o + n ≥ j.len)
      let s1 := s.updComm c.id fun c =>
        { c with
          sendPos := if fresh then setAt 0 c.sendPos peer (base + j.len) else c.sendPos
          awaits := if last then c.awaits ++ [(peer, base + j.len, none, s.svNow)] else c.awaits }
      let at_ := if bs.isSome then base + o else base + o + n
      let s2 := s1.sendChunk c peer (at_ % 65536) (if last then 1 else 0) (min 65535 ((o + 63) / 64)) 2 bs.isNone (bs.getD [])
      let s3 := if bs.isSome then s2 else s2.failSector j.block j.token
      (s3.updCopy core j.seq fun j => { j with base := base + 1 }).updBlockAll j.block fun b => { b with sideEffect := true }

/-- A sector's bytes are written at their destination (R245, R247). -/
def State.copyWrite (s : State) (core : Nat) (b : Block) (j : CopyJob) (dst : Nat) (bs : List Byte) : State :=
  match j.dstKind with
  | 0 =>
    let va := BitVec.ofNat 64 dst
    let s1 := s.updBlockAll j.block fun b => { b with sideEffect := true }
    (match s1.translate core b.ctx { w := true } va with
    | .ok t =>
      (match t.space with
        | .here => s1.pocWrite t.pa (some (dieOf core)) bs
        | .host => s1.hostBytes t.pa bs
        | .remote dev slot =>
          let r := (s1.dropBorrowed core dev t.pa b.ctx va).remoteWrite dev slot b.ctx t.pa bs (.copy core j.seq)
          r.2.updCopy core j.seq fun j => { j with acks := j.acks ++ [(r.1, dst)] })
    | _ => s1)
  | 1 => s.updBlock j.block fun b => b.bmemWrite dst bs
  | 2 => s.updBlock j.block fun b => b.tileWrite dst bs
  | _ => s.updBlock j.block fun b => { b with win := setRun 0 b.win (dst / 4) (bytesWords bs) }

/-- The copy goes on to its next sector, or to its next row. -/
def CopyJob.step (j : CopyJob) (o n : Nat) : CopyJob :=
  let last := decide (o + n ≥ j.len)
  { j with sector := if last then 0 else j.sector + 1, row := if last then j.row + 1 else j.row,
           failedNow := false, ahead := j.ahead.tail,
           got := if j.ahead.tail.isEmpty then [] else j.got, asked := if j.ahead.tail.isEmpty then [] else j.asked }

/-- A copy whose every row is done and acknowledged completes on its token, after the lines it wrote have lost their clean
bytes in its core's L1 (R225, R250, R251). -/
def State.finishCopy (s : State) (core seq : Nat) : State :=
  match (s.core core).copies.find? fun j => j.seq == seq with
  | none => s
  | some j =>
    if j.row < j.rows.length || !j.acks.isEmpty then s
    else
      let drop (b : Block) : Block :=
        let t := b.token j.token
        b.setToken j.token { t with outst := t.outst.filter fun n => n != seq }
      let s0 := if j.dstKind = 0 then s.dropWritten core (((s.block? j.block).map fun b => b.ctx).getD 0) j else s
      let s1 := s0.updCore core fun c => { c with copies := c.copies.filter fun x => x.seq != seq }
      if j.dstKind = 0 || j.dstKind = 4 then s1.updBlockAll j.block drop else s1.updBlock j.block drop

/-- Reading at once, for a destination outside the core (R21, R247): the sectors from the one the copy has come to, up to
the first that faults; what lies on another device is to be asked for. A failed read raises its interrupts now (R438). -/
def State.readAhead (b : Block) : Nat → CopyJob → State → List (List Grain) → State × List (List Grain)
  | 0, _, s, acc => (s, acc.reverse)
  | fuel + 1, j, s, acc =>
    match j.rows[j.row]? with
    | none => (s, acc.reverse)
    | some r =>
      let sp := j.span r.2 j.sector
      let grains := s.copyGrains b j (r.1 + sp.1) sp.2
      if (grainFault grains).isSome then (s, acc.reverse)
      else
        let s1 := s.copyFill b j (r.1 + sp.1) sp.2
        State.readAhead b fuel (j.step sp.1 sp.2) (if grains.contains .fail then s1.withhold (some b.ctx) else s1)
          (grains :: acc)

/-- Sectors of a copy, at most. -/
def CopyJob.sectors (j : CopyJob) : Nat := j.rows.length * (j.len / 64 + 2)

/-- A copy that writes outside the core and is not yet old enough to: its reads are still to be made. -/
def State.readsDue (s : State) (core : Nat) (j : CopyJob) : Bool :=
  (j.dstKind == 0 || j.dstKind == 4) && j.ahead.isEmpty && j.asked.isEmpty && j.got.isEmpty && !j.failedNow &&
    !s.aged core j.issued

/-- What the source of the next sector gives: what was read at issue, or a read now. -/
def State.sectorGrains (s : State) (b : Block) (j : CopyJob) (src n : Nat) : List Grain := match j.ahead.head? with
  | some ps => ps.map j.partGrain
  | none => s.copyGrains b j src n

/-- What a copy lacks of other devices is asked for: of a caching page the whole line, which its RDC then holds
(R209, R211). -/
def State.askSectors (s : State) (core : Nat) (b : Block) (j : CopyJob) (asks : List (Nat × Nat × Nat × Nat)) : State :=
  let ask (acc : State × List Nat) (q : Nat × Nat × Nat × Nat) : State × List Nat :=
    let fill := if q.2.2.2 = 2 then none else some (dieOf core, q.2.2.2 == 1)
    let r := acc.1.remoteRead q.1 q.2.1 b.ctx q.2.2.1 (if q.2.2.2 = 2 then 1 else 2) fill none (.copy core j.seq)
    (r.2, acc.2 ++ [r.1])
  let r := asks.foldl ask (s, [])
  r.1.updCopy core j.seq fun j => { j with asked := r.2 }

/-- The next sector of a copy is moved, asked for, failed, or faults; none when nothing can be done now. -/
def State.moveSector (s : State) (core : Nat) (b : Block) (j : CopyJob) (src dst : Nat) : Option State :=
  let sp := j.span dst j.sector
  let n := sp.2
  let grains := s.sectorGrains b j (src + sp.1) n
  let at_ := if j.dstKind = 4 then dst else dst + sp.1
  let outside := j.dstKind == 0 || j.dstKind == 4
  let early := outside && !s.aged core j.issued
  let next (s : State) : State :=
    let s1 := (s.updCopy core j.seq fun j => j.step sp.1 n).finishCopy core j.seq
    if outside then s1 else s1.checkpoint core j.block 0xFF false false
  let failed (s : State) : State :=
    if j.dstKind = 4 then next (s.copySend core b j dst sp.1 n none) else next (s.failSector j.block j.token)
  let sink := s.copySink b j at_
  let fault := match grainFault grains with
    | some t => some t
    | none => match sink with
      | .fault t => some t
      | _ => none
  match fault with
  | some t => some ((lateTrap s j.block j.wave j.pos t).updCopy core j.seq fun j => { j with halted := true })
  | none =>
    let asks := grainAsks grains
    if !asks.isEmpty && !j.failedNow then (if j.asked.isEmpty then some (s.askSectors core b j asks) else none)
    else if j.dstKind == 4 && j.sector == 0 && (s.sendComm b dst).isSome && s.streamBusy (dst % 64) (dst / 64) then none
    else if early then none
    else if j.failedNow || grains.contains .lost then some (failed s)
    else if grains.contains .fail || sink == .fail then some (failed (s.withhold (some b.ctx)))
    else
      match grainBytes grains with
      | none => none
      | some bs =>
        if j.dstKind = 4 then some (next (s.copySend core b j dst sp.1 n (some bs)))
        else
          let own (i : Nat) : Bool := s.sourceHas b j (at_ + 16 * (i / 16))
          let out := if j.srcKind != j.dstKind then bs else overlapBytes s.free own (s.sinkBytes b j at_ n) bs
          let s1 := if out = bs then s else s.takeFree.2
          some (next ((s1.copyFill b j (src + sp.1) n).copyWrite core b j at_ out))

/-- The copy engine's next step; none when nothing can be done now. -/
def State.copyStep (s : State) (core : Nat) : Option State :=
  match s.copyHead core with
  | none => none
  | some j =>
    if s.now < j.issued + 4 then none
    else match s.block? j.block with
      | none => none
      | some b => match j.rows[j.row]? with
        | none => if j.acks.isEmpty then some (s.finishCopy core j.seq) else none
        | some r =>
          if s.readsDue core j then
            let x := State.readAhead b j.sectors j s []
            if x.2.isEmpty then s.moveSector core b j r.1 r.2
            else some ((x.1.askSectors core b j (grainAsks x.2.flatten)).updCopy core j.seq fun j =>
              { j with ahead := x.2.map fun l => l.map Grain.part })
          else s.moveSector core b j r.1 r.2

/-- COPY_SECTOR (R247-R249). -/
def execCopySector (core : Nat) (s : State) : Out := match s.copyStep core with
  | none => .next s
  | some s1 => .next s1.noteMantle.pump

end Sys2Proof.Machine
end

