-- ==== Sys2Proof/Machine/Launch.lean ====
section
/-! DEFINITION. Launches: the host's registers and packets (R294-R303), the memory wait (R304), the
dispatcher and the queue engines (R305-R310), block start and end (R152, R254, R311, R312, R347), LAUNCH and
GROW (R313, R314), and the CSRs (R315-R317). -/

namespace Sys2Proof.Machine

open Sys2Proof

/-- Does a context own a queue (R296)? -/
def State.owns (s : State) (ctx q : Nat) : Bool := (s.queue q).valid && (s.queue q).ctx == ctx

/-- Launches of a queue that are committed and not complete. -/
def State.queued (s : State) (q : Nat) : List Launch := s.launches.filter fun l => l.queue == q

/-- The zero fields of a launch packet are zero (R297). -/
def pktZeros (p : List Word) : Bool :=
  pf p 1 0 13 == 0 && pf p 7 14 18 == 0 && pf p 7 6 2 == 0 && pf p 8 0 8 == 0 && pf p 9 0 7 == 0 && pf p 14 9 23 == 0
  && pf p 15 4 27 == 0 && pf p 17 4 27 == 0 && pf p 20 23 5 == 0 && pf p 23 8 24 == 0 && pf p 24 1 4 == 0
  && (p.drop 26).all fun w => w == 0

/-- Check 1 of R298, whose BADPACKET a misaligned ENTRY has, so that no entry with low bits to be ignored (R30) is ever
taken (DESIGN CHOICE, log 50). -/
def State.packetOk (s : State) (p : List Word) : Bool :=
  let al (a : Addr) (n : Nat) : Bool := canonical a && decide (a.toNat % n = 0)
  let dep (j : Nat) : Bool := !(pktDep p j).1 || s.owns (pktCtx p) (pktDep p j).2.1
  pw p 0 == 0x4B580001 && pktZeros p && pktClass p != 3 && decide (pktCmp p < 6) && pktDies p != 0
  && al (pktEntry p) 4 && al (pktStream p) 8 && al (pktSets p) 8 && pktRec p != 0 && canonical (pktRec p)
  && (!pktWait p || decide ((pktWaddr p).toNat % 4 = 0)) && dep 0 && dep 1

/-- Check 3 of R298 (R153, R168). -/
def declOk (d : Decl) : Bool :=
  decide (8 ≤ d.vregs) && decide (d.vregs ≤ 240) && decide (d.vregs % 8 = 0) && decide (16 ≤ d.sregs) &&
  decide (d.sregs ≤ 512) && decide (d.sregs % 16 = 0) && decide (d.tregs ≤ 32) && decide (d.tregs % 4 = 0) &&
  decide (d.awin ≤ 256) && decide (d.btiles ≤ 128) && decide (d.bmem ≤ Config.blockMemory) &&
  decide (1 ≤ d.waves) && decide (d.waves ≤ 32) && decide (d.producer < d.waves)

/-- The ranges of entry `k` of a set table: first index and count, unused ranges left out (R301). -/
def setRanges (bs : List Byte) (k : Nat) : List (Nat × Nat) :=
  ((List.range 4).map fun j => ((areaWord bs (32 * k + 8 * j)).toNat, (areaWord bs (32 * k + 8 * j + 4)).toNat)).filter
    fun r => r.2 != 0

/-- Do two ranges of a list overlap? -/
def rangesOverlap : List (Nat × Nat) → Bool
  | [] => false
  | r :: t => (t.any fun q => decide (r.1 < q.1 + q.2) && decide (q.1 < r.1 + r.2)) || rangesOverlap t

/-- The checks of a set table (R301). A block in five sets is one in the first index of some range. -/
def setsOk (blocks : Nat) (sets : List (List (Nat × Nat))) : Bool :=
  let holds (x : Nat) (s : List (Nat × Nat)) : Bool := s.any fun r => decide (r.1 ≤ x) && decide (x < r.1 + r.2)
  sets.all (fun s => !s.isEmpty && s.all (fun r => decide (r.1 + r.2 ≤ blocks)) && !rangesOverlap s)
  && (sets.flatMap fun s => s).all fun r => decide ((sets.filter (holds r.1)).length ≤ 4)

/-- The header of a cut area (R346): its words. -/
def cutHeader (step : Word) (p : List Word) (live : Nat) (f : Nat) : List Word :=
  padTo 0 64 [1, step, BitVec.ofNat 32 live, pw p 7, pw p 8, pw p 9, if pktStream p = 0 then 0 else 1,
    BitVec.ofNat 32 f]

/-- Save-area size rounded up to 256 (R346). -/
def saveF (d : Decl) : Nat := (saveSize d + 255) / 256 * 256

/-- Bytes of a block's record in a cut area. -/
def cutStride (d : Decl) : Nat := 256 + d.waves * saveF d

/-- The cut area's header agrees with a relaunch packet (R347). -/
def State.relaunchOk (s : State) (x : Ctx) (p : List Word) : Bool :=
  let h (k : Nat) : Word := s.mem32 (x.cutArea.toNat + 4 * k)
  x.cutArea != 0 && !s.isBad x.cutArea.toNat 32 && h 0 == 1 && h 1 == pktRstep p && h 2 == pw p 6 && h 3 == pw p 7 &&
    h 4 == pw p 8 && h 5 == pw p 9 && h 6 == (if pktStream p = 0 then 0 else 1)

/-- What the checks of R298 give a packet: the state after their reads, the status, none when it may start, and its
sets; or the sectors of its set table that have to be read from another device first (R301). -/
abbrev PacketCheck := Except (List (Nat × Nat × Nat)) (State × Option Nat × List (List (Nat × Nat)))

/-- The checks of R298, in order; `uid` is the launch, for which sectors of other devices are read. An uncorrectable
header of the cut area is withheld (R438). -/
def State.checkPacket (s : State) (uid : Nat) (x : Ctx) (p : List Word) : PacketCheck :=
  let n := pktSetCount p
  if !s.packetOk p then .ok (s, some 5, [])
  else if (pktClass p != 0 && n != 0) || (pktFiller p && pktClass p != 2) || n > 256 then .ok (s, some 6, [])
  else
    match s.ctxRead (65 + uid) (pktCtx p) (pktSets p) (32 * n) with
    | .error asks => .error asks
    | .ok (s1, none) => .ok (s1, some 4, [])
    | .ok (s1, some bs) =>
      let sets := (List.range n).map (setRanges bs)
      if !setsOk (pktBlocks p) sets then .ok (s1, some 6, [])
      else if !declOk (pktDecl p) then .ok (s1, some 7, [])
      else if pktRsv p && !s1.relaunchOk x p then
        .ok (if x.cutArea != 0 && s1.isBad x.cutArea.toNat 32 then s1.withhold (some x.id) else s1, some 5, [])
      else if pktBlocks p = 0 then .ok (s1, some 1, [])
      else .ok (s1, none, sets)

/-- A launch's checks are made, or go on once its set table has been read (R298, R301). -/
def State.checkLaunch (s : State) (uid : Nat) (x : Ctx) (p : List Word) : State := match s.checkPacket uid x p with
  | .error asks => s.mantleAsk (65 + uid) x.id asks
  | .ok (s1, status, sets) =>
    (s1.mantleDone (65 + uid)).updLaunch uid fun l => { l with checking := false, status := status, sets := sets }

/-- A packet enters queue `q` (R298, R302): its sequence number, or none where it is discarded. -/
def State.enterPacket (s : State) (q : Nat) (p : List Word) : Option Word × State :=
  let ctx := pktCtx p
  match s.ctx? ctx with
  | none => (none, s.dropPacket q)
  | some x =>
    if !s.owns ctx q || x.phase == .resetting || (s.queued q).length ≥ 1024 then (none, s.dropPacket q)
    else
      let seq := (s.queue q).next
      let n := s.freshId
      let l : Launch :=
        { uid := n.1, queue := q, ctx := ctx, seq := seq, order := s.nextOrder, packet := p,
          stamps := [(s.queue (pktDep p 0).2.1).assign, (s.queue (pktDep p 1).2.1).assign], status := none, started := false,
          reserved := [], sets := [], phases := [], returned := [], nextIdx := 0, live := pktBlocks p, ended := 0, ran := 0,
          killed := 0, faults := 0, maxStep := 0, lastRead := none, waitSeen := 0, waitScope := 2, waitDone := !pktWait p,
          checking := true, cut := none, cutDone := false }
      let s1 : State := { n.2.updQueue q (fun x => { x with next := x.next + 1 }) with
        launches := s.launches ++ [l], nextOrder := s.nextOrder + 1 }
      (some seq, s1.checkLaunch n.1 x p)

/-- A launch's set table has been read from another device: its checks go on (R301). -/
def State.checkDue (s : State) (l : Launch) : Bool := l.checking && !s.mantleWaits (65 + l.uid)

/-- They go on. -/
def State.checkNext (s : State) (l : Launch) : State := match s.ctx? l.ctx with
  | some x => s.checkLaunch l.uid x l.packet
  | none => s

/-- A write to QOWN (R296): ignored while the queue is BUSY. -/
def execQownWrite (q : Nat) (v : BitVec 32) (s : State) : Out :=
  if q ≥ 16 || !(s.queued q).isEmpty then .next s
  else .next (s.updQueue q fun x =>
    { id := q, valid := v.getLsbD 7, ctx := (v.extractLsb' 0 6).toNat, next := 1, drops := 0, assign := x.assign + 1 })

/-- A dependence is satisfied (R303). -/
def State.depDone (s : State) (l : Launch) (j : Nat) : Bool :=
  let d := pktDep l.packet j
  let q := s.queue d.2.1
  !d.1 || q.assign != l.stamps.getD j 0 ||
    (!decide ((d.2.2 - q.next).toNat < 2 ^ 31) && !((s.queued d.2.1).any fun x => x.seq == d.2.2))

/-- The launch that waits at the head of queue `q` (R302): every earlier one has started, and its checks
are made. -/
def State.headOf (s : State) (q : Nat) : Option Launch :=
  ((s.queued q).find? fun l => !l.started && l.status.isNone).filter fun l => !l.checking

/-- The context runs: its blocks may be started (R338). -/
def State.runs (s : State) (ctx : Nat) : Bool := match s.ctx? ctx with
  | some x => x.phase == .active
  | none => false

/-- The head's dependences are satisfied (R303) and its context runs. -/
def State.headFree (s : State) (l : Launch) : Bool := s.runs l.ctx && s.depDone l 0 && s.depDone l 1

/-- What the home L2 has reported of the line that a launch's memory wait reads: nothing for a page that is not
in this device's memory (R304). -/
def State.waitStamp (s : State) (l : Launch) : Nat :=
  match s.translate mantleCore l.ctx { r := true } (pktWaddr l.packet) with
  | .ok t => if t.space == .here then s.lineStamp (t.pa / 128) else 0
  | _ => 0

/-- The memory wait of a head is due for a read (R304): the first, one after a report of a write to its line, or
4,096 dispatcher cycles on. -/
def State.waitDue (s : State) (l : Launch) : Bool :=
  s.headFree l && !l.waitDone && match l.lastRead with
    | none => true
    | some t => decide (s.svNow ≥ t * 2 / 3 + 4096) || s.waitStamp l != l.waitSeen

/-- MEMORY_WAIT_REREAD (R304). -/
def execMemoryWaitReread (q : Nat) (s : State) : Out :=
  match s.headOf q with
  | none => .next s
  | some l =>
    if !s.headFree l || l.waitDone then .next s
    else
      let va := pktWaddr l.packet
      let fault : State := s.updLaunch l.uid fun x => { x with status := some 4 }
      if inAperture va then .next fault
      else
        match s.translate mantleCore l.ctx { r := true } va with
        | .ok t =>
          match t.space with
          | .here =>
            if s.isBad t.pa 4 then .next (fault.withhold (some l.ctx))
            else
              let seen := s.lineStamp (t.pa / 128)
              .next ((s.updLaunch l.uid fun x => { x with waitSeen := seen }).waitTestLaunch l (s.mem32 t.pa))
          | .host => .next (s.waitTestLaunch l (areaWord (getRun 0 s.hostMem t.pa 4) 0))
          | .remote dev slot =>
            let s1 := s.updLaunch l.uid fun x => { x with lastRead := some s.now, waitSeen := 0, waitScope := 3 }
            .next (s1.remoteRead dev slot l.ctx t.pa 1 none none (.wait l.uid)).2
        | .abort => .next (fault.withhold (some l.ctx))
        | _ => .next fault

/-- Waves of a block of `n` waves on sub-core `k` (R151, R306). -/
def wavesOn (n k : Nat) : Nat := (n + 5 - k) / 6

/-- What a core holds: declarations with context and whether there is a stream (R306, R307). -/
abbrev Load := List (Decl × Nat × Bool)

/-- Resident blocks and reservations of a core. -/
def State.loadOf (s : State) (core : Nat) : Load :=
  ((s.blocks.filter fun b => b.core == core).map fun b => (b.decl, b.ctx, b.stream.isSome)) ++
  s.launches.flatMap fun l => ((l.reserved.drop l.nextIdx).filter fun c => c == core).map fun _ =>
    (pktDecl l.packet, l.ctx, pktStream l.packet != 0)

/-- Sum of a figure over a core's load. -/
def Load.sum (x : Load) (f : Decl → Nat) : Nat := x.foldl (fun n e => n + f e.1) 0

/-- Contexts of a load, with one more. -/
def ctxCount (x : Load) (ctx : Nat) : Nat := ((x.map fun e => e.2.1) ++ [ctx]).eraseDups.length

/-- A core with a given load admits a block (R154, R306). -/
def State.admits (s : State) (core : Nat) (load : Load) (p : List Word) (ctx : Nat) : Bool :=
  let d := pktDecl p
  let k := s.core core
  let hasStream := pktStream p != 0
  let all : Load := (d, ctx, hasStream) :: load
  (pktDies p).getLsbD (dieOf core) && !k.fenced
  && (List.range Config.nSub).all (fun sub =>
      decide (all.sum (fun d => wavesOn d.waves sub) ≤ Config.nSlots) &&
      decide (all.sum (fun d => wavesOn d.waves sub * (d.vregs + 4 * d.tregs)) ≤ Config.vectorFile))
  && decide (all.sum (fun d => d.bmem) ≤ Config.blockMemory) && decide (all.sum (fun d => d.awin) ≤ 256)
  && decide (all.sum (fun d => d.btiles) ≤ 128) && decide ((all.filter fun e => e.2.2).length ≤ 2)
  && decide (ctxCount load ctx ≤ 4) && k.fencedSubs.all (fun sub => decide (d.waves ≤ sub))
  && (!k.fencedArray || (!hasStream && d.awin == 0 && d.btiles == 0))

/-- Free wave slots of a core with a load (R307). -/
def freeSlots (load : Load) : Nat := 96 - load.sum fun d => d.waves

/-- The core that R307 assigns to the next block: the most free wave slots, then the lowest number. -/
def State.bestCore (s : State) (loads : Nat → Load) (p : List Word) (ctx : Nat) : Option Nat :=
  (List.range Config.nCores).foldl (fun best c =>
    if !s.admits c (loads c) p ctx then best
    else match best with
      | none => some c
      | some b => if freeSlots (loads c) > freeSlots (loads b) then some c else some b) none

/-- Assign `n` blocks one after another (R307): their cores, or none where one finds no core. -/
def State.assign (s : State) (base : Nat → Load) (p : List Word) (ctx : Nat) : Nat → List Nat → Option (List Nat)
  | 0, acc => some acc
  | n + 1, acc =>
    let mine : Decl × Nat × Bool := (pktDecl p, ctx, pktStream p != 0)
    let loads (c : Nat) : Load := (acc.filter fun x => x == c).map (fun _ => mine) ++ base c
    match s.bestCore loads p ctx with
    | none => none
    | some c => s.assign base p ctx n (acc ++ [c])

/-- Whole reservations are never larger than the device's wave slots (R307). -/
def tooMany (l : Launch) : Bool := decide (l.live * (pktDecl l.packet).waves > Config.nCores * 96)

/-- The reservation of a concurrent launch (R307). -/
def State.reservation (s : State) (l : Launch) : Option (List Nat) :=
  if tooMany l then none else s.assign s.loadOf l.packet l.ctx l.live []

/-- Could the launch fit an empty device (R165, R307)? -/
def State.couldFit (s : State) (l : Launch) : Bool :=
  !tooMany l && (s.assign (fun _ => []) l.packet l.ctx l.live []).isSome

/-- A ready head: its waits are over (R303, R304). -/
def State.headReady (s : State) (l : Launch) : Bool := s.headFree l && l.waitDone

/-- A ready concurrent head that waits for room (R307). -/
def State.waitsRoom (s : State) (l : Launch) : Bool :=
  pktClass l.packet == 0 && pktRoom l.packet && (s.reservation l).isNone && s.couldFit l

/-- The launches that wait for room. -/
def State.roomWaiters (s : State) : List Launch :=
  ((List.range 16).filterMap s.headOf).filter fun l => pktClass l.packet == 0 && s.headReady l && s.waitsRoom l

/-- Launch `a` comes before `b` (R305): priority, then commit order. -/
def launchBefore (a b : Launch) : Bool :=
  decide (pktPrio a.packet > pktPrio b.packet) ||
    (pktPrio a.packet == pktPrio b.packet && decide (a.order < b.order))

/-- A reservation that waits for room keeps a block of a lesser launch, or a filler, off a core (R307,
R310). -/
def keptOff (waiting : List Launch) (l : Launch) (core : Nat) : Bool :=
  waiting.any fun w => (pktDies w.packet).getLsbD (dieOf core) && w.uid != l.uid &&
    (launchBefore w l || pktFiller l.packet)

/-- The reservation of a concurrent launch would place a block where a launch that waits for room keeps it off:
it waits too, its own ROOM set or not (R307; DESIGN CHOICE, log 2: the rule says neither that it completes with TOOBIG
nor that it takes another core). -/
def State.yieldsRoom (s : State) (l : Launch) : Bool :=
  let waiting := s.roomWaiters
  !waiting.isEmpty && match s.reservation l with
    | some cores => cores.any (keptOff waiting l)
    | none => false

/-- A launch of a pending block. -/
def State.fillerOf (s : State) (uid : Nat) : Bool := match s.launch? uid with
  | some l => pktFiller l.packet
  | none => false

/-- The queue engine that takes the launch's next block (R308, R310). -/
def State.engineFor (s : State) (l : Launch) : Option Nat :=
  let len (c : Nat) : Nat := (s.core c).pending.length
  (List.range Config.nCores).foldl (fun best c =>
    if len c ≥ 8 || !s.admits c [] l.packet l.ctx ||
        (pktFiller l.packet && (s.core c).pending.any fun e => !s.fillerOf e.1) then best
    else match best with
      | none => some c
      | some b => if len c < len b then some c else some b) none

/-- The launch has blocks that are not placed or distributed. -/
def Launch.hasMore (l : Launch) : Bool := !l.returned.isEmpty || decide (l.nextIdx < l.live)

/-- Blocks of a cut launch are started no more (R345). -/
def Launch.open (l : Launch) : Bool := l.status.isNone && l.cut.isNone

/-- Started launches that are not complete (R302). -/
def State.startedCount (s : State) : Nat := (s.launches.filter fun l => l.started).length

/-- May the dispatcher work on a launch in this cycle (R305)? -/
def State.candidate (s : State) (l : Launch) : Bool :=
  if !l.open || !s.runs l.ctx then false
  else if l.started then
    l.hasMore && (!l.reserved.isEmpty || (pktClass l.packet != 0 && (s.engineFor l).isSome))
  else
    ((s.headOf l.queue).map fun h => h.uid) == some l.uid && s.headReady l && decide (s.startedCount < 64) &&
      !(pktClass l.packet == 0 && (s.waitsRoom l || s.yieldsRoom l))

/-- The launch that the dispatcher works on (R305). -/
def State.dispatchPick (s : State) : Option Launch :=
  (s.launches.filter fun l => s.candidate l).foldl (fun best l => match best with
    | none => some l
    | some b => if launchBefore l b then some l else some b) none

/-- LAUNCH_START (R302, R307): the launch of a queue's head that the dispatcher has chosen starts; a
concurrent one makes its reservation, or completes with TOOBIG. -/
def execLaunchStart (q : Nat) (s : State) : Out :=
  match s.headOf q with
  | none => .next s
  | some l =>
    if (s.dispatchPick.map fun x => x.uid) != some l.uid then .next s
    else if pktClass l.packet = 0 then
      match s.reservation l with
      | some cores => .next (s.updLaunch l.uid fun x => { x with started := true, reserved := cores })
      | none => .next (s.updLaunch l.uid fun x => { x with status := some 2 })
    else .next (s.updLaunch l.uid fun x => { x with started := true })

/-- The lowest slot of a sub-core that no wave of a resident block holds (R154). -/
def State.freeWaveSlot (s : State) (core sub : Nat) (more : List (Nat × Nat)) : Nat :=
  let used := more ++ ((s.blocks.filter fun b => b.core == core).flatMap fun b => b.waves.map fun w => (w.sub, w.slot))
  ((List.range Config.nSlots).find? fun k => !used.contains (sub, k)).getD 0

/-- Scalar registers at wave start (R152). -/
def startS (l : Launch) (idx wave : Nat) : Words :=
  setRun 0 [] 0 (splitW (pktArgs l.packet) ++ [BitVec.ofNat 32 idx, BitVec.ofNat 32 wave, BitVec.ofNat 32 l.live,
    BitVec.ofNat 32 l.ctx, l.seq])

/-- A wave at its start (R152, R155). -/
def startWave (l : Launch) (idx i slot : Nat) : Wave :=
  { idx := i, sub := i % Config.nSub, slot := slot, v := [], s := startS l idx i, p := [], t := [],
    splits := [some { pc := pktEntry l.packet, word := 0, mask := 0xFFFFFFFF, rho := 0, stack := [], wait := .none },
      none, none, none],
    deferred := none, exitedLanes := 0, dead := 0, flags := 0, starve := 1024, starveCnt := 0, readySince := none,
    promoted := none, yielded := 0, turn := 3, step := 0, lastSeq := 0, cycleHi := 0, pend := [], loads := [],
    sq := [], atoms := [], acks := [], rays := [], colls := [], run := .running, args := none, skid := 0,
    faulted := none, service := none }

/-- The waves of a block that starts, each in its sub-core's lowest free slot. -/
def State.startWaves (s : State) (core : Nat) (l : Launch) (idx : Nat) : List Wave :=
  (List.range (pktDecl l.packet).waves).foldl (fun ws i =>
    let slot := s.freeWaveSlot core (i % Config.nSub) (ws.map fun w => (w.sub, w.slot))
    ws ++ [startWave l idx i slot]) []

/-- The stream of a block at its start (R254). -/
def startStream (l : Launch) (idx now : Nat) : Option Stream :=
  if pktStream l.packet = 0 then none
  else some { pc := pktStream l.packet, x := [BitVec.ofNat 64 idx, pktArgs l.packet, 0, 0, 0, 0, 0, 0], step := 0,
              partials := [], run := .running, readySince := now }

/-- A block at its start (R152, R173, R251, R252, R253). -/
def State.startBlockData (s : State) (core uid : Nat) (l : Launch) (idx : Nat) : Block :=
  { uid := uid, core := core, launch := l.uid, ctx := l.ctx, index := idx, decl := pktDecl l.packet, started := s.now,
    waves := s.startWaves core l idx, bmem := [], win := [], satCount := [], tiles := [],
    spare := (s.core core).spareColumn.map fun n => (n, []), bars := [], mbars := [],
    chans := [], tokens := [], stream := startStream l idx s.now, halt := none, sideEffect := false, gsync := [],
    stuckSince := none }

/-- STATE of a block in the cut area of a relaunch (R346, R347): 0 where there is none. A record that cannot be read is
one to be restored, and its restore fails (R437; log 40). -/
def State.cutState (s : State) (l : Launch) (idx : Nat) : Nat :=
  if !pktRsv l.packet || idx ≥ pktBlocks l.packet then 0
  else match s.ctx? l.ctx with
    | some x =>
      let base := x.cutArea.toNat + 256 + idx * cutStride (pktDecl l.packet)
      if s.isBad base 256 then 1 else (s.mem32 base).toNat
    | none => 0

/-- The first wave of a cut area's block whose restore cannot be made: the record or its save area reads as
uncorrectable, or the area fails its check (R176, R437). -/
def State.cutBad (s : State) (d : Decl) (base : Nat) : Option Nat :=
  (List.range d.waves).find? fun i => s.isBad base 256 || s.isBad (base + 256 + i * saveF d) (saveSize d) ||
    !areaOk d (s.memRun (base + 256 + i * saveF d) (saveSize d))

/-- A block restored from its record in the cut area (R347); one that cannot be restored halts (R176, R335, R437). -/
def State.cutRestore (s : State) (b : Block) (base : Nat) : Block :=
  let d := b.decl
  let area (i : Nat) : List Byte := s.memRun (base + 256 + i * saveF d) (saveSize d)
  match s.cutBad d base with
  | some i => b.takeTrap s.now i 0 { cause := causeProt, reason := 9, opcode := 0 }
  | none =>
    let waves := b.waves.map fun w => w.restore d (area w.idx)
    let stream := b.stream.map fun t =>
      let x := (List.range 8).map fun n => s.mem64 (base + 16 + 8 * n)
      let pos := s.mem64 (base + 8)
      { t with pc := (pos.extractLsb' 0 55).signExtend 64, step := (s.mem32 (base + 4)).toNat, x := x,
               run := if pos = 0 then .ended else .running }
    { b with waves := waves, stream := stream }

/-- A restore from the cut area has met an uncorrectable datum, which raises its interrupts (R438). -/
def State.cutWithheld (s : State) (ctx : Nat) (d : Decl) (base : Nat) : State :=
  let bad := s.isBad base 256 || match s.cutBad d base with
    | some i => s.isBad (base + 256 + i * saveF d) (saveSize d)
    | none => false
  if bad then s.withhold (some ctx) else s

/-- Block `idx` of a launch starts on a core (R308, R311): its start acquires at device scope, or at fabric
scope where its launch's memory wait read a page of another device (R304), and a block of a relaunch whose STATE is 1
is restored, each time it starts: one that R341 has restarted too (DESIGN CHOICE, log 40: R341 has a restarted block
start from its entry, and R347 restores a STATE 1 block). -/
def State.startBlock (s : State) (core : Nat) (l : Launch) (idx : Nat) : State :=
  let n := s.freshId
  let b := s.startBlockData core n.1 l idx
  let base := ((s.ctx? l.ctx).map fun x => x.cutArea.toNat).getD 0 + 256 + idx * cutStride b.decl
  let back := s.cutState l idx == 1
  let b1 := if back then s.cutRestore b base else b
  let s0 := if back then n.2.cutWithheld l.ctx b.decl base else n.2
  let s1 : State := { s0 with blocks := s0.blocks ++ [b1] }
  (s1.acquireCaches core l.ctx l.waitScope).checkpoint core n.1 0xFF false true

/-- The next index of a launch to place or distribute, and the launch after it: returned indices first
(R341). -/
def Launch.takeIdx (l : Launch) : Nat × Launch := match l.returned with
  | i :: t => (i, { l with returned := t })
  | [] => (l.nextIdx, { l with nextIdx := l.nextIdx + 1 })

/-- DISPATCH_BLOCK (R305, R307, R308, R347): one block of the chosen launch is placed or distributed; one
that a relaunch finds ended counts as ended. -/
def execDispatchBlock (s : State) : Out :=
  match s.dispatchPick with
  | none => .next s
  | some l =>
    if !l.started then .next s
    else
      let t := l.takeIdx
      let s1 := s.updLaunch l.uid fun _ => t.2
      if s.cutState l t.1 = 2 then .next (s1.updLaunch l.uid fun x => { x with ended := x.ended + 1, ran := x.ran + 1 })
      else if pktClass l.packet = 0 then .next (s1.startBlock (l.reserved.getD t.1 0) l t.1)
      else
        match s.engineFor l with
        | some c => .next (s1.updCore c fun k => { k with pending := k.pending ++ [(l.uid, t.1)] })
        | none => .next s

/-- A queue engine's pending blocks in its order (R308). -/
def State.pendingOrder (s : State) (core : Nat) : List (Nat × Nat) :=
  let key (e : Nat × Nat) : List Nat := match s.launch? e.1 with
    | some l => [7 - pktPrio l.packet, l.order, e.2]
    | none => [8, 0, 0]
  let insert (e : Nat × Nat) (acc : List (Nat × Nat)) : List (Nat × Nat) :=
    acc.filter (fun x => lexLt (key x) (key e)) ++ e :: acc.filter fun x => !lexLt (key x) (key e)
  (s.core core).pending.foldr insert []

/-- May a pending block start on its core now (R306, R307)? -/
def State.mayStart (s : State) (waiting : List Launch) (core : Nat) (e : Nat × Nat) : Bool :=
  match s.launch? e.1 with
  | some l => s.runs l.ctx && l.open && s.admits core (s.loadOf core) l.packet l.ctx && !keptOff waiting l core
  | none => false

/-- The block that a queue engine starts (R308, R310). -/
def State.nextPending (s : State) (core : Nat) : Option (Nat × Nat) :=
  let order := s.pendingOrder core
  if order.isEmpty then none
  else
    let can := order.filter (s.mayStart s.roomWaiters core)
    match can.find? fun e => !s.fillerOf e.1 with
    | some e => some e
    | none => can.head?

/-- BLOCK_START (R308, R310). -/
def execBlockStart (core : Nat) (s : State) : Out :=
  match s.nextPending core with
  | none => .next s
  | some e =>
    match s.launch? e.1 with
    | none => .next s
    | some l =>
      .next ((s.updCore core fun k => { k with pending := k.pending.erase e }).startBlock core l e.2)

/-- The victim of a steal request: the LFSR steps until it names another core (R309). -/
def stealVictim (core : Nat) : Nat → BitVec 16 → Nat × BitVec 16
  | 0, x => (x.toNat % Config.nCores, x)
  | n + 1, x =>
    let y := lfsrStep x
    if y.toNat % Config.nCores = core then stealVictim core n y else (y.toNat % Config.nCores, y)

/-- An idle core (R309). -/
def State.coreIdle (s : State) (core : Nat) : Bool :=
  (s.core core).pending.isEmpty && decide ((s.loadOf core).sum (fun d => wavesOn d.waves 0) < Config.nSlots)

/-- May a core take a pending block of another one: is its die in the launch's DIES (R309)? -/
def State.mayTake (s : State) (core : Nat) (e : Nat × Nat) : Bool := match s.launch? e.1 with
  | some l => (pktDies l.packet).getLsbD (dieOf core)
  | none => false

/-- The LFSR after `n` requests (R309). -/
def stealSkip (core : Nat) : Nat → BitVec 16 → BitVec 16
  | 0, x => x
  | n + 1, x => stealSkip core n (stealVictim core 65536 x).2

/-- The next steal request that is due: an idle core asks, once a core cycle, while some engine holds a block
that it may take (R309; log 1). -/
def State.stealDue (s : State) : Option Nat :=
  let held := s.cores.filter fun e => !e.pending.isEmpty
  if held.isEmpty then none
  else (List.range Config.nCores).find? fun c =>
    (s.core c).stealAt != some s.now && s.coreIdle c &&
      held.any fun k => k.id != c && k.pending.any (s.mayTake c)

/-- STEAL_REQUEST (R309). The core has sent its requests one after another while it was idle; how many were answered
with none since its last one is a free value (log 2). -/
def execStealRequest (core : Nat) (s : State) : Out :=
  if core ≥ Config.nCores || !s.coreIdle core then .next s
  else
    let n := s.takeFree
    let v := stealVictim core 65536 (stealSkip core (Config.freeSteals n.1) (s.core core).lfsr)
    let s1 := n.2.updCore core fun k => { k with lfsr := v.2, stealAt := some s.now }
    .next (match (s.pendingOrder v.1).reverse.find? (s.mayTake core) with
      | none => s1
      | some e => (s1.updCore v.1 fun k => { k with pending := k.pending.erase e }).updCore core fun k =>
          { k with pending := k.pending ++ [e] })

/-- Frames of a context are freed (R332). -/
def State.freeFrames (s : State) (ctx : Nat) (fs : List Nat) : State :=
  s.updCtx ctx fun x => { x with usedFrames := x.usedFrames.filter fun f => !fs.contains f }

/-- Frames that a block holds: of its parked waves, and of its halt. -/
def Block.frames (b : Block) : List Nat :=
  (b.waves.filterMap fun w => match w.run with
    | .parked _ f => some f
    | _ => none) ++ (match b.halt with
    | some h => h.frames.map fun e => e.2
    | none => [])

/-- A trap record for a line whose dirty bytes are discarded (R329): its 256 words. -/
def discardRecord (core ctx line : Nat) : List Word :=
  padTo 0 256 ([1, BitVec.ofNat 32 (causeProt + 256 * 10 + 65536 * 0xFF), 0, 0] ++ splitW (BitVec.ofNat 64 (line * 128)) ++
    [0, BitVec.ofNat 32 (65536 * core), 0xFFFFFFFF, 0, BitVec.ofNat 32 ctx])

/-- The context's last block on a core has ended: lines that cannot be written back are discarded, each
with a trap record (R329). -/
def State.discardPinned (s : State) (core ctx : Nat) : State :=
  if s.blocks.any fun b => b.core == core && b.ctx == ctx then s
  else
    let bad := s.l1.filter fun x => x.core == core && x.ctx == ctx && x.pinned && x.dirty != 0
    let s1 : State := { s with l1 := s.l1.filter fun x => !bad.contains x }
    s1.updCtx ctx fun x => { x with trapWait := x.trapWait ++ bad.map fun ln => (none, discardRecord core ctx ln.line) }

/-- A block leaves its core: frames, copies, checkpoints and issue slots with it; its steps count for the
launch (R250, R299, R332). -/
def State.removeBlock (s : State) (u : Nat) : State :=
  match s.block? u with
  | none => s
  | some b =>
    let top := b.waves.foldl (fun m w => max m w.step.toNat) 0
    let handles := b.waves.filterMap fun w => match w.run with
      | .parked h _ => some h
      | _ => none
    let s0 := s.updCtx b.ctx fun x => { x with entryWait := x.entryWait.filter fun e => !handles.contains e.1 }
    let s1 : State := { s0 with
      blocks := s.blocks.filter fun x => x.uid != u
      issues := s.issues.filter fun i => i.block != u }
    let s2 := s1.updCore b.core fun k =>
      { k with
        copies := k.copies.filter fun j => j.block != u
        owner := if k.owner == some u then none else k.owner
        history := k.history.map fun x => { x with
          blocks := x.blocks.filter (fun y => y.uid != u), copies := x.copies.filter fun j => j.block != u }
        lastWord := k.lastWord.filter fun e => e.block != u
        lastStream := k.lastStream.filter fun x => x.uid != u }
    ((s2.freeFrames b.ctx b.frames).updLaunch b.launch fun l => { l with maxStep := max l.maxStep top }).discardPinned
      b.core b.ctx

/-- Everything a block waits for at its end (R21, R250, R254, R312): waves exited and drained, its copies
and its stream done. -/
def State.blockDrained (s : State) (b : Block) : Bool :=
  (b.waves.all fun w => w.run == .exited && w.sq.isEmpty && w.atoms.isEmpty && w.acks.isEmpty && w.loads.isEmpty &&
    w.rays.isEmpty && w.colls.isEmpty && w.pend.all fun p => decide (p.due ≤ s.now))
  && !((s.core b.core).copies.any fun j => j.block == b.uid) && b.streamGone && b.halt.isNone

/-- A block whose halt can never resume has its record written, and its collective operations and posted stores have
completed, so that it ends (R311, R332, R343, R394). -/
def Block.haltOver (b : Block) : Bool := (match b.halt with
  | some h => h.recorded && h.handle == 0
  | none => false) && b.waves.all fun w => w.colls.isEmpty && w.acks.isEmpty

/-- Write back what can be written of a context's lines in a core's L1; lines that fault stay, excluded
from eviction (R312, R329). -/
def releaseWhatCan (s : State) : List L1Line → State
  | [] => s
  | ln :: t =>
    match s.writeBack ln with
    | .ok s1 => releaseWhatCan (s1.keepL1 ln.core ln.ctx ln.line { ln.cleaned with pinned := false }) t
    | .error _ => releaseWhatCan (s.keepL1 ln.core ln.ctx ln.line { ln with pinned := true }) t

/-- A draining or cutting context with no resident block is PREEMPTED (R338). -/
def State.settlePhase (s : State) (ctx : Nat) : State :=
  match s.ctx? ctx with
  | none => s
  | some x =>
    let empty := !(s.blocks.any fun b => b.ctx == ctx)
    let cutOver := match x.cutLaunch with
      | none => true
      | some l => match s.launch? l with
        | some y => y.cutDone
        | none => true
    if empty && (x.phase == .draining || (x.phase == .cutting && cutOver)) then
      s.updCtx ctx fun x => { x with phase := .preempted, timers := [], cutLaunch := none }
    else if x.phase == .draining || x.phase == .cutting then
      s.updCtx ctx fun x => { x with timers := x.timers.filter fun t => s.blocks.any fun b => b.ctx == ctx && b.core == t.1 }
    else s

/-- A block's end counts for its launch. -/
def State.countEnd (s : State) (b : Block) (ran : Bool) : State :=
  s.updLaunch b.launch fun l => { l with ended := l.ended + 1, ran := l.ran + if ran then 1 else 0 }

/-- BLOCK_END (R195, R250, R254, R312, R329, R332): the release at fabric scope, and once what it wrote to another device
is acknowledged (R213) the block is gone; one that ends by its halt does not count in BLOCKS. -/
def execBlockEnd (b : Nat) (s : State) : Out :=
  match s.block? b with
  | none => .next s
  | some x =>
    if !(s.blockDrained x || x.haltOver) then .next s
    else
      let s1 := releaseWhatCan s (s.l1Of x.core x.ctx)
      if s1.evicting x.core x.ctx then .next s1
      else .next (((s1.countEnd x x.halt.isNone).removeBlock b).settlePhase x.ctx)

/-- Write a record of 32-bit words, its first word last, and raise its vector after that (R299, R321): none where the
write faults or aborts. A record on another device is posted, its first word once the others have been written. -/
def State.putRecord (s : State) (ctx q : Nat) (va : Addr) (r : List Word) (vec : Option Nat) : Option State :=
  if va = 0 || !canonical va || inAperture va then none
  else
    match s.translate mantleCore ctx { w := true } va with
    | .ok t =>
      let head := wordsBytes (r.take 1)
      let rest := wordsBytes (r.drop 1)
      match t.space with
      | .here => some (vec.toList.foldl (fun s v => s.raise v) ((s.pocWrite (t.pa + 4) none rest).pocWrite t.pa none head))
      | .host => some (vec.toList.foldl (fun s v => s.raise v) ((s.hostBytes (t.pa + 4) rest).hostBytes t.pa head))
      | .remote dev slot =>
        some (s.remoteWrite dev slot ctx (t.pa + 4) rest (.record q (some (dev, slot, t.pa, head)) vec)).2
    | _ => none

/-- The launch is over (R298, R299, R312): it never started and has its status, its blocks have all ended,
or its cut is done. -/
def State.launchDone (s : State) (l : Launch) : Bool :=
  let idle := !(s.blocks.any fun b => b.launch == l.uid)
  idle && (l.status.isSome || l.cutDone || (l.started && decide (l.ended ≥ l.live) && l.cut.isNone))

/-- A launch completes: its record is written, STATUS last, and the vector raised; the launch leaves its
queue's list (R299, R300, R303). -/
def State.completeLaunch (s : State) (x : Launch) : State :=
  let status := if x.cutDone then 8 else x.status.getD 1
  let step := if x.cutDone then x.cut.getD 0 else x.maxStep
  let rec8 : List Word := [BitVec.ofNat 32 status, x.seq, BitVec.ofNat 32 x.ran, BitVec.ofNat 32 x.killed,
    BitVec.ofNat 32 x.faults, BitVec.ofNat 32 step, BitVec.ofNat 32 (64 * x.queue + x.ctx), 0]
  let vec := if pktIrq x.packet then some (32 * x.ctx + 1 + x.queue) else none
  let s1 := (match s.putRecord x.ctx x.queue (pktRec x.packet) rec8 vec with
    | some s1 => s1
    | none => (s.walkWithheld mantleCore x.ctx { w := true } (pktRec x.packet)).dropPacket x.queue).mantleDone (65 + x.uid)
  { s1 with launches := s1.launches.filter fun y => y.uid != x.uid }

/-- LAUNCH_COMPLETE (R299, R300, R312, R321). -/
def execLaunchComplete (l : Nat) (s : State) : Out :=
  match s.launch? l with
  | none => .next s
  | some x => if s.launchDone x then .next (s.completeLaunch x) else .next s

/-- Checks of LAUNCH and GROW: no extension (R177, R313, R314). -/
def formLaunch (ok operands : Bool) (reads writes : List Nat) (_ : Cur) : Form :=
  { opcode := 0x7D, fieldsOk := ok, xc := xcNone, operandsOk := operands, reads := { noRegs with s := reads },
    writes := { noRegs with s := writes }, lat := 0 }

/-- The wave is held at LAUNCH or GROW, which act as FENCE.REL.DV MEM (R313, R314). -/
def Cur.enter (c : Cur) (s : State) (e : Hold → Effect) : State :=
  let h : Hold := { c.hold s 0x7D with rel := true, scope := 2, mask := 1 }
  endClause s c { c.wv.setPart c.iss.part (some (c.pt.stay c .none)) with
    run := .entering h, sq := c.wv.sq ++ [(s.now, e h)] }

/-- Checks and registers of LAUNCH. -/
def formLaunchW (n : BitVec 5) (c : Cur) : Form :=
  formLaunch true (c.sregsOk (2 * n.toNat) 2 2) [2 * n.toNat, 2 * n.toNat + 1] [] c
/-- LAUNCH (R313): the checks of step 1; the rest takes place when the word may leave the core. -/
def execLaunch (n : BitVec 5) (q : BitVec 4) (s : State) : Out :=
  runWord s (formLaunchW n) fun c _ =>
    let a := c.wv.getS64 (2 * n.toNat)
    let trap (cause reason : Nat) : Out :=
      .next (takeTrap s c { cause := cause, reason := reason, opcode := 0x7D, addr := a, mask := c.liveMask })
    if !canonical a then trap causeProt 1
    else if a.toNat % 256 ≠ 0 then trap causeAlign 0
    else if !s.owns c.blk.ctx q.toNat then trap causeProt 8
    else .next (c.enter s fun h => .launch h q.toNat a)

/-- Checks and registers of GROW. -/
def formGrow (i d : BitVec 8) (c : Cur) : Form :=
  formLaunch (c.blk.decl.cls != 0) (c.sregsOk i.toNat 1 1 && c.sregsOk d.toNat 1 1) [i.toNat]
     [d.toNat] c
/-- GROW (R314): illegal in a concurrent launch. -/
def execGrow (i d : BitVec 8) (s : State) : Out :=
  runWord s (formGrow i d) fun c _ => .next (c.enter s fun h => .grow h d.toNat (c.wv.getS i.toNat))

/-- The wave goes on past the LAUNCH or GROW that held it, unless it has exited meanwhile. -/
def Wave.entered (h : Hold) (w : Wave) : Wave := match w.run with
  | .entering _ => { w with run := .running }.pastPart h.part
  | _ => w

/-- GROW takes effect (R314). -/
def State.doGrow (s : State) (b : Block) (w : Wave) (h : Hold) (d : Nat) (inc : Word) : State :=
  match s.launch? b.launch with
  | none => s
  | some l =>
    let fits := decide (l.live + inc.toNat ≤ 0xFFFFFFFF)
    let s1 := if fits then s.updLaunch l.uid fun x => { x with live := x.live + inc.toNat } else s
    s1.updWaveAll b.uid w.idx fun w =>
      w.setS d (if fits then BitVec.ofNat 32 l.live else 0xFFFFFFFF) |>.entered h

/-- The packet that LAUNCH reads (R313). -/
inductive PacketRead where
  | ok (p : List Word)
  | trap (t : TrapInfo)
  | abort
  /-- It lies on another device: the next sector is asked for, or is on its way. -/
  | ask (dev slot : Nat) (t : Target)
  | waits
  deriving DecidableEq, Repr

/-- Data of the packet load that a wave has under way: sectors received, and whether one is awaited. -/
def Wave.packetLoad (w : Wave) : Option LoadOp := w.loads.find? fun l => l.dest == .packet

/-- The sectors of a packet that have come, as the lead lane holds them. -/
def LoadOp.leadData (l : LoadOp) : List (List Byte) :=
  let lead := (l.data.head?.map fun e => e.1).getD 0
  (l.data.filter fun e => e.1 == lead).map fun e => e.2

/-- The packet that a LAUNCH has read already (R313). -/
def Wave.packetWords (w : Wave) : Option (List Word) := match w.packetLoad with
  | some l => if l.killed == 0 && l.waits.isEmpty && decide (l.leadData.length ≥ 4) then
      some (bytesWords l.leadData.flatten) else none
  | none => none

/-- A packet that has been read and waits for room in its queue (R313). -/
def Wave.keepPacket (w : Wave) (part : Nat) (p : List Word) : Wave :=
  let rest := w.loads.filter fun l => l.dest != .packet
  let held : LoadOp :=
    { part := part, dest := .packet, killed := 0, waits := [], acqScope := none, issued := 0, due := 0,
      data := (List.range 4).map fun i => (0, wordsBytes ((p.drop (16 * i)).take 16)) }
  { w with loads := rest ++ [held] }

/-- What LAUNCH finds at its address (R313). -/
def State.readPacket (s : State) (b : Block) (w : Wave) (a : Addr) : PacketRead :=
  match w.packetWords with
  | some p => .ok p
  | none =>
  if inAperture a then
    (if apOffset a < b.decl.bmem then .ok (bytesWords (b.bmemRun (apOffset a) 256))
     else .trap { cause := causeProt, reason := 2, opcode := 0x7D, addr := a })
  else
    match s.translate b.core b.ctx { r := true } a with
    | .pageFault => .trap { cause := causePage, opcode := 0x7D, addr := a }
    | .prot r => .trap { cause := causeProt, reason := r, opcode := 0x7D, addr := a }
    | .abort => .abort
    | .ok t =>
      match t.space with
      | .here => if s.isBad t.pa 256 then .abort else .ok (bytesWords (s.memRun t.pa 256))
      | .host => .ok (bytesWords (getRun 0 s.hostMem t.pa 256))
      | .remote dev slot =>
        match w.packetLoad with
        | none => .ask dev slot t
        | some l =>
          if l.killed != 0 then .abort
          else if !l.waits.isEmpty then .waits
          else
            .ask dev slot { t with pa := t.pa + 64 * l.leadData.length }

/-- The next sector of a packet on another device, for every live lane of the split: from the RDC, or asked for, with its
whole line where the page's policy caches (R209, R211). -/
def State.askPacket (s : State) (b : Block) (w : Wave) (part dev slot : Nat) (t : Target) : State :=
  let lanes := lanesOf (((w.part? part).map fun p => p.mask).getD 1)
  let blank : LoadOp :=
    { part := part, dest := .packet, data := [], killed := 0, waits := [], acqScope := none, issued := s.now, due := s.now }
  let note (s : State) (f : LoadOp → LoadOp) : State := s.updWaveAll b.uid w.idx fun w =>
    { w with loads := upsert (fun l => l.dest == .packet) blank f w.loads }
  match allBytes ((List.range 64).map fun i => s.belowByte b.core b.ctx { t with pa := t.pa + i }) with
  | some bs => note s fun l => { l with data := l.data ++ lanes.map fun k => (k, bs) }
  | none =>
    let r := if t.policy = 2 then s.remoteRead dev slot b.ctx t.pa 1 none none (.load b.uid w.idx)
      else s.remoteRead dev slot b.ctx (t.pa / 128 * 128) 2 (some (dieOf b.core, t.policy == 1)) none (.load b.uid w.idx)
    note r.2 fun l => { l with waits := l.waits ++ lanes.map fun k => (k, r.1, t.pa, 64) }

/-- The packet load of a wave is over. -/
def Wave.dropPacketLoad (w : Wave) : Wave := { w with loads := w.loads.filter fun l => l.dest != .packet }

/-- LAUNCH takes effect (R313): the packet is read and entered, or the wave waits for room. `e` is its
entry in the store queue. -/
def State.doLaunch (s : State) (b : Block) (w : Wave) (h : Hold) (e : Nat × Effect) (q : Nat) (a : Addr) : State :=
  let gone (w : Wave) : Wave := ({ w with sq := w.sq.erase e }.dropPacketLoad).entered h
  match s.readPacket b w a with
  | .trap t => lateTrap (if w.live then s else s.updWaveAll b.uid w.idx gone) b.uid w.idx h.pos t
  | .abort =>
    let live := ((w.part? h.part).map fun p => p.mask).getD 0
    (((s.withhold (some b.ctx)).updWaveAll b.uid w.idx gone).killLanes b.uid w.idx live).settle b.uid
  | .ask dev slot t => s.askPacket b w h.part dev slot t
  | .waits => s
  | .ok p =>
    if (s.queued q).length ≥ 1024 then
      (if w.packetWords.isSome then s else s.updWaveAll b.uid w.idx fun w => w.keepPacket h.part p)
    else
    let r := s.enterPacket q p
    (r.2.updBlockAll b.uid fun b => { b with sideEffect := true }).updWaveAll b.uid w.idx fun w =>
      gone { w with lastSeq := r.1.getD 0 }

/-- What a CSR reads as (R316); none for a number that is not listed. -/
def State.csrRead (s : State) (c : Cur) (n : Nat) : Option Word :=
  let l := s.launch? c.blk.launch
  let p := (l.map fun l => l.packet).getD []
  match n with
  | 0 => some (c.wv.flags.zeroExtend 32)
  | 1 => some c.wv.dead
  | 2 => some c.wv.starve
  | 3 => some ((0 : BitVec 6) ++ BitVec.ofNat 10 c.iss.core ++ BitVec.ofNat 3 c.wv.sub ++ BitVec.ofNat 4 c.wv.slot ++
      (0 : BitVec 4) ++ BitVec.ofNat 5 c.wv.idx)
  | 4 => some c.wv.lastSeq
  | 5 => some (BitVec.ofNat 32 ((l.map fun l => l.live).getD 0))
  | 6 => some ((0 : BitVec 24) ++ BitVec.ofNat 3 c.blk.decl.prio ++ BitVec.ofNat 2 c.blk.decl.cls ++
      BitVec.ofBool c.blk.decl.idem ++ BitVec.ofBool c.blk.decl.filler ++ BitVec.ofBool (pktRsv p))
  | 7 => some (if pktRsv p then pktRstep p else 0)
  | 8 => some (BitVec.ofNat 32 (s.cycleOf c.iss.core))
  | 9 => some c.wv.cycleHi
  | _ =>
    if 16 ≤ n && n < 32 then
      let x : BitVec 64 := match c.blk.stream with
        | some t => t.x.getD ((n - 16) / 2) 0
        | none => 0
      some (if n % 2 = 0 then x.extractLsb' 0 32 else x.extractLsb' 32 32)
    else none

/-- Is a CSR number listed (R316)? -/
def csrListed (n : Nat) : Bool := decide (n < 10) || (decide (16 ≤ n) && decide (n < 32))

/-- Checks and registers of CSRR. -/
def formCsrr (n : BitVec 11) (d : BitVec 8) (c : Cur) : Form :=
  formLaunch (csrListed n.toNat) (c.sregsOk d.toNat 1 1) [] [d.toNat] c
/-- CSRR (R315, R317). -/
def execCsrr (n : BitVec 11) (d : BitVec 8) (s : State) : Out :=
  runWord s (formCsrr n d) fun c f =>
    let w := c.wv.setS d.toNat ((s.csrRead c n.toNat).getD 0)
    let w1 := if n = 8 then { w with cycleHi := BitVec.ofNat 32 (s.cycleOf c.iss.core / 2 ^ 32) } else w
    .next (endClause s c ((w1.setPart c.iss.part (some (c.pt.goto c.nextPc))).addPend f.writes (s.now + 4)))

/-- Checks and registers of CSRW. -/
def formCsrw (n : BitVec 11) (r : BitVec 8) (c : Cur) : Form :=
  formLaunch (csrListed n.toNat) (c.sregsOk r.toNat 1 1) [r.toNat] [] c
/-- CSRW (R164, R315): read-only registers and bits ignore it. -/
def execCsrw (n : BitVec 11) (r : BitVec 8) (s : State) : Out :=
  runWord s (formCsrw n r) fun c _ =>
    let x := c.wv.getS r.toNat
    let w := if n = 0 then { c.wv with flags := x.extractLsb' 0 6 }
      else if n = 2 then { c.wv with starve := clampStarve x } else c.wv
    .next (endClause s c (w.setPart c.iss.part (some (c.pt.goto c.nextPc))))

end Sys2Proof.Machine
end

