-- ==== Sys2Proof/Machine/Records.lean ====
section
/-! DEFINITION. The words that reach the Mantle, COLL and CSEND (R389-R394), and work records: WREC and REC
flits (R414-R417). -/

namespace Sys2Proof.Machine

open Sys2Proof

/-- Checks and registers of COLL and CSEND: no extension, eight descriptor registers, which stay as they are
for 4 cycles (R389). -/
def formColl (op : Nat) (b : BitVec 9) (c : Cur) : Form :=
  let regs : Regs := { noRegs with s := List.range' b.toNat 8 }
  { opcode := op, fieldsOk := true, xc := xcNone, operandsOk := c.sregsOk b.toNat 8 8, reads := regs,
    writes := regs, lat := 4 }

/-- CREC is not zero, is canonical, and its bits [4:1] are zero (R390, R392). -/
def crecOk (d : List Word) : Bool := collRec d != 0 && canonical (collRec d) && ((d.getD 6 0).extractLsb' 1 4) == 0

/-- The checks of R392 on a COLL descriptor. -/
def collOk (d : List Word) : Bool :=
  let op := collOp d
  let fmt := collFmt d
  let size := if op = 5 then 4 else elemSize fmt
  let good (a : Addr) : Bool := canonical a && a.toNat % size == 0
  (d.getD 5 0).extractLsb' 0 4 == 0 && decide (op ≤ 5)
    && decide (fmt ≤ (match op with
      | 0 => 1
      | 1 => 1
      | 2 => 2
      | 3 => 2
      | _ => 0))
    && decide (collMode d ≤ if op = 5 then 2 else 0)
    && (op == 3 || collRoot d == 0) && crecOk d
    && if op = 4 then collSrc d == 0 && collDst d == 0 && d.getD 4 0 == 0 else good (collSrc d) && good (collDst d)

/-- The checks of R392 on a CSEND descriptor (R391). -/
def csendOk (d : List Word) : Bool :=
  let n := csendLen d
  d.getD 3 0 == 0 && d.getD 4 0 == 0 && (d.getD 5 0).extractLsb' 24 8 == 0 && (d.getD 5 0).extractLsb' 0 4 == 0
    && n % 4 == 0 && decide (4 ≤ n) && decide (n ≤ 16777216) && canonical (collSrc d) && crecOk d

/-- Operations of this device that a communicator's queue holds, or that are on their way to it (R389). -/
def State.opsQueued (s : State) (id : Nat) : Nat :=
  (match s.comm? id with
    | some c => c.queue.length
    | none => 0) +
  (s.mantle.arriving.filter fun o => collComm o.desc == id).length +
  (s.blocks.flatMap fun b => b.waves.flatMap fun w => w.sq.filter fun e => match e.2 with
    | .coll _ _ _ d => collComm d == id
    | _ => false).length

/-- COLL and CSEND (R389-R394): the operation counts on its token from issue, and leaves the core later. -/
def runColl (s : State) (op : Nat) (csend : Bool) (b : BitVec 9) (k : BitVec 3) : Out :=
  runWord s (formColl op b) fun c f =>
    let d := (List.range 8).map fun j => c.wv.getS (b.toNat + j)
    let t := c.blk.token k.toNat
    if t.outst.length ≥ Config.copyDepth || ((s.comm? (collComm d)).isSome && s.opsQueued (collComm d) ≥ 16) then
      .next (holdSlot s)
    else if !(if csend then csendOk d else collOk d) then .next (takeTrap s c { cause := 11, opcode := op })
    else
      let n := s.freshId
      let w : Wave :=
        { c.wv with
          colls := c.wv.colls ++ [n.1]
          sq := c.wv.sq ++ [(s.now, .coll csend n.1 k.toNat d)] }
      let s1 := n.2.updBlock c.blk.uid fun x => x.setToken k.toNat (t.add n.1)
      .next (retire s1 c { wave := w, writes := f.writes, lat := f.lat })

/-- CSEND (R391). -/
def execCsend (b : BitVec 9) (k : BitVec 3) (s : State) : Out := runColl s 0x78 true b k

/-- COLL (R390). -/
def execColl (b : BitVec 9) (k : BitVec 3) (s : State) : Out := runColl s 0x79 false b k

/-- Checks and registers of WREC (R416). -/
def formWrec (operands : Cur → Bool) (reads writes : Regs) (c : Cur) : Form :=
  { opcode := 0x7A, fieldsOk := true, xc := xcNone, operandsOk := operands c, reads := reads, writes := writes, lat := 0 }

/-- WREC.POST (R416): the records and their devices are read at issue; the Mantle decides. -/
def execWrecPost (p : BitVec 4) (v q : BitVec 8) (s : State) : Out :=
  runWord s (formWrec (fun c => c.vregsOk v.toNat 16 16 && c.vregsOk q.toNat 1 1)
    { noRegs with v := List.range' v.toNat 16 ++ [q.toNat] } { noRegs with p := predReg p.toNat }) fun c _ =>
    let lanes := (lanesOf c.liveMask).map fun l =>
      (l, (c.vec false q.toNat l).toNat, (List.range 16).map fun j => c.vec false (v.toNat + j) l)
    .next (retire s c { wave := { c.wv with sq := c.wv.sq ++ [(s.now, .post c.iss.part p.toNat lanes)] } })

/-- WREC.TAKE (R416). -/
def execWrecTake (p : BitVec 4) (v : BitVec 8) (s : State) : Out :=
  runWord s (formWrec (fun c => c.vregsOk v.toNat 16 16) noRegs
    { noRegs with v := List.range' v.toNat 16, p := predReg p.toNat }) fun c _ =>
    .next (retire s c { wave := { c.wv with
      sq := c.wv.sq ++ [(s.now, .take c.iss.part p.toNat v.toNat c.liveMask)] } })

/-- WREC.RETURN (R416). -/
def execWrecReturn (s : State) : Out :=
  runWord s (formWrec (fun _ => true) noRegs noRegs) fun c _ =>
    .next (retire s c { wave := { c.wv with sq := c.wv.sq ++ [(s.now, .giveBack)] } })

/-- A record flit of a context to a device, with the name by which an abort finds it (R415). -/
def State.sendRec (s : State) (ctx dev kind count : Nat) (ws : List Word) (o : ReqOwner) : State :=
  let payload := noToken ++ leBytes 1 kind ++ [0] ++ leBytes 2 count ++ [0, 0, 0, 0] ++ wordsBytes ws
  (s.request dev (s.flit 4 dev ctx 2 payload) 0 0 ctx (some (3072 + dev)) none none (some (.records dev)) o).2

/-- Credits of a context towards a device (R415). -/
def Ctx.credit (x : Ctx) (d : Nat) : Nat := getAt x.recSlots x.credits d

/-- Change the credits of a context towards a device. -/
def Ctx.setCredit (x : Ctx) (d n : Nat) : Ctx := { x with credits := setAt x.recSlots x.credits d n }

/-- A POST's lanes are decided in ascending order (R416): the lanes that were sent. -/
def State.decidePost (s : State) (b : Block) (w : Wave) : List (Nat × Nat × List Word) → Mask → Mask × State
  | [], m => (m, s)
  | (l, d, ws) :: t, m =>
    match s.ctx? b.ctx with
    | none => s.decidePost b w t m
    | some x =>
      if d > 992 || d = s.own || x.credit d = 0 then s.decidePost b w t m
      else
        let s1 := (s.updCtx b.ctx fun x => x.setCredit d (x.credit d - 1)).sendRec b.ctx d 0 0 ws (.post b.uid w.idx l)
        s1.decidePost b w t (m ||| (1 : Mask) <<< l)

/-- A POST leaves its wave: its answers are written to the predicate (R416). -/
def State.leavePost (s : State) (b : Block) (w : Wave) (p : Nat) (lanes : List (Nat × Nat × List Word)) : State :=
  let m := lanes.foldl (fun m e => m ||| (1 : Mask) <<< e.1) (0 : Mask)
  let r := s.decidePost b w lanes 0
  r.2.updWaveAll b.uid w.idx fun w => w.setP p (blend (m &&& ~~~w.gone) (w.getP p) r.1)

/-- Take one record for each lane, oldest first (R416): lane and record. -/
def State.takeRecords (s : State) (ctx : Nat) : List Nat → List (Nat × List Word) × State
  | [] => ([], s)
  | l :: t =>
    match (s.ctx? ctx).map fun x => x.recQueue with
    | some ((d, ws) :: rest) =>
      let s1 := s.updCtx ctx fun x => { x with recQueue := rest, taken := setAt 0 x.taken d (getAt 0 x.taken d + 1) }
      let r := s1.takeRecords ctx t
      ((l, ws) :: r.1, r.2)
    | _ => ([], s)

/-- A TAKE leaves its wave (R416). -/
def State.leaveTake (s : State) (b : Block) (w : Wave) (p v : Nat) (m : Mask) : State :=
  let m1 := m &&& ~~~w.gone
  let r := s.takeRecords b.ctx (lanesOf m1)
  let got := maskOf (fun l => r.1.any fun e => e.1 == l) 32
  let word (j l : Nat) : Word := ((r.1.find? fun e => e.1 == l).map fun e => e.2.getD j 0).getD 0
  r.2.updWaveAll b.uid w.idx fun w =>
    (List.range 16).foldl (fun w j => w.setV (v + j) got (word j)) (w.setP p (blend m1 (w.getP p) got))

/-- A RETURN leaves its wave (R416). -/
def State.leaveReturn (s : State) (b : Block) : State :=
  match s.ctx? b.ctx with
  | none => s
  | some x =>
    x.taken.foldl (fun s e => s.sendRec b.ctx e.1 1 e.2 [] .giveBack)
      (s.updCtx b.ctx fun x => { x with taken := [] })

/-- FORMAT of a record flit (R379, R415). -/
def recFormatBad (f : Flit) : Bool :=
  let kind := payNat f 8 1
  let count := payNat f 10 2
  payNat f 9 1 != 0 || payNat f 12 4 != 0 ||
    match kind with
    | 0 => f.payload.length != 80 || count != 0
    | 1 => f.payload.length != 16 || count == 0 || decide (count > 4096)
    | _ => false

/-- A record that has passed its checks enters the receiving context's queue; a context without an area, or
whose area is full, drops it (R415-R417). -/
def State.recArrive (s : State) (cx : Nat) (f : Flit) : State :=
  let d := f.src.toNat
  match s.ctx? cx with
  | none => s.mantleCount 6 1
  | some x =>
    let held := (x.recQueue.filter fun e => e.1 == d).length + getAt 0 x.taken d
    if held ≥ x.recSlots then s.mantleCount 6 1
    else
      let ws := bytesWords (f.payload.drop 16)
      let rec16 := updIdx 14 (fun w => w.extractLsb' 10 22 ++ BitVec.ofNat 10 d) ws
      s.updCtx cx fun x => { x with recQueue := x.recQueue ++ [(d, rec16)] }

/-- REC_FLIT (R379, R415-R417): a record is queued, or slots return to their sender's credit. -/
def execRecFlit (port : Nat) (f : Flit) (s : State) : Out :=
  if !s.arrives port f 4 then .next s
  else
    let r := s.linkRecv port f
    if !r.2 then .next r.1
    else
      let s1 := r.1.taken port f
      if f.payload.length ≥ 9 && payNat f 8 1 ≥ 2 then .next (s1.svCount 10).pump
      else if recFormatBad f then .next (s1.refuse f 1).pump
      else
        match s1.ingress f 36 none with
        | some reason => .next (s1.refuse f reason).pump
        | none =>
          let cx := winOwner (s1.window (flitToken f))
          if payNat f 8 1 = 0 then .next (s1.recArrive cx f).pump
          else .next (s1.updCtx cx fun x => x.setCredit f.src.toNat (x.credit f.src.toNat + payNat f 10 2)).pump

end Sys2Proof.Machine
end

