-- ==== Sys2Proof/Machine/Trap.lean ====
section
/-! DEFINITION. Halting a block, its save areas and trap record (R330-R336), service calls (R189-R191, R318),
the return from a trap by RESUME (R176, R319, R337), and the host's writes to BAR0 (R294, R295). -/

namespace Sys2Proof.Machine

open Sys2Proof

/-- Is a LAUNCH of the wave still to take effect? -/
def Wave.launching (w : Wave) : Bool := w.sq.any fun e => match e.2 with
  | .launch _ _ _ => true
  | _ => false

/-- Is a GROW of the wave still to take effect? -/
def Wave.growing (w : Wave) : Bool := w.sq.any fun e => match e.2 with
  | .grow _ _ _ => true
  | _ => false

/-- A wave when the halt signal reaches it (R330): a sleep ends, a LAUNCH stops at its word. -/
def Wave.signal (w : Wave) : Wave := match w.run with
  | .sleeping _ => { w with run := .running }
  | .entering _ => if w.launching then
      ({ w with sq := w.sq.filter fun e => match e.2 with
        | .launch _ _ _ => false
        | _ => true }).dropPacketLoad
    else w
  | _ => w

/-- A halt whose signal is to be given: in the cycle after its cause (R330). -/
def Block.toSignal (b : Block) (now : Nat) : Bool := match b.halt with
  | some h => !h.signalled && decide (now > h.born)
  | none => false

/-- BLOCK_HALT (R330): the signal reaches every wave, the stream and the engines of the block. -/
def execBlockHalt (b : Nat) (s : State) : Out :=
  .next (s.updBlock b fun x =>
    if x.toSignal s.now then
      { x with waves := x.waves.map Wave.signal, halt := x.halt.map fun h => { h with signalled := true }, stuckSince := none }
    else x)

/-- The head of a halted wave's store queue is old enough to leave and faults each time. -/
def stuckHead (s : State) (b : Block) (w : Wave) : Bool := match w.sq with
  | (t, .store p lanes rel pos) :: _ =>
    s.aged b.core t && (match leaveStore s b w (t, .store p lanes rel pos) lanes rel with
      | .error _ => true
      | .ok _ => false)
  | (t, .atom _ _ _ _ _ rel _) :: _ =>
    s.aged b.core t && (match releaseAt s b 0 rel with
      | .error _ => true
      | .ok _ => false)
  | _ => false

/-- The FENCE, CINV or DRAIN that holds a wave. -/
def Wave.held? (w : Wave) : Option Hold := match w.run with
  | .fence h => some h
  | .drain h => some h
  | _ => none

/-- A FENCE, CINV or DRAIN that a halt finds incomplete executes again after the restore: its wave stands at the
word (R238, R239). -/
def State.rewindHeld (s : State) (b : Block) : State := b.waves.foldl (fun s w => match w.held? with
  | some h => s.rewind b.uid w.idx h.part h.pos
  | none => s) s

/-- A wave's row of R330 has finished; a FENCE or DRAIN that cannot complete stops where it is (R238, R239). -/
def Wave.stopped (s : State) (b : Block) (w : Wave) : Bool :=
  (w.pend.all fun p => decide (p.due ≤ s.now)) && w.loads.isEmpty && w.atoms.isEmpty && w.rays.isEmpty &&
    (w.sq.isEmpty || stuckHead s b w) && match w.run with
    | .fence h => w.faulted.isSome || !fenceReady s b w h
    | .entering _ => !w.growing
    | _ => true

/-- The halt is complete (R331): every row of R330 has finished, and the faulting word is more than 256
cycles old. -/
def State.haltDone (s : State) (b : Block) (h : Halt) : Bool :=
  h.signalled && s.aged b.core h.born && !(s.issues.any fun i => i.block == b.uid && !((b.wave? i.wave).bind Wave.held?).isSome) &&
    (b.waves.all fun w => w.stopped s b) && !((s.core b.core).copies.any fun j => j.block == b.uid && !j.halted)

/-- The lowest free Pocket frames of a context (R332). -/
def freeFrameList (x : Ctx) : List Nat := (List.range x.frames).filter fun f => !x.usedFrames.contains f

/-- Address of a Pocket frame (R322). -/
def Ctx.frameAddr (x : Ctx) (f : Nat) : Nat := x.pocket.toNat + 65536 * f

/-- A wave is to be saved with its halt: it has not exited and is not parked (R331). -/
def Wave.toSave (w : Wave) : Bool := w.live && match w.run with
  | .parked _ _ => false
  | _ => true

/-- The wave stopped at one of the waits that R330 names (R336). -/
def Wave.stoppedAtWait (w : Wave) : Bool :=
  (match w.run with
    | .waitv _ => true
    | .entering _ => true
    | .trapping _ _ _ _ _ _ => true
    | _ => false) ||
  w.parts.any fun e => match e.2.wait with
    | .none => false
    | .merged => false
    | .reconv => false
    | _ => true

/-- A wave's position in a trap record: that of its lowest-numbered part. -/
def Wave.pos (w : Wave) : Addr := match w.parts.head? with
  | some e => position e.2.pc e.2.word
  | none => 0

/-- The wave waits at the very word that has trapped, so that the trap and not the wait has stopped it (R336). -/
def Halt.atWait (h : Halt) (w : Wave) : Bool := w.idx == h.wave && h.opcode == 0x7D

/-- The WAVEn entry of a trap record (R336); `never` says that the halt can have no frames, when every entry
carries frame number 0xFFFF (R332). -/
def waveEntry (h : Halt) (never : Bool) (frames : List (Nat × Nat)) (w : Wave) : List Word :=
  if !w.live then [0, 0, BitVec.ofNat 32 (0xFFFF + 2 ^ 24), 0]
  else
    let parked : Option Nat := match w.run with
      | .parked _ f => some f
      | _ => none
    let frame := if never then 0xFFFF
      else parked.getD (((frames.find? fun e => e.1 == w.idx).map fun e => e.2).getD 0xFFFF)
    let flags := (if w.faulted.isSome then 2 else 0) + (if parked.isSome then 4 else 0) +
      (if parked.isNone && w.stoppedAtWait && !h.atWait w then 8 else 0)
    splitW w.pos ++ [BitVec.ofNat 32 (frame + 65536 * min 15 w.skid + 2 ^ 24 * flags),
      BitVec.ofNat 32 (w.faulted.getD 0)]

/-- The trap record of a block (R336): its 256 words. -/
def trapRecord (l : Option Launch) (b : Block) (h : Halt) (never : Bool) (frames : List (Nat × Nat))
    (handle : BitVec 64) : List Word :=
  let seq : Word := (l.map fun l => l.seq).getD 0
  let q := (l.map fun l => l.queue).getD 0
  let entry (i : Nat) : List Word := match b.wave? i with
    | some w => waveEntry h never frames w
    | none => [0, 0, 0, 0]
  let ms : List Word := match b.stream with
    | some t => splitW (position t.pc 0) ++ [BitVec.ofNat 32 t.step]
    | none => [0, 0, 0]
  padTo 0 256 ([1, BitVec.ofNat 32 (h.cause + 256 * h.reason + 65536 * h.wave + 2 ^ 24 * h.opcode)] ++ splitW h.pos ++
    splitW h.addr ++ [h.mask, BitVec.ofNat 16 b.core ++ h.code, BitVec.ofNat 32 b.index, seq,
    BitVec.ofNat 32 (64 * q + b.ctx), BitVec.ofNat 32 b.decl.waves] ++ splitW handle ++ [0, 0] ++
    (List.range 32).flatMap entry ++ ms)

/-- The halt of a block goes on to its record: frames taken, save areas written (R331, R332). -/
def State.saveHalt (s : State) (b : Block) (h : Halt) (x : Ctx) (never : Bool) (frames : List (Nat × Nat))
    (handle : BitVec 64) : State :=
  let s1 := frames.foldl (fun s e => match b.wave? e.1 with
    | some w => s.pocRun (x.frameAddr e.2) none (w.saveArea b.decl .halted 0)
    | none => s) s
  let rec256 := trapRecord (s.launch? b.launch) b h never frames handle
  (s1.updCtx x.id fun x => { x with
    usedFrames := x.usedFrames ++ frames.map fun e => e.2
    nextHandle := if handle = 0 then x.nextHandle else x.nextHandle + 1
    trapWait := x.trapWait ++ [(some b.uid, rec256)] }).updBlock b.uid fun y =>
      { y with halt := some { h with saved := true, frames := frames, handle := handle } }

/-- HALT_SAVE (R331, R332, R343): once the halt is complete and enough frames are free. A halt that can
never have them is recorded without save areas; it and a forced reset have handle zero. -/
def execHaltSave (b : Nat) (s : State) : Out :=
  match s.block? b with
  | none => .next s
  | some blk =>
    match blk.halt, s.ctx? blk.ctx with
    | some h, some x =>
      if h.saved || !s.haltDone blk h then .next s
      else
        let need := (blk.waves.filter Wave.toSave).map fun w => w.idx
        let own := (blk.waves.filter fun w => match w.run with
          | .parked _ _ => true
          | _ => false).length
        let free := freeFrameList x
        let s0 := s.rewindHeld blk
        let blk0 := (s0.block? b).getD blk
        if need.length > x.frames - own then .next (s0.saveHalt blk0 h x true [] 0)
        else if free.length < need.length then .next s
        else .next (s0.saveHalt blk0 h x false (need.zip free) (if h.cause = 13 then 0 else x.nextHandle))
    | _, _ => .next s

/-- The trap area of a context has room (R336). Where its header cannot be read, the record waits (R437; log 40). -/
def State.trapRoom (s : State) (x : Ctx) : Bool :=
  !s.isBad x.trapArea.toNat 8 && s.mem32 x.trapArea.toNat - s.mem32 (x.trapArea.toNat + 4) != BitVec.ofNat 32 (2 ^ x.trapSize)

/-- The record of a block's halt is written (R300, R331); one that can never resume ends now, at BLOCK_END (R332,
R343). -/
def State.noteRecord (s : State) (u : Nat) : State :=
  match s.block? u with
  | none => s
  | some b => match b.halt with
    | none => s
    | some h => (s.updBlock u fun y => { y with halt := some { h with recorded := true } }).updLaunch b.launch fun l =>
        { l with faults := l.faults + 1 }

/-- TRAP_RECORD_WRITE (R331, R336, R437): the oldest waiting record, VERSION last; then the vector. A header that reads
as uncorrectable is withheld, and the record waits. -/
def execTrapRecordWrite (cx : Nat) (s : State) : Out :=
  match s.ctx? cx with
  | none => .next s
  | some x =>
    match x.trapWait with
    | [] => .next s
    | (u, r) :: t =>
      if s.isBad x.trapArea.toNat 8 then .next (s.withhold (some cx))
      else if !s.trapRoom x then .next s
      else
        let area := x.trapArea.toNat
        let prod := s.mem32 area
        let at_ := area + 1024 * (1 + prod.toNat % 2 ^ x.trapSize)
        let s1 := ((s.pocRun (at_ + 4) none (wordsBytes (r.drop 1))).pocRun at_ none (wordsBytes (r.take 1))).pocRun
          area none (wordBytes (prod + 1))
        let s2 := (s1.updCtx cx fun x => { x with trapWait := t }).raise (32 * cx + 17)
        match u with
        | some u => .next (s2.noteRecord u)
        | none => .next s2

/-- A TRAP may park its wave (R189, R332): its results, stores and atomics are done, it is more than 256
cycles old, and its block is not halted. -/
def Wave.trapReady (w : Wave) (now : Nat) (aged : Nat → Bool) : Bool := match w.run with
  | .trapping _ _ _ _ t _ => aged t && w.sq.isEmpty && w.atoms.isEmpty && w.loads.isEmpty &&
      w.rays.isEmpty && w.pend.all fun p => decide (p.due ≤ now)
  | _ => false

/-- The TRAP of a wave has had its release (R189). -/
def Wave.trapReleased (w : Wave) : Bool := match w.run with
  | .trapping _ _ _ _ _ r => r
  | _ => false

/-- The first wave of a context that waits to be parked, one whose release has still to come before the others. -/
def State.trapper (s : State) (cx : Nat) : Option (Block × Wave) :=
  let all := (s.blocks.filter fun b => b.ctx == cx && b.halt.isNone).flatMap fun b =>
    (b.waves.filter fun w => w.trapReady s.now (s.aged b.core)).map fun w => (b, w)
  match all.find? fun e => !e.2.trapReleased with
  | some e => some e
  | none => all.head?

/-- Something can be done for a TRAP of a context: a release, or a frame for the wave (R189, R332). -/
def State.trapDue (s : State) (x : Ctx) : Bool := match s.trapper x.id with
  | some e => !e.2.trapReleased || !(freeFrameList x).isEmpty
  | none => false

/-- A request entry (R190): its 256 words. SPLIT is 4 for the deferred path (DESIGN CHOICE, log 40). -/
def requestEntry (x : Ctx) (l : Option Launch) (b : Block) (w : Wave) (k : Nat) (code : BitVec 16) (mask dead : Mask)
    (pc : Addr) (handle : BitVec 64) (frame : Nat) : List Word :=
  let args (i : Nat) : List Word :=
    if mask.getLsbD i then (List.range 4).map fun j => vLane w.v j i else [0, 0, 0, 0]
  padTo 0 256 ([1, BitVec.ofNat 8 k ++ BitVec.ofNat 8 w.idx ++ code] ++ splitW handle ++ splitW pc ++ [mask, dead,
    BitVec.ofNat 32 b.index, BitVec.ofNat 32 b.ctx, (l.map fun l => l.seq).getD 0, BitVec.ofNat 32 b.core] ++
    splitW (BitVec.ofNat 64 (x.frameAddr frame)) ++ [0, 0] ++ (List.range 32).flatMap args)

/-- The wave is parked (R172, R189): save area written, slot left, request entry on its way. `mask` and `dead` are
the requesting lanes and WAVE.DEAD at the TRAP (R190). What has left the core is not undone, so the wave is parked in
every checkpoint too. -/
def State.park (s : State) (x : Ctx) (b : Block) (w : Wave) (k : Nat) (code : BitVec 16) (mask dead : Mask)
    (frame : Nat) : State :=
  let w1 := w.pastPart k
  let pc := w1.partGet k 0 fun p => p.pc
  let handle := x.nextHandle
  let s1 := s.pocRun (x.frameAddr frame) none (w1.saveArea b.decl .parked handle)
  let entry := requestEntry x (s.launch? b.launch) b w k code mask dead pc handle frame
  let s2 := s1.updCtx x.id fun x =>
    { x with usedFrames := frame :: x.usedFrames, nextHandle := x.nextHandle + 1,
             entryWait := x.entryWait ++ [(handle, entry)] }
  s2.updWaveAll b.uid w.idx fun _ =>
    { w1 with run := .parked handle frame, service := some (k, code, mask, none), args := none }

/-- POCKET_FRAME_GRANT (R189, R332): the release of a TRAP takes place, whether or not a frame is free, is over once what it
wrote to another device is acknowledged (R213), and may fault at the TRAP; after it a TRAP that finds a free frame parks its wave. -/
def execPocketFrameGrant (cx : Nat) (s : State) : Out :=
  match s.ctx? cx, s.trapper cx with
  | some x, some (b, w) =>
    match w.run with
    | .trapping k code mask dead t false =>
      match s.releaseL1 b.core b.ctx with
      | .error e => .next (lateTrap (s.unpinAll b.core b.ctx) b.uid w.idx (w.partGet k 0 fun p => position p.pc p.word) (lateFault e 0x7D 0))
      | .ok s1 => if s1.releaseWaits b.core b.ctx (some 2) then .next s1
          else .next (s1.updWave b.uid w.idx fun w => { w with run := .trapping k code mask dead t true })
    | .trapping k code mask dead _ true => match (freeFrameList x).head? with
      | some f => .next (s.park x b w k code mask dead f)
      | none => .next s
    | _ => .next s
  | _, _ => .next s

/-- The request ring has room (R318). -/
def Ctx.ringRoom (x : Ctx) : Bool :=
  decide (4 ≤ x.rsize.toNat) && decide (x.rsize.toNat ≤ 16) && x.rprod - x.rcons != BitVec.ofNat 32 (2 ^ x.rsize.toNat)

/-- Host address of the ring's next entry (R318). -/
def Ctx.ringNext (x : Ctx) : Nat := x.rbase.toNat / 1024 * 1024 + 1024 * (x.rprod.toNat % 2 ^ x.rsize.toNat)

/-- REQUEST_ENTRY_WRITE (R189, R318, R340): VERSION last, then RPROD and the vector. -/
def execRequestEntryWrite (cx : Nat) (s : State) : Out :=
  match s.ctx? cx with
  | none => .next s
  | some x =>
    match x.entryWait with
    | [] => .next s
    | (handle, r) :: t =>
      if !x.ringRoom then .next s
      else
        let a := x.ringNext
        let s1 := (s.hostBytes (a + 4) (wordsBytes (r.drop 1))).hostBytes a (wordsBytes (r.take 1))
        let mine (w : Wave) : Bool := match w.run with
          | .parked h _ => h == handle
          | _ => false
        let written (b : Block) : Block :=
          { b with
            sideEffect := true
            waves := b.waves.map fun w => if mine w then
              { w with service := w.service.map fun e => (e.1, e.2.1, e.2.2.1, some a) } else w }
        let s2 := (s1.blocks.filter fun b => b.ctx == cx && b.waves.any mine).foldl
          (fun s b => s.updBlockAll b.uid written) s1
        .next ((s2.updCtx cx fun x => { x with entryWait := t, rprod := x.rprod + 1 }).raise (32 * cx))

/-- The ARGS slots of a service call as the host has left them (R191). -/
def State.readArgs (s : State) (w : Wave) : Option (Mask × List (Nat × List Word)) := match w.service with
  | some (_, _, mask, some a) => some (mask, (lanesOf mask).map fun l => (l, bytesWords (getRun 0 s.hostMem (a + 0x40 + 16 * l) 16)))
  | _ => none

/-- The save area in a frame, when it can be read and passes the checks of R176. -/
def State.goodArea (s : State) (x : Ctx) (d : Decl) (f : Nat) : Option (List Byte) :=
  let a := s.memRun (x.frameAddr f) (saveSize d)
  if s.isBad (x.frameAddr f) (saveSize d) || !areaOk d a then none else some a

/-- Reading the save area in frame `f` for a restore: an area that cannot be read is withheld, which raises
the error interrupt and the context's vector (R437, R438). -/
def State.readArea (s : State) (x : Ctx) (d : Decl) (f : Nat) : State :=
  if s.isBad (x.frameAddr f) (saveSize d) then s.withhold (some x.id) else s

/-- A restore check has failed (R176, R335, R337): the block halts with protection, reason 9, and nothing is
restored. -/
def Block.badSave (b : Block) (now i : Nat) : Block :=
  { b with halt := some (newHalt now i 0 { cause := causeProt, reason := 9, opcode := 0 }) }

/-- RESUME of a wave parked by TRAP (R191, R319): restored at once, or its ARGS kept while its block is
halted. -/
def State.resumeWave (s : State) (x : Ctx) (b : Block) (w : Wave) (f : Nat) : State :=
  let args := some ((s.readArgs w).getD (0, []))
  if b.halt.isSome then s.updWaveAll b.uid w.idx fun w => { w with args := args }
  else
    match s.goodArea x b.decl f with
    | none => ((s.readArea x b.decl f).updBlock b.uid fun b => b.badSave s.now w.idx).updWaveAll b.uid w.idx fun w => { w with args := args }
    | some a =>
      let s1 := (s.freeFrames x.id [f]).acquireCaches b.core b.ctx 2
      (s1.updWaveAll b.uid w.idx fun _ => (w.restore b.decl a).takeArgs args).settle b.uid

/-- Waves of a halted block that a RESUME restores, with their frames (R337). -/
def Block.toRestore (b : Block) (h : Halt) : List (Nat × Nat) :=
  h.frames ++ b.waves.filterMap fun w => match w.run with
    | .parked _ f => if w.args.isSome then some (w.idx, f) else none
    | _ => none

/-- RESUME of a halted block (R176, R249, R337): every wave with a frame is restored, its stream and copies
go on. -/
def State.resumeBlock (s : State) (x : Ctx) (b : Block) (h : Halt) : State :=
  let all := b.toRestore h
  match all.find? fun e => (s.goodArea x b.decl e.2).isNone with
  | some e => ((s.readArea x b.decl e.2).freeFrames x.id (h.frames.map fun e => e.2)).updBlock b.uid fun b =>
      b.badSave s.now e.1
  | none =>
    let waves := b.waves.map fun w => match all.find? fun e => e.1 == w.idx with
      | some e => match s.goodArea x b.decl e.2 with
        | some a => (w.restore b.decl a).takeArgs w.args
        | none => w
      | none => w
    let s1 := (s.freeFrames x.id (all.map fun e => e.2)).acquireCaches b.core b.ctx 2
    let s2 := (s1.updBlock b.uid fun b => { b with waves := waves, halt := none, stuckSince := none }).updCore b.core fun k =>
      { k with copies := k.copies.map fun j => if j.block == b.uid then { j with halted := false } else j }
    (s2.settle b.uid).checkpoint b.core b.uid 0xFF false true

/-- What a park handle names: a parked wave that has not been resumed, or a recorded halt (R319). -/
inductive Named where
  | wave (b : Block) (w : Wave) (f : Nat)
  | block (b : Block) (h : Halt)
  deriving DecidableEq, Repr

/-- The parked wave or halted block of a context that a handle names. -/
def State.named (s : State) (cx : Nat) (handle : BitVec 64) : Option Named :=
  if handle = 0 then none
  else
    (s.blocks.filter fun b => b.ctx == cx).findSome? fun b =>
      match b.halt with
      | some h => if h.handle == handle && h.recorded then some (.block b h) else
          b.waves.findSome? fun w => match w.run with
            | .parked k f => if k == handle && w.args.isNone then some (.wave b w f) else none
            | _ => none
      | none => b.waves.findSome? fun w => match w.run with
          | .parked k f => if k == handle && w.args.isNone then some (.wave b w f) else none
          | _ => none

/-- A RESUME packet is committed through aperture `q` (R319): it restores what its handle names, or is
discarded and counted, as a packet of another VERSION is (DESIGN CHOICE, log 50: the rule's cases do not list it). -/
def State.resumePacket (s : State) (q : Nat) (p : List Word) : State :=
  let cx := pktCtx p
  let ok := pw p 0 == 0x4B520001 && pf p 1 0 26 == 0 && ((p.drop 4).all fun w => w == 0) && s.owns cx q
  match (if ok then s.named cx (pa64 p 2) else none), s.ctx? cx with
  | some (.wave b w f), some x => s.resumeWave x b w f
  | some (.block b h), some x => s.resumeBlock x b h
  | _, _ => s.dropPacket q

/-- Is a packet a RESUME (R297)? -/
def isResume (p : List Word) : Bool := (pw p 0).extractLsb' 16 16 == 0x4B52

/-- A packet is committed through aperture `q` (R295, R298, R319). -/
def State.commit (s : State) (q : Nat) (p : List Word) : State :=
  if isResume p then s.resumePacket q p else (s.enterPacket q p).2

/-- LAUNCH_PACKET (R295, R298): 64 words, the words not written being zero. -/
def execLaunchPacket (ap : Nat) (ws : List (BitVec 32)) (s : State) : Out :=
  if ap ≥ 16 || ws.length > 64 || isResume ws then .next s else .next (s.commit ap ws)

/-- RESUME (R319). -/
def execResume (ap : Nat) (ws : List (BitVec 32)) (s : State) : Out :=
  if ap ≥ 16 || ws.length > 64 || !isResume ws then .next s else .next (s.commit ap ws)

/-- A context nothing has named yet: it does not exist, its ring registers are zero (R318, R322), its
handles start at 1 (log 14). -/
def Ctx.fresh (c : Nat) : Ctx :=
  { id := c, root := 0, toktab := 0, trapArea := 0, trapSize := 0, deadline := 27, pocket := 0, frames := 0,
    phase := .active, cutArea := 0, cutSize := 0, rbase := 0, rsize := 0, rprod := 0, rcons := 0, keys := [],
    nextHandle := 1, usedFrames := [], entryWait := [], trapWait := [], recAddr := 0, recSlots := 0, credits := [],
    recQueue := [], taken := [], timers := [], cutLaunch := none }

/-- Change context `c`, whether or not it exists. -/
def State.setCtx (s : State) (c : Nat) (f : Ctx → Ctx) : State :=
  { s with ctxs := upsert (fun x => x.id == c) (Ctx.fresh c) f s.ctxs }

/-- A write to a request-ring register (R318). -/
def Ctx.ringWrite (x : Ctx) (r : Nat) (v : Word) : Ctx := match r with
  | 0 => { x with rbase := x.rbase.extractLsb' 32 32 ++ v }
  | 1 => { x with rbase := v ++ x.rbase.extractLsb' 0 32 }
  | 2 => { x with rsize := v.extractLsb' 0 5 }
  | 4 => { x with rcons := v }
  | _ => x

/-- One byte of a host write to the submit apertures (R295). -/
def slotByte (m : Words) (e : Nat × Byte) : Words :=
  let w := getAt 0 m (e.1 / 4)
  let sh := 8 * (e.1 % 4)
  if e.1 < 0x10000 then setAt 0 m (e.1 / 4) ((w &&& ~~~((0xFF : Word) <<< sh)) ||| (e.2.zeroExtend 32 <<< sh)) else m

/-- The words of the apertures after a host write of 32 bits at byte `off` (R295). -/
def slotsWith (m : Words) (off : Nat) (v : Word) : Words :=
  if off % 4 = 0 then setAt 0 m (off / 4) v
  else ((List.range 4).map fun i => (off + i, v.extractLsb' (8 * i) 8)).foldl slotByte m

/-- A word of the MSI-X table is written: a vector that is no longer masked is no longer pending (R294; log 15). -/
def State.msixWrite (s : State) (k : Nat) (v : Word) : State :=
  { s with
    msix := setAt (if k % 4 = 3 then 1 else 0) s.msix k v
    pba := if k % 4 = 3 && !v.getLsbD 0 then setAt false s.pba (k / 4) false else s.pba }

/-- What a host read of 32 bits of BAR0 returns (R294-R296, R318): the apertures and every offset that is not
listed read as zero. -/
def State.bar0Read (s : State) (off : Nat) : Word :=
  let r := off % 64 / 4
  if off % 4 ≠ 0 then 0
  else if 0x10000 ≤ off && off < 0x10400 then
    let q := (off - 0x10000) / 64
    let n := (s.queued q).length
    (match r with
    | 0 => (0 : BitVec 24) ++ BitVec.ofBool (s.queue q).valid ++ (0 : BitVec 1) ++ BitVec.ofNat 6 (s.queue q).ctx
    | 1 => BitVec.ofBool (decide (n ≠ 0)) ++ (0 : BitVec 20) ++ BitVec.ofNat 11 n
    | 2 => (s.queue q).next
    | 3 => (s.queue q).drops
    | _ => 0)
  else if 0x20000 ≤ off && off < 0x21000 then
    let x := findD (fun y => y.id == (off - 0x20000) / 64) (Ctx.fresh ((off - 0x20000) / 64)) s.ctxs
    (match r with
    | 0 => x.rbase.extractLsb' 0 32
    | 1 => x.rbase.extractLsb' 32 32
    | 2 => x.rsize.zeroExtend 32
    | 3 => x.rprod
    | 4 => x.rcons
    | _ => 0)
  else if 0x30000 ≤ off && off < 0x38000 then s.msixWord ((off - 0x30000) / 4)
  else if 0x38000 ≤ off && off < 0x38100 then
    maskOf (fun i => getAt false s.pba (8 * (off - 0x38000) + i)) 32
  else 0

/-- REGISTER_WRITE (R294-R296, R318): a 32-bit host write to BAR0. A write that includes a byte of word 63 of a
slot commits it. Registers of queues, rings and the MSI-X table are written as aligned 32-bit words: at another offset
they are not written, and read 0 (DESIGN CHOICE, log 50: no access sizes are given). -/
def execRegisterWrite (off : Nat) (v : BitVec 32) (s : State) : Out :=
  if off < 0x10000 then
    let m := slotsWith s.slots off v
    let base := off / 256 * 64
    if off % 256 + 3 ≥ 0xFC then
      .next (({ s with slots := setRun 0 m base (List.replicate 64 0) } : State).commit (off / 4096) (getRun 0 m base 64))
    else .next { s with slots := m }
  else if off % 4 ≠ 0 then .next s
  else if off < 0x10400 then (if off % 64 = 0 then execQownWrite ((off - 0x10000) / 64) v s else .next s)
  else if 0x20000 ≤ off && off < 0x21000 then
    .next (s.setCtx ((off - 0x20000) / 64) fun x => x.ringWrite (off % 64 / 4) v)
  else if 0x30000 ≤ off && off < 0x38000 then .next (s.msixWrite ((off - 0x30000) / 4) v)
  else .next s

end Sys2Proof.Machine
end

