-- ==== Sys2Proof/Machine/Leave.lean ====
section
/-! DEFINITION. The effects of a wave leave its core once their words are over 256 cycles old (R21, R208,
R330, R340). -/

namespace Sys2Proof.Machine

open Sys2Proof

/-- A store or atomic may leave: the wave's earlier atomics are performed, and at fabric scope a release has
its earlier answers (R213, R218). -/
def Wave.mayLeave (w : Wave) (rel : Option (BitVec 2)) : Bool := w.atoms.isEmpty && match rel with
  | some sc => w.releaseReady sc
  | none => true

/-- The waits of FENCE.REL.DV MEM for a LAUNCH or GROW (R313, R314). -/
def Wave.enterReady (w : Wave) : Bool :=
  w.atoms.isEmpty && (w.loads.all fun l => l.dest == .packet) && w.releaseReady 2

/-- An effect has left: the side-effect bit is set, here and in every checkpoint (R340). -/
def State.sideEffect (s : State) (b : Block) : State := s.updBlockAll b.uid fun b => { b with sideEffect := true }

/-- An entry has left, unless its release still waits for an acknowledgement and the wave's queue is as it was (R213). -/
def State.leftEffect (s : State) (b : Block) (w : Wave) : State :=
  if (s.wave? b.uid w.idx).any fun x => x.sq == w.sq then s else s.sideEffect b

/-- The entry is gone from the wave's store queue, here and in every checkpoint that held it. -/
def State.dropEntry (s : State) (b : Block) (w : Wave) (e : Nat × Effect) : State :=
  s.updWaveAll b.uid w.idx (Wave.left e id)

/-- A leaving word has faulted (R228, R329): its block halts; in a block that has halted already it stays
where it is. -/
def State.leaveFault (s : State) (b : Block) (w : Wave) (pos : Addr) (op : Nat) (t : TrapInfo) : State :=
  if b.halt.isSome then s else lateTrap s b.uid w.idx pos { t with opcode := op }

/-- The opcode of a store by the bytes of its lanes (R234). -/
def storeOpcode (lanes : List (Nat × Addr × List Byte)) : Nat := match (lanes.head?.map fun x => x.2.2.length).getD 4 with
  | 1 => 0x65
  | 2 => 0x66
  | 4 => 0x67
  | 8 => 0x68
  | _ => 0x69

/-- LAUNCH or GROW at its turn: its release, then the word itself, even when its wave has exited because its lanes
were killed after it issued (R161, R312). A release that faults is charged to the
word, which executes again after the restore (R228, R313, R314). -/
def State.leaveEnter (s : State) (b : Block) (w : Wave) (h : Hold) (e : Nat × Effect) (go : State → State) : State :=
  let holds := match w.run with
    | .entering _ => true
    | _ => !w.live
  if !holds then s.dropEntry b w e
  else if !w.enterReady then s
  else
    (match releaseAt s b 0x7D (some 2) with
    | .ok s1 => if s1.releaseWaits b.core b.ctx (some 2) then s1 else go s1
    | .error t =>
      let s1 := (s.unpinAll b.core b.ctx).updWaveAll b.uid w.idx (Wave.left e fun w => if w.live then { w with run := .running } else w)
      lateTrap s1 b.uid w.idx h.pos t)

/-- One effect leaves the wave. -/
def State.leave (s : State) (b : Block) (w : Wave) (e : Nat × Effect) : State :=
  match e.2 with
  | .store _ lanes rel pos =>
    if !w.mayLeave rel then s
    else (match leaveStore s b w e lanes rel with
      | .ok s1 => s1.leftEffect b w
      | .error t => (if rel.isSome then s.unpinAll b.core b.ctx else s).leaveFault b w pos (storeOpcode lanes) t)
  | .atom part fn dest lanes acq rel pos =>
    if rel.isSome && !w.mayLeave rel then s
    else (match leaveAtom s b w e part fn dest lanes acq rel pos with
      | .ok s1 => s1.leftEffect b w
      | .error t => (if rel.isSome then s.unpinAll b.core b.ctx else s).leaveFault b w pos (if dest.isSome then 0x6C else 0x6D) t)
  | .gsync x =>
    (s.dropEntry b w e).updLaunch b.launch fun l =>
      let p := l.phase x
      { l with phases := (x, { p with arrived := b.index :: p.arrived }) :: l.phases.filter fun y => y.1 != x }
  | .launch h q a => s.leaveEnter b w h e fun s1 => match s1.wave? b.uid w.idx with
      | some w1 => s1.doLaunch b w1 h e q a
      | none => s1
  | .grow h d inc => s.leaveEnter b w h e fun s1 =>
      (((s1.dropEntry b w e).doGrow b w h d inc).sideEffect b)
  | .coll csend name token desc =>
    let op : CollOp :=
      { csend := csend, name := name, block := b.uid, wave := w.idx, token := token, ctx := b.ctx, desc := desc, seq := 0,
        pos := 0 }
    let s1 := (s.dropEntry b w e).sideEffect b
    { s1 with mantle := { s1.mantle with arriving := s1.mantle.arriving ++ [op] } }
  | .post _ p lanes => ((s.dropEntry b w e).sideEffect b).leavePost b w p lanes
  | .take _ p v m => ((s.dropEntry b w e).sideEffect b).leaveTake b w p v m
  | .giveBack => ((s.dropEntry b w e).sideEffect b).leaveReturn b

/-- STORE_LEAVE_CORE (R21): the oldest effect of a wave leaves, if its time has come. -/
def execStoreLeaveCore (b wv : Nat) (s : State) : Out :=
  match s.block? b, s.wave? b wv with
  | some blk, some w =>
    match w.leaving (s.aged blk.core) with
    | some e => .next ((s.leave blk w e).settle b)
    | none => .next s
  | _, _ => .next s

end Sys2Proof.Machine
end

