-- ==== Sys2Proof/Decode.lean ====
section
/-! DEFINITION. Decoding (R30, R33, R36, R47-R55) and encoding of the words of the XK-960. Decoding is
total: a word that no encoding matches is rejected by name. A clause word is 32 bits, followed by a
32-bit literal for MOVL and SMOVL (R98, R137); a matrix-stream word is 64 bits (R54). -/

namespace Sys2Proof

/-- Why bits are no instruction (R33, R35, R54). -/
inductive DecodeReject where
  /-- The primary opcode [31:25] is undefined (R47). -/
  | undefinedOpcode
  /-- The function of a SYS, BR or WREC word is undefined (R51, R52). -/
  | undefinedFunction
  /-- A bit the encoding of the named mnemonic fixes differs (R35, R92). -/
  | fixedBits (mnemonic : String)
  /-- The stream opcode [63:58] is 0x13-0x3F (R54). -/
  | undefinedStreamOpcode
  /-- Fewer bytes are left than the word needs. -/
  | truncated
  deriving DecidableEq, Repr

/-- WREC words by function [24:21] (R52, R416). -/
def decodeWrec (w : Word) : Except DecodeReject Instr :=
  match (w.extractLsb' 21 4).toNat with
  | 0 => if w &&& 0xFFE00001#32 = 0xF4000000#32 then .ok (.wrecPost (w.extractLsb' 17 4) (w.extractLsb' 9 8) (w.extractLsb' 1 8)) else .error (.fixedBits "WREC_POST")
  | 1 => if w &&& 0xFFE001FF#32 = 0xF4200000#32 then .ok (.wrecTake (w.extractLsb' 17 4) (w.extractLsb' 9 8)) else .error (.fixedBits "WREC_TAKE")
  | 2 => if w &&& 0xFFFFFFFF#32 = 0xF4400000#32 then .ok (.wrecReturn) else .error (.fixedBits "WREC_RETURN")
  | _ => .error .undefinedFunction

/-- Branch words by kind [19:18] (R36, R37, R179). -/
def decodeBr (w : Word) : Except DecodeReject Instr :=
  match (w.extractLsb' 18 2).toNat with
  | 0 => if w &&& 0xFE0C0000#32 = 0xF8000000#32 then .ok (.bra (w.extractLsb' 21 4) (w.getLsbD 20) (w.extractLsb' 0 18)) else .error (.fixedBits "BRA")
  | 1 => if w &&& 0xFE0C0000#32 = 0xF8040000#32 then .ok (.brc (w.extractLsb' 21 4) (w.getLsbD 20) (w.extractLsb' 0 18)) else .error (.fixedBits "BRC")
  | 2 => if w &&& 0xFE0C0000#32 = 0xF8080000#32 then .ok (.call (w.extractLsb' 21 4) (w.getLsbD 20) (w.extractLsb' 0 18)) else .error (.fixedBits "CALL")
  | 3 => if w &&& 0xFFFC0000#32 = 0xF80C0000#32 then .ok (.rcv (w.extractLsb' 0 18)) else .error (.fixedBits "RCV")
  | _ => .error .undefinedFunction

/-- SYS words by function [24:19] (R51, R178). -/
def decodeSys (w : Word) : Except DecodeReject Instr :=
  match (w.extractLsb' 19 6).toNat with
  | 0 => if w &&& 0xFFFFFFFF#32 = 0xFA000000#32 then .ok (.nop) else .error (.fixedBits "NOP")
  | 1 => if w &&& 0xFFFFFFFF#32 = 0xFA080000#32 then .ok (.ret) else .error (.fixedBits "RET")
  | 2 => if w &&& 0xFFFFFFFF#32 = 0xFA100000#32 then .ok (.exit) else .error (.fixedBits "EXIT")
  | 3 => if w &&& 0xFFFFFFFF#32 = 0xFA180000#32 then .ok (.yield) else .error (.fixedBits "YIELD")
  | 4 => if w &&& 0xFFFF0000#32 = 0xFA200000#32 then .ok (.trap (w.extractLsb' 0 16)) else .error (.fixedBits "TRAP")
  | 5 => if w &&& 0xFFFF0000#32 = 0xFA280000#32 then .ok (.bkpt (w.extractLsb' 0 16)) else .error (.fixedBits "BKPT")
  | 6 => if w &&& 0xFFF83FFF#32 = 0xFA300000#32 then .ok (.bar (w.extractLsb' 15 4) (w.getLsbD 14)) else .error (.fixedBits "BAR")
  | 7 => if w &&& 0xFFF807FF#32 = 0xFA380000#32 then .ok (.gsync (w.extractLsb' 11 8)) else .error (.fixedBits "GSYNC")
  | 8 => if w &&& 0xFFF81FFF#32 = 0xFA400000#32 then .ok (.mbar (w.extractLsb' 15 4) (w.extractLsb' 13 2)) else .error (.fixedBits "MBAR")
  | 9 => if w &&& 0xFFF80000#32 = 0xFA480000#32 then .ok (.waitv (w.extractLsb' 14 5) (w.extractLsb' 11 3) (w.extractLsb' 8 3) (w.extractLsb' 0 8)) else .error (.fixedBits "WAITV")
  | 10 => if w &&& 0xFFF80000#32 = 0xFA500000#32 then .ok (.step (w.extractLsb' 0 19)) else .error (.fixedBits "STEP")
  | 11 => if w &&& 0xFFF803FF#32 = 0xFA580000#32 then .ok (.launch (w.extractLsb' 14 5) (w.extractLsb' 10 4)) else .error (.fixedBits "LAUNCH")
  | 12 => if w &&& 0xFFF80007#32 = 0xFA600000#32 then .ok (.grow (w.extractLsb' 11 8) (w.extractLsb' 3 8)) else .error (.fixedBits "GROW")
  | 13 => if w &&& 0xFFF8007F#32 = 0xFA680000#32 then .ok (.chsend (w.extractLsb' 15 4) (w.extractLsb' 7 8)) else .error (.fixedBits "CHSEND")
  | 14 => if w &&& 0xFFF80007#32 = 0xFA700000#32 then .ok (.chrecv (w.extractLsb' 15 4) (w.extractLsb' 7 8) (w.extractLsb' 3 4)) else .error (.fixedBits "CHRECV")
  | 15 => if w &&& 0xFFF87FFF#32 = 0xFA780000#32 then .ok (.chclose (w.extractLsb' 15 4)) else .error (.fixedBits "CHCLOSE")
  | 16 => if w &&& 0xFFF8000F#32 = 0xFA800000#32 then .ok (.pref (w.extractLsb' 14 5) (w.extractLsb' 6 8) (w.extractLsb' 4 2)) else .error (.fixedBits "PREF")
  | 17 => if w &&& 0xFFF8001F#32 = 0xFA880000#32 then .ok (.cinv (w.extractLsb' 14 5) (w.extractLsb' 6 8) (w.getLsbD 5)) else .error (.fixedBits "CINV")
  | 18 => if w &&& 0xFFF8001F#32 = 0xFA900000#32 then .ok (.rdcpurge (w.extractLsb' 14 5) (w.extractLsb' 6 8) (w.getLsbD 5)) else .error (.fixedBits "RDCPURGE")
  | 19 => if w &&& 0xFFF80000#32 = 0xFA980000#32 then .ok (.csrr (w.extractLsb' 8 11) (w.extractLsb' 0 8)) else .error (.fixedBits "CSRR")
  | 20 => if w &&& 0xFFF80000#32 = 0xFAA00000#32 then .ok (.csrw (w.extractLsb' 8 11) (w.extractLsb' 0 8)) else .error (.fixedBits "CSRW")
  | 21 => if w &&& 0xFFF80000#32 = 0xFAA80000#32 then .ok (.sleep (w.extractLsb' 0 19)) else .error (.fixedBits "SLEEP")
  | 22 => if w &&& 0xFFF81FFF#32 = 0xFAB00000#32 then .ok (.brx (w.extractLsb' 14 5) (w.getLsbD 13)) else .error (.fixedBits "BRX")
  | _ => .error .undefinedFunction

/-- The word of a clause, with the word after it in `lit` (read only by MOVL and SMOVL). -/
def decodeWord (w lit : BitVec 32) : Except DecodeReject Instr :=
  match (w.extractLsb' 25 7).toNat with
  | 0 => .ok (.iadd (w.getLsbD 24) (w.extractLsb' 16 8) (w.extractLsb' 8 8) (w.extractLsb' 0 8))
  | 1 => .ok (.isub (w.getLsbD 24) (w.extractLsb' 16 8) (w.extractLsb' 8 8) (w.extractLsb' 0 8))
  | 2 => .ok (.imul (w.getLsbD 24) (w.extractLsb' 16 8) (w.extractLsb' 8 8) (w.extractLsb' 0 8))
  | 3 => .ok (.imulhs (w.getLsbD 24) (w.extractLsb' 16 8) (w.extractLsb' 8 8) (w.extractLsb' 0 8))
  | 4 => .ok (.imulhu (w.getLsbD 24) (w.extractLsb' 16 8) (w.extractLsb' 8 8) (w.extractLsb' 0 8))
  | 5 => .ok (.imad (w.getLsbD 24) (w.extractLsb' 16 8) (w.extractLsb' 8 8) (w.extractLsb' 0 8))
  | 6 => .ok (.imin (w.getLsbD 24) (w.extractLsb' 16 8) (w.extractLsb' 8 8) (w.extractLsb' 0 8))
  | 7 => .ok (.imax (w.getLsbD 24) (w.extractLsb' 16 8) (w.extractLsb' 8 8) (w.extractLsb' 0 8))
  | 8 => .ok (.umin (w.getLsbD 24) (w.extractLsb' 16 8) (w.extractLsb' 8 8) (w.extractLsb' 0 8))
  | 9 => .ok (.umax (w.getLsbD 24) (w.extractLsb' 16 8) (w.extractLsb' 8 8) (w.extractLsb' 0 8))
  | 10 => .ok (.and (w.getLsbD 24) (w.extractLsb' 16 8) (w.extractLsb' 8 8) (w.extractLsb' 0 8))
  | 11 => .ok (.or (w.getLsbD 24) (w.extractLsb' 16 8) (w.extractLsb' 8 8) (w.extractLsb' 0 8))
  | 12 => .ok (.xor (w.getLsbD 24) (w.extractLsb' 16 8) (w.extractLsb' 8 8) (w.extractLsb' 0 8))
  | 13 => .ok (.andn (w.getLsbD 24) (w.extractLsb' 16 8) (w.extractLsb' 8 8) (w.extractLsb' 0 8))
  | 14 => .ok (.shl (w.getLsbD 24) (w.extractLsb' 16 8) (w.extractLsb' 8 8) (w.extractLsb' 0 8))
  | 15 => .ok (.shr (w.getLsbD 24) (w.extractLsb' 16 8) (w.extractLsb' 8 8) (w.extractLsb' 0 8))
  | 16 => .ok (.sar (w.getLsbD 24) (w.extractLsb' 16 8) (w.extractLsb' 8 8) (w.extractLsb' 0 8))
  | 17 => .ok (.rotl (w.getLsbD 24) (w.extractLsb' 16 8) (w.extractLsb' 8 8) (w.extractLsb' 0 8))
  | 18 => .ok (.iun (w.getLsbD 24) (w.extractLsb' 16 8) (w.extractLsb' 8 8) (w.extractLsb' 0 8))
  | 19 => .ok (.bfx (w.getLsbD 24) (w.extractLsb' 16 8) (w.extractLsb' 8 8) (w.extractLsb' 0 8))
  | 20 => .ok (.bfi (w.getLsbD 24) (w.extractLsb' 16 8) (w.extractLsb' 8 8) (w.extractLsb' 0 8))
  | 21 => .ok (.iaddi (w.getLsbD 24) (w.extractLsb' 16 8) (w.extractLsb' 8 8) (w.extractLsb' 0 8))
  | 22 => if w &&& 0xFE0000E0#32 = 0x2C000000#32 then .ok (.shli (w.getLsbD 24) (w.extractLsb' 16 8) (w.extractLsb' 8 8) (w.extractLsb' 0 5)) else .error (.fixedBits "SHLI")
  | 23 => if w &&& 0xFE0000E0#32 = 0x2E000000#32 then .ok (.shri (w.getLsbD 24) (w.extractLsb' 16 8) (w.extractLsb' 8 8) (w.extractLsb' 0 5)) else .error (.fixedBits "SHRI")
  | 24 => if w &&& 0xFE0000E0#32 = 0x30000000#32 then .ok (.sari (w.getLsbD 24) (w.extractLsb' 16 8) (w.extractLsb' 8 8) (w.extractLsb' 0 5)) else .error (.fixedBits "SARI")
  | 25 => .ok (.andi (w.getLsbD 24) (w.extractLsb' 16 8) (w.extractLsb' 8 8) (w.extractLsb' 0 8))
  | 26 => .ok (.ori (w.getLsbD 24) (w.extractLsb' 16 8) (w.extractLsb' 8 8) (w.extractLsb' 0 8))
  | 27 => .ok (.xori (w.getLsbD 24) (w.extractLsb' 16 8) (w.extractLsb' 8 8) (w.extractLsb' 0 8))
  | 28 => .ok (.movi (w.getLsbD 24) (w.extractLsb' 16 8) (w.extractLsb' 0 16))
  | 29 => if w &&& 0xFF000000#32 = 0x3A000000#32 then .ok (.movhi (w.extractLsb' 16 8) (w.extractLsb' 0 16)) else .error (.fixedBits "MOVHI")
  | 30 => if w &&& 0xFE0000FF#32 = 0x3C000000#32 then .ok (.mov (w.getLsbD 24) (w.extractLsb' 16 8) (w.extractLsb' 8 8)) else .error (.fixedBits "MOV")
  | 31 => .ok (.icmp (w.extractLsb' 21 4) (w.extractLsb' 17 4) (w.getLsbD 16) (w.extractLsb' 8 8) (w.extractLsb' 0 8))
  | 32 => .ok (.fadd (w.getLsbD 24) (w.extractLsb' 16 8) (w.extractLsb' 8 8) (w.extractLsb' 0 8))
  | 33 => .ok (.fsub (w.getLsbD 24) (w.extractLsb' 16 8) (w.extractLsb' 8 8) (w.extractLsb' 0 8))
  | 34 => .ok (.fmul (w.getLsbD 24) (w.extractLsb' 16 8) (w.extractLsb' 8 8) (w.extractLsb' 0 8))
  | 35 => .ok (.ffma (w.getLsbD 24) (w.extractLsb' 16 8) (w.extractLsb' 8 8) (w.extractLsb' 0 8))
  | 36 => .ok (.fmin (w.getLsbD 24) (w.extractLsb' 16 8) (w.extractLsb' 8 8) (w.extractLsb' 0 8))
  | 37 => .ok (.fmax (w.getLsbD 24) (w.extractLsb' 16 8) (w.extractLsb' 8 8) (w.extractLsb' 0 8))
  | 38 => .ok (.fun (w.getLsbD 24) (w.extractLsb' 16 8) (w.extractLsb' 8 8) (w.extractLsb' 0 8))
  | 39 => .ok (.fcmp (w.extractLsb' 21 4) (w.extractLsb' 17 4) (w.getLsbD 16) (w.extractLsb' 8 8) (w.extractLsb' 0 8))
  | 40 => .ok (.sel (w.getLsbD 24) (w.extractLsb' 16 8) (w.extractLsb' 8 8) (w.extractLsb' 0 8))
  | 41 => .ok (.badd2 (w.getLsbD 24) (w.extractLsb' 16 8) (w.extractLsb' 8 8) (w.extractLsb' 0 8))
  | 42 => .ok (.bmul2 (w.getLsbD 24) (w.extractLsb' 16 8) (w.extractLsb' 8 8) (w.extractLsb' 0 8))
  | 43 => .ok (.bfma2 (w.getLsbD 24) (w.extractLsb' 16 8) (w.extractLsb' 8 8) (w.extractLsb' 0 8))
  | 44 => .ok (.hadd2 (w.getLsbD 24) (w.extractLsb' 16 8) (w.extractLsb' 8 8) (w.extractLsb' 0 8))
  | 45 => .ok (.hmul2 (w.getLsbD 24) (w.extractLsb' 16 8) (w.extractLsb' 8 8) (w.extractLsb' 0 8))
  | 46 => .ok (.hfma2 (w.getLsbD 24) (w.extractLsb' 16 8) (w.extractLsb' 8 8) (w.extractLsb' 0 8))
  | 47 => .ok (.dot4i (w.getLsbD 24) (w.extractLsb' 16 8) (w.extractLsb' 8 8) (w.extractLsb' 0 8))
  | 48 => .ok (.dot2b (w.getLsbD 24) (w.extractLsb' 16 8) (w.extractLsb' 8 8) (w.extractLsb' 0 8))
  | 49 => .ok (.dot4f8 (w.getLsbD 24) (w.extractLsb' 16 8) (w.extractLsb' 8 8) (w.extractLsb' 0 8))
  | 50 => .ok (.ldexp (w.getLsbD 24) (w.extractLsb' 16 8) (w.extractLsb' 8 8) (w.extractLsb' 0 8))
  | 54 => .ok (.cvt (w.getLsbD 24) (w.extractLsb' 16 8) (w.extractLsb' 8 8) (w.extractLsb' 0 8))
  | 55 => .ok (.f8pack (w.getLsbD 24) (w.extractLsb' 16 8) (w.extractLsb' 8 8) (w.extractLsb' 0 8))
  | 56 => if w &&& 0xFF000000#32 = 0x70000000#32 then .ok (.f8unpk (w.extractLsb' 16 8) (w.extractLsb' 8 8) (w.extractLsb' 0 8)) else .error (.fixedBits "F8UNPK")
  | 57 => .ok (.sfu (w.getLsbD 24) (w.extractLsb' 16 8) (w.extractLsb' 8 8) (w.extractLsb' 0 8))
  | 58 => if w &&& 0xFF0000FF#32 = 0x74000000#32 then .ok (.qamax (w.extractLsb' 16 8) (w.extractLsb' 8 8)) else .error (.fixedBits "QAMAX")
  | 59 => if w &&& 0xFF0000FE#32 = 0x76000000#32 then .ok (.qscale (w.extractLsb' 16 8) (w.extractLsb' 8 8) (w.getLsbD 0)) else .error (.fixedBits "QSCALE")
  | 60 => if w &&& 0xFF000000#32 = 0x78000000#32 then .ok (.rng (w.extractLsb' 16 8) (w.extractLsb' 8 8) (w.extractLsb' 0 8)) else .error (.fixedBits "RNG")
  | 64 => .ok (.shfl (w.getLsbD 24) (w.extractLsb' 16 8) (w.extractLsb' 8 8) (w.extractLsb' 0 8))
  | 65 => .ok (.perm (w.getLsbD 24) (w.extractLsb' 16 8) (w.extractLsb' 8 8) (w.extractLsb' 0 8))
  | 66 => if w &&& 0xFE00F0FF#32 = 0x84000000#32 then .ok (.vote (w.extractLsb' 21 4) (w.extractLsb' 17 4) (w.getLsbD 16) (w.extractLsb' 8 4)) else .error (.fixedBits "VOTE")
  | 67 => if w &&& 0xFF00F0FF#32 = 0x86000000#32 then .ok (.ballot (w.extractLsb' 16 8) (w.extractLsb' 8 4)) else .error (.fixedBits "BALLOT")
  | 68 => if w &&& 0xFF000000#32 = 0x88000000#32 then .ok (.wred (w.extractLsb' 16 8) (w.extractLsb' 8 8) (w.extractLsb' 0 8)) else .error (.fixedBits "WRED")
  | 69 => .ok (.wscan (w.getLsbD 24) (w.extractLsb' 16 8) (w.extractLsb' 8 8) (w.extractLsb' 0 8))
  | 70 => if w &&& 0xFF0000E0#32 = 0x8C000000#32 then .ok (.v2s (w.extractLsb' 16 8) (w.extractLsb' 8 8) (w.extractLsb' 0 5)) else .error (.fixedBits "V2S")
  | 71 => if w &&& 0xFE0000FF#32 = 0x8E000000#32 then .ok (.s2v (w.getLsbD 24) (w.extractLsb' 16 8) (w.extractLsb' 8 8)) else .error (.fixedBits "S2V")
  | 72 => if w &&& 0xFF000000#32 = 0x90000000#32 then .ok (.sadd (w.extractLsb' 16 8) (w.extractLsb' 8 8) (w.extractLsb' 0 8)) else .error (.fixedBits "SADD")
  | 73 => if w &&& 0xFF000000#32 = 0x92000000#32 then .ok (.ssub (w.extractLsb' 16 8) (w.extractLsb' 8 8) (w.extractLsb' 0 8)) else .error (.fixedBits "SSUB")
  | 74 => if w &&& 0xFF000000#32 = 0x94000000#32 then .ok (.smul (w.extractLsb' 16 8) (w.extractLsb' 8 8) (w.extractLsb' 0 8)) else .error (.fixedBits "SMUL")
  | 75 => if w &&& 0xFF000000#32 = 0x96000000#32 then .ok (.sand (w.extractLsb' 16 8) (w.extractLsb' 8 8) (w.extractLsb' 0 8)) else .error (.fixedBits "SAND")
  | 76 => if w &&& 0xFF000000#32 = 0x98000000#32 then .ok (.sor (w.extractLsb' 16 8) (w.extractLsb' 8 8) (w.extractLsb' 0 8)) else .error (.fixedBits "SOR")
  | 77 => if w &&& 0xFF000000#32 = 0x9A000000#32 then .ok (.sxor (w.extractLsb' 16 8) (w.extractLsb' 8 8) (w.extractLsb' 0 8)) else .error (.fixedBits "SXOR")
  | 78 => if w &&& 0xFF000000#32 = 0x9C000000#32 then .ok (.sshl (w.extractLsb' 16 8) (w.extractLsb' 8 8) (w.extractLsb' 0 8)) else .error (.fixedBits "SSHL")
  | 79 => if w &&& 0xFF000000#32 = 0x9E000000#32 then .ok (.sshr (w.extractLsb' 16 8) (w.extractLsb' 8 8) (w.extractLsb' 0 8)) else .error (.fixedBits "SSHR")
  | 80 => if w &&& 0xFF000000#32 = 0xA0000000#32 then .ok (.ssar (w.extractLsb' 16 8) (w.extractLsb' 8 8) (w.extractLsb' 0 8)) else .error (.fixedBits "SSAR")
  | 81 => if w &&& 0xFF000000#32 = 0xA2000000#32 then .ok (.smin (w.extractLsb' 16 8) (w.extractLsb' 8 8) (w.extractLsb' 0 8)) else .error (.fixedBits "SMIN")
  | 82 => if w &&& 0xFF000000#32 = 0xA4000000#32 then .ok (.smax (w.extractLsb' 16 8) (w.extractLsb' 8 8) (w.extractLsb' 0 8)) else .error (.fixedBits "SMAX")
  | 83 => if w &&& 0xFF000000#32 = 0xA6000000#32 then .ok (.saddi (w.extractLsb' 16 8) (w.extractLsb' 8 8) (w.extractLsb' 0 8)) else .error (.fixedBits "SADDI")
  | 84 => if w &&& 0xFF000000#32 = 0xA8000000#32 then .ok (.smovi (w.extractLsb' 16 8) (w.extractLsb' 0 16)) else .error (.fixedBits "SMOVI")
  | 85 => .ok (.scmp (w.extractLsb' 21 4) (w.extractLsb' 17 4) (w.getLsbD 16) (w.extractLsb' 8 8) (w.extractLsb' 0 8))
  | 86 => if w &&& 0xFF000000#32 = 0xAC000000#32 then .ok (.sadd64 (w.extractLsb' 16 8) (w.extractLsb' 8 8) (w.extractLsb' 0 8)) else .error (.fixedBits "SADD64")
  | 87 => if w &&& 0xFF000000#32 = 0xAE000000#32 then .ok (.ssel (w.extractLsb' 16 8) (w.extractLsb' 8 8) (w.extractLsb' 0 8)) else .error (.fixedBits "SSEL")
  | 88 => if w &&& 0xFE0E000F#32 = 0xB0000000#32 then .ok (.tld (w.extractLsb' 20 5) (w.extractLsb' 9 8) (w.extractLsb' 4 5)) else .error (.fixedBits "TLD")
  | 89 => if w &&& 0xFE0E000F#32 = 0xB2000000#32 then .ok (.tst (w.extractLsb' 20 5) (w.extractLsb' 9 8) (w.extractLsb' 4 5)) else .error (.fixedBits "TST")
  | 90 => if w &&& 0xFE000007#32 = 0xB4000000#32 then .ok (.tmma (w.extractLsb' 17 8) (w.extractLsb' 12 5) (w.extractLsb' 7 5) (w.extractLsb' 3 4)) else .error (.fixedBits "TMMA")
  | 91 => if w &&& 0xFE000007#32 = 0xB6000000#32 then .ok (.tmmac (w.extractLsb' 17 8) (w.extractLsb' 12 5) (w.extractLsb' 7 5) (w.extractLsb' 3 4)) else .error (.fixedBits "TMMAC")
  | 92 => if w &&& 0xFE0FFFFF#32 = 0xB8000000#32 then .ok (.tzero (w.extractLsb' 20 5)) else .error (.fixedBits "TZERO")
  | 93 => if w &&& 0xFE0007FF#32 = 0xBA000000#32 then .ok (.tmov (w.getLsbD 24) (w.extractLsb' 16 8) (w.extractLsb' 11 5)) else .error (.fixedBits "TMOV")
  | 94 => if w &&& 0xFE00FFFF#32 = 0xBC000000#32 then .ok (.movl (w.getLsbD 24) (w.extractLsb' 16 8) lit) else .error (.fixedBits "MOVL")
  | 95 => if w &&& 0xFF00FFFF#32 = 0xBE000000#32 then .ok (.smovl (w.extractLsb' 16 8) lit) else .error (.fixedBits "SMOVL")
  | 96 => .ok (.ldb (w.extractLsb' 17 8) (w.extractLsb' 9 8) (w.extractLsb' 4 5) (w.extractLsb' 1 3) (w.getLsbD 0))
  | 97 => .ok (.ldh (w.extractLsb' 17 8) (w.extractLsb' 9 8) (w.extractLsb' 4 5) (w.extractLsb' 1 3) (w.getLsbD 0))
  | 98 => .ok (.ldw (w.extractLsb' 17 8) (w.extractLsb' 9 8) (w.extractLsb' 4 5) (w.extractLsb' 1 3) (w.getLsbD 0))
  | 99 => .ok (.ldd (w.extractLsb' 17 8) (w.extractLsb' 9 8) (w.extractLsb' 4 5) (w.extractLsb' 1 3) (w.getLsbD 0))
  | 100 => .ok (.ldq (w.extractLsb' 17 8) (w.extractLsb' 9 8) (w.extractLsb' 4 5) (w.extractLsb' 1 3) (w.getLsbD 0))
  | 101 => .ok (.stb (w.extractLsb' 17 8) (w.extractLsb' 9 8) (w.extractLsb' 4 5) (w.extractLsb' 1 3) (w.getLsbD 0))
  | 102 => .ok (.sth (w.extractLsb' 17 8) (w.extractLsb' 9 8) (w.extractLsb' 4 5) (w.extractLsb' 1 3) (w.getLsbD 0))
  | 103 => .ok (.stw (w.extractLsb' 17 8) (w.extractLsb' 9 8) (w.extractLsb' 4 5) (w.extractLsb' 1 3) (w.getLsbD 0))
  | 104 => .ok (.std (w.extractLsb' 17 8) (w.extractLsb' 9 8) (w.extractLsb' 4 5) (w.extractLsb' 1 3) (w.getLsbD 0))
  | 105 => .ok (.stq (w.extractLsb' 17 8) (w.extractLsb' 9 8) (w.extractLsb' 4 5) (w.extractLsb' 1 3) (w.getLsbD 0))
  | 106 => if w &&& 0xFE01FE01#32 = 0xD4000001#32 then .ok (.sldw (w.extractLsb' 17 8) (w.extractLsb' 4 5) (w.extractLsb' 1 3)) else .error (.fixedBits "SLDW")
  | 107 => if w &&& 0xFE01FE01#32 = 0xD6000001#32 then .ok (.sldd (w.extractLsb' 17 8) (w.extractLsb' 4 5) (w.extractLsb' 1 3)) else .error (.fixedBits "SLDD")
  | 108 => .ok (.atom (w.extractLsb' 21 4) (w.extractLsb' 13 8) (w.extractLsb' 5 8) (w.extractLsb' 0 5))
  | 109 => .ok (.atomn (w.extractLsb' 21 4) (w.extractLsb' 13 8) (w.extractLsb' 5 8) (w.extractLsb' 0 5))
  | 110 => if w &&& 0xFE00FFFF#32 = 0xDC000000#32 then .ok (.fence (w.extractLsb' 23 2) (w.extractLsb' 21 2) (w.extractLsb' 16 5)) else .error (.fixedBits "FENCE")
  | 111 => if w &&& 0xFE0FFFFF#32 = 0xDE000000#32 then .ok (.drain (w.extractLsb' 20 5)) else .error (.fixedBits "DRAIN")
  | 112 => if w &&& 0xFE001FFF#32 = 0xE0000000#32 then .ok (.copy (w.extractLsb' 16 9) (w.extractLsb' 13 3)) else .error (.fixedBits "COPY")
  | 113 => if w &&& 0xFE00001F#32 = 0xE2000000#32 then .ok (.copyg (w.extractLsb' 16 9) (w.extractLsb' 13 3) (w.extractLsb' 5 8)) else .error (.fixedBits "COPYG")
  | 114 => if w &&& 0xFE00001F#32 = 0xE4000000#32 then .ok (.copys (w.extractLsb' 16 9) (w.extractLsb' 13 3) (w.extractLsb' 5 8)) else .error (.fixedBits "COPYS")
  | 115 => if w &&& 0xFE001FFF#32 = 0xE6000000#32 then .ok (.kstat (w.extractLsb' 16 9) (w.extractLsb' 13 3)) else .error (.fixedBits "KSTAT")
  | 116 => if w &&& 0xFE000008#32 = 0xE8000000#32 then .ok (.rayq (w.extractLsb' 17 8) (w.extractLsb' 9 8) (w.extractLsb' 4 5) (w.extractLsb' 0 3)) else .error (.fixedBits "RAYQ")
  | 117 => if w &&& 0xFE000001#32 = 0xEA000000#32 then .ok (.ald (w.extractLsb' 17 8) (w.extractLsb' 9 8) (w.extractLsb' 1 8)) else .error (.fixedBits "ALD")
  | 118 => if w &&& 0xFE000001#32 = 0xEC000000#32 then .ok (.ast (w.extractLsb' 17 8) (w.extractLsb' 9 8) (w.extractLsb' 1 8)) else .error (.fixedBits "AST")
  | 120 => if w &&& 0xFE001FFF#32 = 0xF0000000#32 then .ok (.csend (w.extractLsb' 16 9) (w.extractLsb' 13 3)) else .error (.fixedBits "CSEND")
  | 121 => if w &&& 0xFE001FFF#32 = 0xF2000000#32 then .ok (.coll (w.extractLsb' 16 9) (w.extractLsb' 13 3)) else .error (.fixedBits "COLL")
  | 122 => decodeWrec w
  | 124 => decodeBr w
  | 125 => decodeSys w
  | 126 => if w &&& 0xFE000001#32 = 0xFC000000#32 then .ok (.xp (w.extractLsb' 22 3) (w.extractLsb' 17 5) (w.extractLsb' 14 3) (w.extractLsb' 9 5) (w.extractLsb' 6 3) (w.extractLsb' 1 5)) else .error (.fixedBits "XP")
  | 127 => .ok (.xc (w.extractLsb' 21 4) (w.getLsbD 20) (w.extractLsb' 12 8) (w.extractLsb' 9 3) (w.getLsbD 8) (w.extractLsb' 5 3) (w.extractLsb' 0 5))
  | _ => .error .undefinedOpcode

/-- A matrix-stream word (R54, R55). -/
def decodeStreamWord (w : BitVec 64) : Except DecodeReject Instr :=
  match (w.extractLsb' 58 6).toNat with
  | 0 => if w &&& 0xFFFFFFFFFFFFFFFF#64 = 0x0000000000000000#64 then .ok (.mend) else .error (.fixedBits "MEND")
  | 1 => if w &&& 0xFC000000000000FF#64 = 0x0400000000000000#64 then .ok (.mmac (w.getLsbD 57) (w.extractLsb' 51 6) (w.extractLsb' 44 7) (w.extractLsb' 41 3) (w.extractLsb' 21 20) (w.extractLsb' 8 13)) else .error (.fixedBits "MMAC")
  | 2 => if w &&& 0xFC000000000000FF#64 = 0x0800000000000000#64 then .ok (.mmacb (w.getLsbD 57) (w.extractLsb' 51 6) (w.extractLsb' 44 7) (w.extractLsb' 41 3) (w.extractLsb' 21 20) (w.extractLsb' 8 13)) else .error (.fixedBits "MMACB")
  | 3 => if w &&& 0xFC000000000000FF#64 = 0x0C00000000000000#64 then .ok (.mmaci (w.getLsbD 57) (w.extractLsb' 51 6) (w.extractLsb' 44 7) (w.extractLsb' 41 3) (w.extractLsb' 21 20) (w.extractLsb' 8 13)) else .error (.fixedBits "MMACI")
  | 4 => if w &&& 0xFC000000000000FF#64 = 0x1000000000000000#64 then .ok (.mcmac (w.getLsbD 57) (w.extractLsb' 51 6) (w.extractLsb' 44 7) (w.extractLsb' 41 3) (w.extractLsb' 21 20) (w.extractLsb' 8 13)) else .error (.fixedBits "MCMAC")
  | 5 => if w &&& 0xFC0000000007FFFF#64 = 0x1400000000000000#64 then .ok (.msa (w.extractLsb' 50 8) (w.extractLsb' 44 6) (w.extractLsb' 41 3) (w.extractLsb' 38 3) (w.extractLsb' 19 19)) else .error (.fixedBits "MSA")
  | 6 => if w &&& 0xFC0007FFFFFFFFFF#64 = 0x1800000000000000#64 then .ok (.msai (w.extractLsb' 50 8) (w.extractLsb' 44 6) (w.getLsbD 43)) else .error (.fixedBits "MSAI")
  | 7 => if w &&& 0xFC0001FFFFFFFFFF#64 = 0x1C00000000000000#64 then .ok (.mclr (w.getLsbD 57) (w.extractLsb' 49 8) (w.extractLsb' 41 8)) else .error (.fixedBits "MCLR")
  | 8 => if w &&& 0xFC0000000000003F#64 = 0x2000000000000000#64 then .ok (.mout (w.extractLsb' 50 8) (w.extractLsb' 44 6) (w.extractLsb' 41 3) (w.extractLsb' 38 3) (w.extractLsb' 19 19) (w.extractLsb' 6 13)) else .error (.fixedBits "MOUT")
  | 9 => if w &&& 0xFC0FFFFFFFFFFFFF#64 = 0x2400000000000000#64 then .ok (.streamMbar (w.extractLsb' 54 4) (w.extractLsb' 52 2)) else .error (.fixedBits "STREAM_MBAR")
  | 10 => if w &&& 0xFC3F000000000000#64 = 0x2800000000000000#64 then .ok (.mset (w.extractLsb' 55 3) (w.getLsbD 54) (w.extractLsb' 0 48)) else .error (.fixedBits "MSET")
  | 11 => if w &&& 0xFC0FFF0000000000#64 = 0x2C00000000000000#64 then .ok (.madv (w.extractLsb' 55 3) (w.extractLsb' 52 3) (w.extractLsb' 0 40)) else .error (.fixedBits "MADV")
  | 12 => if w &&& 0xFC7FFFFFFFFC0000#64 = 0x3000000000000000#64 then .ok (.mloop (w.extractLsb' 55 3) (w.extractLsb' 0 18)) else .error (.fixedBits "MLOOP")
  | 13 => if w &&& 0xFC0000000000007F#64 = 0x3400000000000000#64 then .ok (.atopk (w.extractLsb' 50 8) (w.extractLsb' 42 8) (w.extractLsb' 32 10) (w.extractLsb' 29 3) (w.extractLsb' 26 3) (w.extractLsb' 7 19)) else .error (.fixedBits "ATOPK")
  | 14 => if w &&& 0xFC00000FFFFFFFFF#64 = 0x3800000000000000#64 then .ok (.asmax (w.extractLsb' 50 8) (w.extractLsb' 42 8) (w.extractLsb' 39 3) (w.extractLsb' 36 3)) else .error (.fixedBits "ASMAX")
  | 15 => if w &&& 0xFC0000000000007F#64 = 0x3C00000000000000#64 then .ok (.asample (w.extractLsb' 50 8) (w.extractLsb' 42 8) (w.getLsbD 41) (w.extractLsb' 38 3) (w.extractLsb' 35 3) (w.extractLsb' 32 3) (w.extractLsb' 29 3) (w.extractLsb' 26 3) (w.extractLsb' 7 19)) else .error (.fixedBits "ASAMPLE")
  | 16 => if w &&& 0xFC00000003FFFFFF#64 = 0x4000000000000000#64 then .ok (.mstep (w.extractLsb' 26 32)) else .error (.fixedBits "MSTEP")
  | 17 => if w &&& 0xFFFFFFFFFFFFFFFF#64 = 0x4400000000000000#64 then .ok (.mnop) else .error (.fixedBits "MNOP")
  | 18 => if w &&& 0xFC000000000000FF#64 = 0x4800000000000000#64 then .ok (.mmace5 (w.getLsbD 57) (w.extractLsb' 51 6) (w.extractLsb' 44 7) (w.extractLsb' 41 3) (w.extractLsb' 21 20) (w.extractLsb' 8 13)) else .error (.fixedBits "MMACE5")
  | _ => .error .undefinedStreamOpcode

/-- The 32-bit word that four bytes form, the lowest address first (R3). -/
def word32 (b0 b1 b2 b3 : Byte) : BitVec 32 := b3 ++ b2 ++ b1 ++ b0

/-- The four bytes of a word, the lowest address first (R3). -/
def bytes32 (w : BitVec 32) : List Byte :=
  [w.extractLsb' 0 8, w.extractLsb' 8 8, w.extractLsb' 16 8, w.extractLsb' 24 8]

/-- The two 32-bit words of a 64-bit value, the low half first (R3). -/
def wordsOf64 (w : BitVec 64) : List (BitVec 32) := [w.extractLsb' 0 32, w.extractLsb' 32 32]

/-- The opcode takes a literal word (R98, R137). -/
def hasLiteral (w : BitVec 32) : Bool :=
  w.extractLsb' 25 7 == 0x5E#7 || w.extractLsb' 25 7 == 0x5F#7

/-- Decode the first instruction of a clause's bytes: its meaning's name and the bytes after it. -/
def decodeBytes : List Byte → Except DecodeReject (Instr × List Byte)
  | b0 :: b1 :: b2 :: b3 :: rest =>
    if hasLiteral (word32 b0 b1 b2 b3) then
      match rest with
      | c0 :: c1 :: c2 :: c3 :: rest' =>
        (decodeWord (word32 b0 b1 b2 b3) (word32 c0 c1 c2 c3)).map fun i => (i, rest')
      | _ => .error .truncated
    else (decodeWord (word32 b0 b1 b2 b3) 0).map fun i => (i, rest)
  | _ => .error .truncated

/-- Decode the first word of a matrix stream's bytes. -/
def decodeStreamBytes : List Byte → Except DecodeReject (Instr × List Byte)
  | b0 :: b1 :: b2 :: b3 :: b4 :: b5 :: b6 :: b7 :: rest =>
    (decodeStreamWord (word32 b4 b5 b6 b7 ++ word32 b0 b1 b2 b3)).map fun i => (i, rest)
  | _ => .error .truncated

/-- The answer of a decoder, without the reason of a rejection. -/
def accepted : Except DecodeReject (Instr × List Byte) → Option Instr
  | .ok (i, _) => some i
  | .error _ => none

/-- The instruction whose bits the opcode table writes as `w`: its words in memory order, zeros
above `nbits`. A row of 64 bits is a matrix-stream word; every other row is a clause word. -/
def decodeTableWord (nbits w : Nat) : Option Instr :=
  let v := w % 2 ^ nbits
  if nbits = 64 then
    accepted (decodeStreamBytes (bytes32 (BitVec.ofNat 32 v) ++ bytes32 (BitVec.ofNat 32 (v / 2 ^ 32))))
  else
    accepted (decodeBytes (bytes32 (BitVec.ofNat 32 v) ++ bytes32 (BitVec.ofNat 32 (v / 2 ^ 32))))

/-- The 32-bit words of an instruction, the first at the lowest address; the device's own steps
have none (R36, R47-R55). -/
def encode : Instr → List (BitVec 32)
  | .iadd n d a b => [0x0#7 ++ BitVec.ofBool n ++ d ++ a ++ b]
  | .isub n d a b => [0x1#7 ++ BitVec.ofBool n ++ d ++ a ++ b]
  | .imul n d a b => [0x2#7 ++ BitVec.ofBool n ++ d ++ a ++ b]
  | .imulhs n d a b => [0x3#7 ++ BitVec.ofBool n ++ d ++ a ++ b]
  | .imulhu n d a b => [0x4#7 ++ BitVec.ofBool n ++ d ++ a ++ b]
  | .imad n d a b => [0x5#7 ++ BitVec.ofBool n ++ d ++ a ++ b]
  | .imin n d a b => [0x6#7 ++ BitVec.ofBool n ++ d ++ a ++ b]
  | .imax n d a b => [0x7#7 ++ BitVec.ofBool n ++ d ++ a ++ b]
  | .umin n d a b => [0x8#7 ++ BitVec.ofBool n ++ d ++ a ++ b]
  | .umax n d a b => [0x9#7 ++ BitVec.ofBool n ++ d ++ a ++ b]
  | .and n d a b => [0xA#7 ++ BitVec.ofBool n ++ d ++ a ++ b]
  | .or n d a b => [0xB#7 ++ BitVec.ofBool n ++ d ++ a ++ b]
  | .xor n d a b => [0xC#7 ++ BitVec.ofBool n ++ d ++ a ++ b]
  | .andn n d a b => [0xD#7 ++ BitVec.ofBool n ++ d ++ a ++ b]
  | .shl n d a b => [0xE#7 ++ BitVec.ofBool n ++ d ++ a ++ b]
  | .shr n d a b => [0xF#7 ++ BitVec.ofBool n ++ d ++ a ++ b]
  | .sar n d a b => [0x10#7 ++ BitVec.ofBool n ++ d ++ a ++ b]
  | .rotl n d a b => [0x11#7 ++ BitVec.ofBool n ++ d ++ a ++ b]
  | .iun n d a f => [0x12#7 ++ BitVec.ofBool n ++ d ++ a ++ f]
  | .bfx n d a b => [0x13#7 ++ BitVec.ofBool n ++ d ++ a ++ b]
  | .bfi n d a b => [0x14#7 ++ BitVec.ofBool n ++ d ++ a ++ b]
  | .iaddi n d a i => [0x15#7 ++ BitVec.ofBool n ++ d ++ a ++ i]
  | .shli n d a i => [0x16#7 ++ BitVec.ofBool n ++ d ++ a ++ 0x0#3 ++ i]
  | .shri n d a i => [0x17#7 ++ BitVec.ofBool n ++ d ++ a ++ 0x0#3 ++ i]
  | .sari n d a i => [0x18#7 ++ BitVec.ofBool n ++ d ++ a ++ 0x0#3 ++ i]
  | .andi n d a i => [0x19#7 ++ BitVec.ofBool n ++ d ++ a ++ i]
  | .ori n d a i => [0x1A#7 ++ BitVec.ofBool n ++ d ++ a ++ i]
  | .xori n d a i => [0x1B#7 ++ BitVec.ofBool n ++ d ++ a ++ i]
  | .movi n d i => [0x1C#7 ++ BitVec.ofBool n ++ d ++ i]
  | .movhi d i => [0x3A#8 ++ d ++ i]
  | .mov n d a => [0x1E#7 ++ BitVec.ofBool n ++ d ++ a ++ 0x0#8]
  | .icmp c p w a b => [0x1F#7 ++ c ++ p ++ BitVec.ofBool w ++ a ++ b]
  | .fadd n d a b => [0x20#7 ++ BitVec.ofBool n ++ d ++ a ++ b]
  | .fsub n d a b => [0x21#7 ++ BitVec.ofBool n ++ d ++ a ++ b]
  | .fmul n d a b => [0x22#7 ++ BitVec.ofBool n ++ d ++ a ++ b]
  | .ffma n d a b => [0x23#7 ++ BitVec.ofBool n ++ d ++ a ++ b]
  | .fmin n d a b => [0x24#7 ++ BitVec.ofBool n ++ d ++ a ++ b]
  | .fmax n d a b => [0x25#7 ++ BitVec.ofBool n ++ d ++ a ++ b]
  | .fun n d a f => [0x26#7 ++ BitVec.ofBool n ++ d ++ a ++ f]
  | .fcmp c p w a b => [0x27#7 ++ c ++ p ++ BitVec.ofBool w ++ a ++ b]
  | .sel n d a b => [0x28#7 ++ BitVec.ofBool n ++ d ++ a ++ b]
  | .badd2 n d a b => [0x29#7 ++ BitVec.ofBool n ++ d ++ a ++ b]
  | .bmul2 n d a b => [0x2A#7 ++ BitVec.ofBool n ++ d ++ a ++ b]
  | .bfma2 n d a b => [0x2B#7 ++ BitVec.ofBool n ++ d ++ a ++ b]
  | .hadd2 n d a b => [0x2C#7 ++ BitVec.ofBool n ++ d ++ a ++ b]
  | .hmul2 n d a b => [0x2D#7 ++ BitVec.ofBool n ++ d ++ a ++ b]
  | .hfma2 n d a b => [0x2E#7 ++ BitVec.ofBool n ++ d ++ a ++ b]
  | .dot4i n d a b => [0x2F#7 ++ BitVec.ofBool n ++ d ++ a ++ b]
  | .dot2b n d a b => [0x30#7 ++ BitVec.ofBool n ++ d ++ a ++ b]
  | .dot4f8 n d a b => [0x31#7 ++ BitVec.ofBool n ++ d ++ a ++ b]
  | .ldexp n d a b => [0x32#7 ++ BitVec.ofBool n ++ d ++ a ++ b]
  | .cvt n d a f => [0x36#7 ++ BitVec.ofBool n ++ d ++ a ++ f]
  | .f8pack n d a b => [0x37#7 ++ BitVec.ofBool n ++ d ++ a ++ b]
  | .f8unpk d a b => [0x70#8 ++ d ++ a ++ b]
  | .sfu n d a f => [0x39#7 ++ BitVec.ofBool n ++ d ++ a ++ f]
  | .qamax d a => [0x74#8 ++ d ++ a ++ 0x0#8]
  | .qscale d a m => [0x76#8 ++ d ++ a ++ 0x0#7 ++ BitVec.ofBool m]
  | .rng d a b => [0x78#8 ++ d ++ a ++ b]
  | .shfl n d a b => [0x40#7 ++ BitVec.ofBool n ++ d ++ a ++ b]
  | .perm n d a b => [0x41#7 ++ BitVec.ofBool n ++ d ++ a ++ b]
  | .vote c p w s => [0x42#7 ++ c ++ p ++ BitVec.ofBool w ++ 0x0#4 ++ s ++ 0x0#8]
  | .ballot d p => [0x86#8 ++ d ++ 0x0#4 ++ p ++ 0x0#8]
  | .wred d a f => [0x88#8 ++ d ++ a ++ f]
  | .wscan n d a f => [0x45#7 ++ BitVec.ofBool n ++ d ++ a ++ f]
  | .v2s d a l => [0x8C#8 ++ d ++ a ++ 0x0#3 ++ l]
  | .s2v n d a => [0x47#7 ++ BitVec.ofBool n ++ d ++ a ++ 0x0#8]
  | .sadd d a b => [0x90#8 ++ d ++ a ++ b]
  | .ssub d a b => [0x92#8 ++ d ++ a ++ b]
  | .smul d a b => [0x94#8 ++ d ++ a ++ b]
  | .sand d a b => [0x96#8 ++ d ++ a ++ b]
  | .sor d a b => [0x98#8 ++ d ++ a ++ b]
  | .sxor d a b => [0x9A#8 ++ d ++ a ++ b]
  | .sshl d a b => [0x9C#8 ++ d ++ a ++ b]
  | .sshr d a b => [0x9E#8 ++ d ++ a ++ b]
  | .ssar d a b => [0xA0#8 ++ d ++ a ++ b]
  | .smin d a b => [0xA2#8 ++ d ++ a ++ b]
  | .smax d a b => [0xA4#8 ++ d ++ a ++ b]
  | .saddi d a i => [0xA6#8 ++ d ++ a ++ i]
  | .smovi d i => [0xA8#8 ++ d ++ i]
  | .scmp c p w a b => [0x55#7 ++ c ++ p ++ BitVec.ofBool w ++ a ++ b]
  | .sadd64 d a b => [0xAC#8 ++ d ++ a ++ b]
  | .ssel d a b => [0xAE#8 ++ d ++ a ++ b]
  | .tld t v n => [0x58#7 ++ t ++ 0x0#3 ++ v ++ n ++ 0x0#4]
  | .tst t v n => [0x59#7 ++ t ++ 0x0#3 ++ v ++ n ++ 0x0#4]
  | .tmma d a b t => [0x5A#7 ++ d ++ a ++ b ++ t ++ 0x0#3]
  | .tmmac d a b t => [0x5B#7 ++ d ++ a ++ b ++ t ++ 0x0#3]
  | .tzero t => [0x5C#7 ++ t ++ 0x0#20]
  | .tmov r v t => [0x5D#7 ++ BitVec.ofBool r ++ v ++ t ++ 0x0#11]
  | .movl n d lit => [0x5E#7 ++ BitVec.ofBool n ++ d ++ 0x0#16, lit]
  | .smovl d lit => [0x5F#7 ++ 0x0#1 ++ d ++ 0x0#16, lit]
  | .ldb d v n i z => [0x60#7 ++ d ++ v ++ n ++ i ++ BitVec.ofBool z]
  | .ldh d v n i z => [0x61#7 ++ d ++ v ++ n ++ i ++ BitVec.ofBool z]
  | .ldw d v n i z => [0x62#7 ++ d ++ v ++ n ++ i ++ BitVec.ofBool z]
  | .ldd d v n i z => [0x63#7 ++ d ++ v ++ n ++ i ++ BitVec.ofBool z]
  | .ldq d v n i z => [0x64#7 ++ d ++ v ++ n ++ i ++ BitVec.ofBool z]
  | .stb d v n i z => [0x65#7 ++ d ++ v ++ n ++ i ++ BitVec.ofBool z]
  | .sth d v n i z => [0x66#7 ++ d ++ v ++ n ++ i ++ BitVec.ofBool z]
  | .stw d v n i z => [0x67#7 ++ d ++ v ++ n ++ i ++ BitVec.ofBool z]
  | .std d v n i z => [0x68#7 ++ d ++ v ++ n ++ i ++ BitVec.ofBool z]
  | .stq d v n i z => [0x69#7 ++ d ++ v ++ n ++ i ++ BitVec.ofBool z]
  | .sldw d n i => [0x6A#7 ++ d ++ 0x0#8 ++ n ++ i ++ 0x1#1]
  | .sldd d n i => [0x6B#7 ++ d ++ 0x0#8 ++ n ++ i ++ 0x1#1]
  | .atom f d v n => [0x6C#7 ++ f ++ d ++ v ++ n]
  | .atomn f d v n => [0x6D#7 ++ f ++ d ++ v ++ n]
  | .fence s k m => [0x6E#7 ++ s ++ k ++ m ++ 0x0#16]
  | .drain p => [0x6F#7 ++ p ++ 0x0#20]
  | .copy b k => [0x70#7 ++ b ++ k ++ 0x0#13]
  | .copyg b k i => [0x71#7 ++ b ++ k ++ i ++ 0x0#5]
  | .copys b k i => [0x72#7 ++ b ++ k ++ i ++ 0x0#5]
  | .kstat d k => [0x73#7 ++ d ++ k ++ 0x0#13]
  | .rayq q r n f => [0x74#7 ++ q ++ r ++ n ++ 0x0#1 ++ f]
  | .ald v o w => [0x75#7 ++ v ++ o ++ w ++ 0x0#1]
  | .ast v o w => [0x76#7 ++ v ++ o ++ w ++ 0x0#1]
  | .csend b k => [0x78#7 ++ b ++ k ++ 0x0#13]
  | .coll b k => [0x79#7 ++ b ++ k ++ 0x0#13]
  | .wrecPost p v q => [0x7A0#11 ++ p ++ v ++ q ++ 0x0#1]
  | .wrecTake p v => [0x7A1#11 ++ p ++ v ++ 0x0#9]
  | .wrecReturn => [0xF4400000#32]
  | .bra p g s => [0x7C#7 ++ p ++ BitVec.ofBool g ++ 0x0#2 ++ s]
  | .brc p g s => [0x7C#7 ++ p ++ BitVec.ofBool g ++ 0x1#2 ++ s]
  | .call p g s => [0x7C#7 ++ p ++ BitVec.ofBool g ++ 0x2#2 ++ s]
  | .rcv s => [0x3E03#14 ++ s]
  | .nop => [0xFA000000#32]
  | .ret => [0xFA080000#32]
  | .exit => [0xFA100000#32]
  | .yield => [0xFA180000#32]
  | .trap c => [0xFA20#16 ++ c]
  | .bkpt c => [0xFA28#16 ++ c]
  | .bar b w => [0x1F46#13 ++ b ++ BitVec.ofBool w ++ 0x0#14]
  | .gsync s => [0x1F47#13 ++ s ++ 0x0#11]
  | .mbar b m => [0x1F48#13 ++ b ++ m ++ 0x0#13]
  | .waitv n c k v => [0x1F49#13 ++ n ++ c ++ k ++ v]
  | .step n => [0x1F4A#13 ++ n]
  | .launch n q => [0x1F4B#13 ++ n ++ q ++ 0x0#10]
  | .grow i d => [0x1F4C#13 ++ i ++ d ++ 0x0#3]
  | .chsend c d => [0x1F4D#13 ++ c ++ d ++ 0x0#7]
  | .chrecv c d p => [0x1F4E#13 ++ c ++ d ++ p ++ 0x0#3]
  | .chclose c => [0x1F4F#13 ++ c ++ 0x0#15]
  | .pref n o l => [0x1F50#13 ++ n ++ o ++ l ++ 0x0#4]
  | .cinv n o a => [0x1F51#13 ++ n ++ o ++ BitVec.ofBool a ++ 0x0#5]
  | .rdcpurge n o a => [0x1F52#13 ++ n ++ o ++ BitVec.ofBool a ++ 0x0#5]
  | .csrr s d => [0x1F53#13 ++ s ++ d]
  | .csrw s r => [0x1F54#13 ++ s ++ r]
  | .sleep n => [0x1F55#13 ++ n]
  | .brx n c => [0x1F56#13 ++ n ++ BitVec.ofBool c ++ 0x0#13]
  | .xp a b c d e f => [0x7E#7 ++ a ++ b ++ c ++ d ++ e ++ f ++ 0x0#1]
  | .xc p g c r s n i => [0x7F#7 ++ p ++ BitVec.ofBool g ++ c ++ r ++ BitVec.ofBool s ++ n ++ i]
  | .mend => wordsOf64 (0x0#64)
  | .mmac acc m t x off stride => wordsOf64 (0x1#6 ++ BitVec.ofBool acc ++ m ++ t ++ x ++ off ++ stride ++ 0x0#8)
  | .mmacb acc m t x off stride => wordsOf64 (0x2#6 ++ BitVec.ofBool acc ++ m ++ t ++ x ++ off ++ stride ++ 0x0#8)
  | .mmaci acc m t x off stride => wordsOf64 (0x3#6 ++ BitVec.ofBool acc ++ m ++ t ++ x ++ off ++ stride ++ 0x0#8)
  | .mcmac acc m t x off stride => wordsOf64 (0x4#6 ++ BitVec.ofBool acc ++ m ++ t ++ x ++ off ++ stride ++ 0x0#8)
  | .mmace5 acc m t x off stride => wordsOf64 (0x12#6 ++ BitVec.ofBool acc ++ m ++ t ++ x ++ off ++ stride ++ 0x0#8)
  | .msa w m s x off => wordsOf64 (0x5#6 ++ w ++ m ++ s ++ x ++ off ++ 0x0#19)
  | .msai w m sat => wordsOf64 (0x6#6 ++ w ++ m ++ BitVec.ofBool sat ++ 0x0#43)
  | .mclr win w c => wordsOf64 (0x7#6 ++ BitVec.ofBool win ++ w ++ c ++ 0x0#41)
  | .mout w m fmt x off stride => wordsOf64 (0x8#6 ++ w ++ m ++ fmt ++ x ++ off ++ stride ++ 0x0#6)
  | .streamMbar b mode => wordsOf64 (0x9#6 ++ b ++ mode ++ 0x0#52)
  | .mset x hi imm => wordsOf64 (0xA#6 ++ x ++ BitVec.ofBool hi ++ 0x0#6 ++ imm)
  | .madv d x imm => wordsOf64 (0xB#6 ++ d ++ x ++ 0x0#12 ++ imm)
  | .mloop x off => wordsOf64 (0xC#6 ++ x ++ 0x0#37 ++ off)
  | .atopk w c k len x off => wordsOf64 (0xD#6 ++ w ++ c ++ k ++ len ++ x ++ off ++ 0x0#7)
  | .asmax w c k len => wordsOf64 (0xE#6 ++ w ++ c ++ k ++ len ++ 0x0#36)
  | .asample w c list key ctr d len x off => wordsOf64 (0xF#6 ++ w ++ c ++ BitVec.ofBool list ++ key ++ ctr ++ d ++ len ++ x ++ off ++ 0x0#7)
  | .mstep n => wordsOf64 (0x10#6 ++ n ++ 0x0#26)
  | .mnop => wordsOf64 (0x4400000000000000#64)
  | .clauseSelect _ _ _ => []
  | .deferredMove _ _ => []
  | .instructionFetchComplete _ _ _ => []
  | .wavePromote _ _ => []
  | .resultWriteback _ _ => []
  | .storeLeaveCore _ _ => []
  | .loadComplete _ _ => []
  | .atomReturn _ _ => []
  | .abortCompletion _ => []
  | .strikeRollback _ => []
  | .strikeUncore _ => []
  | .residueReissue _ _ _ _ => []
  | .columnRemap _ _ _ => []
  | .deadlockDetect _ => []
  | .sleepExpire _ _ => []
  | .setPhaseComplete _ _ => []
  | .waitvReread _ _ => []
  | .fenceComplete _ _ => []
  | .drainComplete _ _ => []
  | .copySector _ => []
  | .streamOwnerChange _ => []
  | .streamFault _ => []
  | .rayqComplete _ _ => []
  | .launchPacket _ _ => []
  | .resume _ _ => []
  | .qownWrite _ _ => []
  | .registerWrite _ _ => []
  | .launchStart _ => []
  | .memoryWaitReread _ => []
  | .dispatchBlock => []
  | .blockStart _ => []
  | .stealRequest _ => []
  | .blockEnd _ => []
  | .launchComplete _ => []
  | .pocketFrameGrant _ => []
  | .requestEntryWrite _ => []
  | .blockHalt _ => []
  | .haltSave _ => []
  | .trapRecordWrite _ => []
  | .deadlineExpire _ _ => []
  | .cutReport _ => []
  | .cutComplete _ => []
  | .hostWrite _ _ => []
  | .linkTraining _ _ _ => []
  | .nullFlit _ _ => []
  | .readFlit _ _ => []
  | .writeFlit _ _ => []
  | .atomFlit _ _ => []
  | .recFlit _ _ => []
  | .collFlit _ _ => []
  | .rdataFlit _ _ => []
  | .wackFlit _ _ => []
  | .arspFlit _ _ => []
  | .abortFlit _ _ => []
  | .totalsFlit _ _ => []
  | .lendFlit _ _ => []
  | .linkNak _ _ => []
  | .flitForward _ _ => []
  | .lendingRound _ => []
  | .lendResend _ => []
  | .totalsSend _ _ => []
  | .requestTimeout _ _ => []
  | .tagQuarantineEnd _ _ => []
  | .staleDrop _ => []
  | .targetTick => []
  | .collAccept _ _ => []
  | .chunkStep => []
  | .priorityAgeing _ => []
  | .chunkLost _ => []
  | .uetMessage _ _ => []
  | .commFree _ => []
  | .hbmReadTransfer _ _ => []
  | .hbmWriteTransfer _ _ => []
  | .throttleStep _ _ => []
  | .firmwareActivate _ => []
  | .reset => []
  | .mchkEntryFree _ _ => []
  | .logEntryFree _ _ _ => []
  | .mread _ _ _ => []
  | .mwrite _ _ _ => []
  | .ctxwrite _ _ _ => []
  | .preempt _ _ => []
  | .preemptCut _ _ _ _ => []
  | .unpreempt _ _ => []
  | .resetctx _ _ => []
  | .invalidate _ _ _ _ => []
  | .commcreate _ _ _ => []
  | .commretire _ _ => []
  | .recarea _ _ _ _ => []
  | .uetpeer _ _ _ => []
  | .keyset _ _ _ _ => []
  | .keyempty _ _ _ => []
  | .mint _ _ _ _ _ _ _ _ => []
  | .window _ _ _ => []
  | .fenceCommand _ _ _ => []
  | .unfence _ _ _ => []
  | .route _ _ _ => []
  | .fwupdate _ _ _ => []
  | .attest _ _ => []
  | .clock _ _ _ => []
  | .freeze _ => []
  | .repairclr _ _ => []
  | .undefinedOpcode _ => []
  | .crcFailure _ _ => []
  | .linkDown _ _ => []
  | .unlistedCommandCode _ _ => []
  | .uetRetransmission _ => []
  | .uetAcknowledgement _ => []

/-- The bytes of an instruction in memory order (R3). -/
def encodeBytes (i : Instr) : List Byte := (encode i).flatMap bytes32

end Sys2Proof
end

