-- ==== Sys2Proof/Machine/Matrix.lean ====
section
/-! DEFINITION. The matrix stream (11, R252-R273): one meaning for each stream word, its faults, and who
owns the array. -/

namespace Sys2Proof.Machine

open Sys2Proof

/-- Waves of a block hold its stream with a FENCE that names MTX (R224). -/
def Block.mtxHeld (b : Block) : Bool := b.waves.any fun w => match w.run with
  | .fence h => h.mask.getLsbD 2 && h.inval.isNone
  | _ => false

/-- A block's stream could begin its next word, if it owned the array (R255, R257). -/
def Block.streamReady (b : Block) : Bool :=
  b.halt.isNone && match b.stream with
    | some t => t.run == .running
    | none => false

/-- The streams whose next word can issue: their block owns its core's array, no FENCE holds them, and
the word is in the instruction cache. -/
def State.streams (s : State) : List Block :=
  s.blocks.filter fun b => b.streamReady && !b.mtxHeld && (s.core b.core).owner == some b.uid &&
    (match b.stream with
      | some t => s.icHas b.core b.ctx (t.pc.toNat / 128)
      | none => false)

/-- The stream that issues next, the arrays of the cores taking turns. -/
def State.streamCur? (s : State) : Option (Block × Stream) :=
  let l := s.streams
  match l[s.now / 2 % max 1 l.length]? with
  | none => none
  | some b => b.stream.map fun t => (b, t)

/-- A stream fault, or a fault of a stream's fetch: the block halts, nothing of the word takes effect
(R254, R257). -/
def streamTrap (s : State) (b : Block) (t : Stream) (info : TrapInfo) : State :=
  (s.updBlock b.uid fun b => b.takeTrap s.now 0xFE (position t.pc 0) info).tick

/-- A stream word: its checks and effect on the block in one; none is a stream fault (R256, R257). -/
def runStream (s : State) (op : Nat) (f : Block → Stream → Option Block) : Out :=
  match s.streamCur? with
  | none => .fault .noRunningStream
  | some (b, t) =>
    match f b t with
    | none => .next (streamTrap s b t { cause := 10, opcode := op })
    | some b1 =>
      let s1 := (s.updBlock b.uid fun _ => b1).updCore b.core fun k => { k with lastStream := some b }
      .next (s1.checkpoint b.core b.uid 0xFE false false).tick

/-- The block with its stream at the next word. -/
def Block.nextWord (b : Block) (t : Stream) : Block := { b with stream := some { t with pc := t.pc + 8 } }

/-- A block-memory address of a stream word: X[n] + offset (R55). -/
def Stream.addr (t : Stream) (x : BitVec 3) (off : Nat) : Nat := (t.x.getD x.toNat 0 + BitVec.ofNat 64 off).toNat

/-- A range lies in the block's memory and on its alignment (R257). -/
def Block.rangeOk (b : Block) (a n al : Nat) : Bool := a % al == 0 && decide (a + n ≤ b.decl.bmem)

/-- Element k of a row of A at byte `a`, as `size` bytes (R258). -/
def rowNat (b : Block) (a size k : Nat) : Nat := leNat (b.bmemRun (a + size * k) size)

/-- Bytes of a B-store tile that lie in one column's slice (R253): the spare column reads the spare slice only
(R273). -/
def tileNat (b : Block) (t o size : Nat) : Nat :=
  let own := getRun 0 b.tiles (8192 * t + o) size
  leNat (match b.spare with
    | some (n, m) => if o / 128 = n then getRun 0 m (128 * t + o % 128) size else own
    | none => own)

/-- The kinds of the MMAC family. -/
inductive MacKind where
  | e4m3
  | e5m2
  | int8
  | bf16
  | cplx
  deriving DecidableEq, Repr

/-- Tiles a word of the family names, and the multiple its first tile must be of. -/
def MacKind.tiles : MacKind → Nat
  | .bf16 => 2
  | .cplx => 4
  | _ => 1

/-- Format of the floating kinds. -/
def MacKind.fmt : MacKind → Fmt
  | .e4m3 => fmtE4M3
  | .e5m2 => fmtE5M2
  | _ => fmtBF16

/-- The products of one output element (R258): row at byte `a`, tile `t`, column `n`. -/
def macTerms (b : Block) (kind : MacKind) (a t n : Nat) : List Num :=
  let f := kind.fmt
  match kind with
  | .bf16 => (List.range 128).map fun k =>
      (unpack f (rowNat b a 2 k)).mul (unpack f (tileNat b (t + k / 64) (128 * n + 2 * (k % 64)) 2))
  | .cplx => (List.range 128).flatMap fun k =>
      let ar := unpack f (leNat (b.bmemRun (a + 4 * k) 2))
      let ai := unpack f (leNat (b.bmemRun (a + 4 * k + 2) 2))
      let br := unpack f (tileNat b (t + k / 32) (128 * n + 4 * (k % 32)) 2)
      let bi := unpack f (tileNat b (t + k / 32) (128 * n + 4 * (k % 32) + 2) 2)
      if n % 2 = 0 then [ar.mul br, (ai.mul bi).negate] else [ar.mul bi, ai.mul br]
  | _ => (List.range 128).map fun k =>
      (unpack f (rowNat b a 1 k)).mul (unpack f (tileNat b t (128 * n + k) 1))

/-- The sum of the INT8 products of one output element (R76, R258). -/
def macInt (b : Block) (a t n : Nat) : Int :=
  (List.range 128).foldl (fun x k => x + (BitVec.ofNat 8 (rowNat b a 1 k)).toInt *
    (BitVec.ofNat 8 (tileNat b t (128 * n + k) 1)).toInt) 0

/-- One new entry of the partial buffer (R258, R74-R76). -/
def macElem (b : Block) (kind : MacKind) (acc : Bool) (a t n : Nat) (old : Word) : Word :=
  match kind with
  | .int8 => BitVec.ofInt 32 (macInt b a t n + if acc then old.toInt else 0)
  | _ => (sum32 .rn (macTerms b kind a t n ++ if acc then [f32 old] else [])).1

/-- Entries `f m n` of rows 0 to M-1 written into a 64-column buffer at base `k`. -/
def setRows (buf : Words) (k rows : Nat) (f : Nat → Nat → Word) : Words :=
  (List.range rows).foldl (fun u m => setRun 0 u (k + 64 * m) ((List.range 64).map (f m))) buf

/-- The MMAC family (R258). -/
def runMac (s : State) (op : Nat) (kind : MacKind) (acc : Bool) (m : BitVec 6) (t : BitVec 7) (x : BitVec 3)
    (off : BitVec 20) (stride : BitVec 13) : Out :=
  runStream s op fun b st =>
    let rows := m.toNat + 1
    let nt := kind.tiles
    let row (i : Nat) : Nat := st.addr x (off.toNat + i * stride.toNat)
    if t.toNat % nt != 0 || t.toNat + nt > b.decl.btiles || stride.toNat % 16 != 0 ||
        (List.range rows).any fun i => !b.rangeOk (row i) (128 * nt) 16 then none
    else
      let p := setRows st.partials 0 rows fun i n =>
        macElem b kind acc (row i) t.toNat n (getAt 0 st.partials (64 * i + n))
      some (b.nextWord { st with partials := p })

/-- MMAC. -/
def execMmac (acc : Bool) (m : BitVec 6) (t : BitVec 7) (x : BitVec 3) (off : BitVec 20) (stride : BitVec 13)
    (s : State) : Out := runMac s 0x01 .e4m3 acc m t x off stride
/-- MMACB. -/
def execMmacb (acc : Bool) (m : BitVec 6) (t : BitVec 7) (x : BitVec 3) (off : BitVec 20) (stride : BitVec 13)
    (s : State) : Out := runMac s 0x02 .bf16 acc m t x off stride
/-- MMACI. -/
def execMmaci (acc : Bool) (m : BitVec 6) (t : BitVec 7) (x : BitVec 3) (off : BitVec 20) (stride : BitVec 13)
    (s : State) : Out := runMac s 0x03 .int8 acc m t x off stride
/-- MCMAC. -/
def execMcmac (acc : Bool) (m : BitVec 6) (t : BitVec 7) (x : BitVec 3) (off : BitVec 20) (stride : BitVec 13)
    (s : State) : Out := runMac s 0x04 .cplx acc m t x off stride
/-- MMACE5. -/
def execMmace5 (acc : Bool) (m : BitVec 6) (t : BitVec 7) (x : BitVec 3) (off : BitVec 20) (stride : BitVec 13)
    (s : State) : Out := runMac s 0x12 .e5m2 acc m t x off stride

/-- rn32 of a product of FP32 values. -/
def mul32 (a b : Word) : Word := (sum32 .rn [(f32 a).mul (f32 b)]).1

/-- rn32 of a sum of two FP32 values. -/
def add32 (a b : Word) : Word := (sum32 .rn [f32 a, f32 b]).1

/-- MSA (R259). -/
def execMsa (w : BitVec 8) (m : BitVec 6) (sx x : BitVec 3) (off : BitVec 19) (s : State) : Out :=
  runStream s 0x05 fun b st =>
    let rows := m.toNat + 1
    let a := st.addr x off.toNat
    if w.toNat ≥ b.decl.awin || !b.rangeOk a (4 * rows) 4 then none
    else
      let sb := (st.x.getD sx.toNat 0).extractLsb' 0 32
      let base := 4096 * w.toNat
      let win := setRows b.win base rows fun i n =>
        let sm := mul32 (BitVec.ofNat 32 (leNat (b.bmemRun (a + 4 * i) 4))) sb
        add32 (getAt 0 b.win (base + 64 * i + n)) (mul32 (getAt 0 st.partials (64 * i + n)) sm)
      some ({ b with win := win }.nextWord st)

/-- x + p in wrap or saturating mode, and whether it was clamped (R260). -/
def msaiElem (sat : Bool) (x p : Word) : Word × Bool :=
  if !sat then (x + p, false)
  else
    let r := x.toInt + p.toInt
    if r > 2147483647 then (0x7FFFFFFF#32, true)
    else if r < -2147483648 then (0x80000000#32, true)
    else (BitVec.ofInt 32 r, false)

/-- MSAI (R260). -/
def execMsai (w : BitVec 8) (m : BitVec 6) (sat : Bool) (s : State) : Out :=
  runStream s 0x06 fun b st =>
    let rows := m.toNat + 1
    if w.toNat ≥ b.decl.awin then none
    else
      let base := 4096 * w.toNat
      let e (i n : Nat) : Word × Bool :=
        msaiElem sat (getAt 0 b.win (base + 64 * i + n)) (getAt 0 st.partials (64 * i + n))
      let clamped := (List.range rows).foldl (fun k i =>
        k + ((List.range 64).filter fun n => (e i n).2).length) 0
      let cnt := (getAt 0 b.satCount w.toNat).toNat + clamped
      some ({ b with win := setRows b.win base rows fun i n => (e i n).1,
                     satCount := setAt 0 b.satCount w.toNat (BitVec.ofNat 32 (min 0xFFFFFFFF cnt)) }.nextWord st)

/-- MCLR (R261). -/
def execMclr (win : Bool) (w c : BitVec 8) (s : State) : Out :=
  runStream s 0x07 fun b st =>
    if !win then (if w != 0 || c != 0 then none else some (b.nextWord { st with partials := [] }))
    else
      let lo := w.toNat
      let hi := w.toNat + c.toNat + 1
      if hi > b.decl.awin then none
      else some ({ b with
        win := b.win.filter fun e => !(decide (4096 * lo ≤ e.1) && decide (e.1 < 4096 * hi)),
        satCount := b.satCount.filter fun e => !(decide (lo ≤ e.1) && decide (e.1 < hi)) }.nextWord st)

/-- Format of MOUT's codes 1 to 4 (R262). -/
def moutFmt (k : Nat) : Fmt := match k with
  | 1 => fmtBF16
  | 2 => fmtFP16
  | 3 => fmtE4M3
  | _ => fmtE5M2

/-- Bytes of one element under a MOUT format (R262). -/
def moutBytes (k : Nat) (x : Word) : List Byte :=
  if k = 0 then leBytes 4 (if (f32 x).isNaN then nan32 else x).toNat
  else leBytes (if k ≤ 2 then 2 else 1) (convertTo (moutFmt k) .rn (f32 x)).1

/-- MOUT (R262). -/
def execMout (w : BitVec 8) (m : BitVec 6) (fmt x : BitVec 3) (off : BitVec 19) (stride : BitVec 13) (s : State) : Out :=
  runStream s 0x08 fun b st =>
    let rows := m.toNat + 1
    let k := fmt.toNat
    let size := 64 * (if k = 0 then 4 else if k ≤ 2 then 2 else 1)
    let row (i : Nat) : Nat := st.addr x (off.toNat + i * stride.toNat)
    if w.toNat ≥ b.decl.awin || k > 4 || stride.toNat % 16 != 0 ||
        (List.range rows).any fun i => !b.rangeOk (row i) size 16 then none
    else
      let b1 := (List.range rows).foldl (fun c i => c.bmemWrite (row i)
        ((List.range 64).flatMap fun n => moutBytes k (getAt 0 b.win (4096 * w.toNat + 64 * i + n)))) b
      some (b1.nextWord st)

/-- STREAM_MBAR (R196, R263). -/
def execStreamMbar (b : BitVec 4) (mode : BitVec 2) (s : State) : Out :=
  runStream s 0x09 fun blk st =>
    let n := b.toNat
    if mode == 3 then none
    else if mode == 0 then
      some ({ blk with stream := some { st with run := .mbar n (blk.mbar n).phase } }.settle s.now)
    else some ((blk.streamArrive n (mode == 2) s.now).settle s.now)

/-- Register n of the X registers replaced. -/
def Stream.setX (t : Stream) (n : BitVec 3) (v : Addr) : Stream := 
  { t with x := (List.range 8).map fun k => if k = n.toNat then v else t.x.getD k 0 }

/-- MSET (R264). -/
def execMset (x : BitVec 3) (hi : Bool) (imm : BitVec 48) (s : State) : Out :=
  runStream s 0x0A fun b st =>
    if hi && imm.extractLsb' 16 32 != 0 then none
    else
      let v : Addr := if hi then imm.extractLsb' 0 16 ++ (st.x.getD x.toNat 0).extractLsb' 0 48 else imm.signExtend 64
      some (b.nextWord (st.setX x v))

/-- MADV (R264). -/
def execMadv (d x : BitVec 3) (imm : BitVec 40) (s : State) : Out :=
  runStream s 0x0B fun b st => some (b.nextWord (st.setX d (st.x.getD x.toNat 0 + imm.signExtend 64)))

/-- MLOOP (R264). -/
def execMloop (x : BitVec 3) (off : BitVec 18) (s : State) : Out :=
  runStream s 0x0C fun b st =>
    let c := st.x.getD x.toNat 0
    if c.toNat ≤ 1 then some (b.nextWord (st.setX x 0))
    else some { b with stream := some { st.setX x (c - 1) with pc := st.pc + (off.signExtend 64 <<< 3) } }

/-- Length of a vocabulary vector (R269); none when it or its windows are out of range. -/
def vocabLen (b : Block) (st : Stream) (w c : BitVec 8) (len : BitVec 3) : Option Nat :=
  let count := c.toNat + 1
  let n := ((st.x.getD len.toNat 0).extractLsb' 0 32).toNat
  if w.toNat + count > b.decl.awin || n > 4096 * count then none
  else some (if n = 0 then 4096 * count else n)

/-- The elements of a vocabulary vector (R269). -/
def vocab (b : Block) (w n : Nat) : List Word := getRun 0 b.win (4096 * w) n

/-- Does entry (value, index) a rank above b (R270)? -/
def topkAbove (a b : Word × Nat) : Bool :=
  match (f32 a.1).isNaN, (f32 b.1).isNaN with
  | true, true => decide (a.2 < b.2)
  | true, false => false
  | false, true => true
  | false, false => decide (orderKey a.1 > orderKey b.1) || (orderKey a.1 == orderKey b.1 && decide (a.2 < b.2))

/-- An entry put in its place in a list of at most k. -/
def topkInsert (k : Nat) (e : Word × Nat) : List (Word × Nat) → List (Word × Nat)
  | [] => if k = 0 then [] else [e]
  | x :: t => if topkAbove e x then (e :: x :: t).take k else x :: topkInsert (k - 1) e t

/-- ATOPK (R270). -/
def execAtopk (w c : BitVec 8) (k : BitVec 10) (len x : BitVec 3) (off : BitVec 19) (s : State) : Out :=
  runStream s 0x0D fun b st =>
    let kk := k.toNat + 1
    let a := st.addr x off.toNat
    match vocabLen b st w c len with
    | none => none
    | some n =>
      if !b.rangeOk a (8 * kk) 8 then none
      else
        let es := ((vocab b w.toNat n).zipIdx).foldl (fun l e => topkInsert kk e l) []
        let bytes := (List.range kk).flatMap fun j =>
          match es[j]? with
          | some e => leBytes 4 e.1.toNat ++ leBytes 4 e.2
          | none => leBytes 4 0x7FC00000 ++ leBytes 4 0xFFFFFFFF
        some ((b.bmemWrite a bytes).nextWord st)

/-- Runs of 64 reduced by the tree of R77, then added in turn (R79). -/
def asmaxSum (ys : List Word) : Word :=
  let runs := (List.range ((ys.length + 63) / 64)).map fun j =>
    ((combTree 8 6 ((List.range 64).map fun i => ys[64 * j + i]?)).1).getD 0
  match runs with
  | [] => 0
  | r :: t => t.foldl add32 r

/-- The softmax of a vector (R271). -/
def asmaxVec (zs : List Word) (c : Word) : List Word :=
  let mx := zs.foldl (fun m z => if orderKey z > orderKey m then z else m) (zs.headD 0)
  let infinite := match f32 mx with
    | .inf _ => true
    | _ => false
  if zs.any (fun z => (f32 z).isNaN) || infinite then zs.map fun _ => nan32
  else
    let ys := zs.map fun z => (sfuWord 3 (sum32 .rn [((exactSum .rn [f32 z, (f32 mx).negate]).1).mul (f32 c)]).1).1
    let r := (sfuWord 0 (asmaxSum ys)).1
    ys.map fun y => mul32 y r

/-- ASMAX (R271). -/
def execAsmax (w c : BitVec 8) (k len : BitVec 3) (s : State) : Out :=
  runStream s 0x0E fun b st =>
    let cv : Word := (st.x.getD k.toNat 0).extractLsb' 0 32
    let ok := match f32 cv with
      | .fin n m _ => !n && decide (m ≠ 0)
      | _ => false
    match vocabLen b st w c len with
    | none => none
    | some n =>
      if !ok then none
      else some ({ b with win := setRun 0 b.win (4096 * w.toNat) (asmaxVec (vocab b w.toNat n) cv) }.nextWord st)

/-- The integer weight of a value (R272). -/
def sampleWeight (w : Word) : Nat :=
  match f32 w with
  | .inf false => 2 ^ 40
  | .fin false m e =>
    let sc : Int := e + 40
    min (2 ^ 40) (if sc ≥ 0 then m <<< sc.toNat else m >>> (-sc).toNat)
  | _ => 0

/-- The lowest position with U × T < 2^24 × C (R272), given the prefix so far. -/
def samplePos (ut : Nat) : Nat → Nat → List Nat → Nat
  | i, _, [] => i
  | i, acc, q :: t => if ut < 2 ^ 24 * (acc + q) then i else samplePos ut (i + 1) (acc + q) t

/-- ASAMPLE (R272, R83). -/
def execAsample (w c : BitVec 8) (list : Bool) (key ctr d len x : BitVec 3) (off : BitVec 19) (s : State) : Out :=
  runStream s 0x0F fun b st =>
    let kx := st.x.getD key.toNat 0
    let cx := st.x.getD ctr.toNat 0
    let cnt := ((st.x.getD len.toNat 0).extractLsb' 0 32).toNat
    let a := st.addr x off.toNat
    let entry (j o : Nat) : Word := BitVec.ofNat 32 (leNat (b.bmemRun (a + 8 * j + o) 4))
    let ws : Option (List Word) :=
      if list then
        if w != 0 || c != 0 || cnt = 0 || decide (cnt > 1024) || !b.rangeOk a (8 * cnt) 8 then none
        else some ((List.range cnt).map fun j => entry j 0)
      else if x != 0 || off != 0 then none
      else (vocabLen b st w c len).map fun n => vocab b w.toNat n
    ws.map fun l =>
      let qs := l.map sampleWeight
      let total := qs.foldl (· + ·) 0
      let u := ((rngWords (kx.extractLsb' 0 32) (kx.extractLsb' 32 32) (cx.extractLsb' 0 32)
        (BitVec.ofNat 32 (32 * b.index)) (cx.extractLsb' 32 32)).headD 0).toNat / 256
      let i := samplePos (u * total) 0 0 qs
      let v : Addr := if total = 0 then 0xFFFFFFFFFFFFFFFF#64
        else if list then BitVec.ofNat 32 i ++ entry i 4 else BitVec.ofNat 64 i
      b.nextWord (st.setX d v)

/-- MSTEP (R265, R345): records the step; while its launch is cut the stream is held. -/
def execMstep (n : BitVec 32) (s : State) : Out :=
  runStream s 0x10 fun b st =>
    if n.toNat < st.step then none
    else
      let cutting := match s.launch? b.launch with
        | some l => l.cut.isSome
        | none => false
      some (b.nextWord { st with step := n.toNat, run := if cutting then .held s.now else st.run })

/-- MNOP (R265). -/
def execMnop (s : State) : Out := runStream s 0x11 fun b st => some (b.nextWord st)

/-- MEND (R265): the stream ends, and its side of every matrix barrier counts as arrived. -/
def execMend (s : State) : Out :=
  match s.streamCur? with
  | none => .fault .noRunningStream
  | some (b, t) =>
    let s1 := (s.updBlock b.uid fun b => { b with stream := some { t with run := .ended, pc := t.pc + 8 } }).settle b.uid
    .next (s1.updCore b.core fun c => { c with owner := none }).tick

/-- Can a block's stream still use the array: it has one that has not ended, waits at no MBAR, is not
held and not halted (R255). -/
def Block.wantsArray (b : Block) : Bool := b.streamReady

/-- The stream that the array would go to: a ready one that is not the owner, non-filler first, then the
one that has waited longer (R255). -/
def State.nextOwner (s : State) (core : Nat) : Option Block :=
  let owner := (s.core core).owner
  let all := s.blocks.filter fun b => b.core == core && b.streamReady && owner != some b.uid
  let pool := if all.any fun b => !b.decl.filler then all.filter fun b => !b.decl.filler else all
  let since (b : Block) : Nat := match b.stream with
    | some t => t.readySince
    | none => 0
  pool.foldl (fun best b => match best with
    | none => some b
    | some x => if since b < since x then some b else some x) none

/-- The owner's stream waits at an MBAR or has executed MEND (R255). One that a halt has stopped, or that a cut
holds at MSTEP, keeps the array. -/
def Block.leavesArray (b : Block) : Bool := match b.stream with
  | some t => (match t.run with
    | .mbar .. | .mbarAgain .. | .ended => true
    | _ => false)
  | none => true

/-- The owner gives the array up to `b` (R255; log 31). -/
def State.ownerYields (s : State) (core : Nat) (b : Block) : Bool :=
  match (s.core core).owner with
  | none => true
  | some u =>
    match s.block? u with
    | none => true
    | some o => o.leavesArray || (o.decl.filler && !b.decl.filler)

/-- STREAM_OWNER_CHANGE (R255). -/
def execStreamOwnerChange (core : Nat) (s : State) : Out :=
  if (s.core core).fencedArray then .next s
  else
    match s.nextOwner core with
    | none => .next s
    | some b =>
      if s.ownerYields core b then
        .next ((s.updCore core fun c => { c with owner := some b.uid }).updBlock b.uid fun x =>
          { x with stream := x.stream.map fun t => { t with readySince := s.now } })
      else .next s

/-- STREAM_FAULT (R54, R257): the word at the stream's PC fails a check, and the block halts. -/
def execStreamFault (b : Nat) (s : State) : Out :=
  match s.block? b with
  | none => .next s
  | some blk =>
    match blk.stream with
    | none => .next s
    | some t => .next (streamTrap s blk t { cause := 10, opcode := s.streamOpcode blk t })

end Sys2Proof.Machine
end

