-- ==== Sys2Proof/Machine/Preempt.lean ====
section
/-! DEFINITION. Management commands one at a time (R463), pre-emption, restart and forced reset (R338-R343),
and the consistent cut (R345, R346). -/

namespace Sys2Proof.Machine

open Sys2Proof

/-- STATUS of a response (R463). -/
inductive Status where
  | done
  | refused
  | badArg
  | badSig
  deriving DecidableEq, Repr

/-- The code of a STATUS. -/
def Status.code : Status → Word
  | .done => 0
  | .refused => 1
  | .badArg => 2
  | .badSig => 3

/-- The controller responds: word 0 of the request, STATUS, the results (R463). -/
def State.respond (s : State) (code tag : Nat) (st : Status) (ws : List Word) : State :=
  { s with mgmt := { s.mgmt with
    responses := s.mgmt.responses ++ [(BitVec.ofNat 8 code ++ (0 : BitVec 8) ++ BitVec.ofNat 16 tag) :: st.code :: ws] } }

/-- The command under way has gone on, and these wait after it. -/
def State.retryOver (s : State) (l : List (List Nat)) : State := { s with mgmt := { s.mgmt with waiting := l, retrying := false } }

/-- Commands execute one at a time, in arrival order (R463): one that comes while another is under way
waits, be its words the same, and one whose effect is not complete (`go` answers none) stays first. -/
def runCommand (s : State) (i : List Nat) (go : State → Option State) : Out :=
  let queued (l : List (List Nat)) : State := { s with mgmt := { s.mgmt with waiting := l } }
  match s.mgmt.waiting with
  | [] => match go s with
    | some s1 => .next s1
    | none => .next (queued [i])
  | h :: t =>
    if s.mgmt.retrying then
      let s0 := s.retryOver t
      match go s0 with
      | some s1 => .next s1
      | none => .next (s.retryOver (h :: t))
    else .next (queued (h :: t ++ [i]))

/-- A command that starts at once and ends later: `go` answers the state and whether the command is done. -/
def runLong (s : State) (i : List Nat) (go : State → State × Bool) : Out :=
  let queued (s : State) (l : List (List Nat)) : State := { s with mgmt := { s.mgmt with waiting := l } }
  match s.mgmt.waiting with
  | [] => let r := go s
    .next (if r.2 then r.1 else queued r.1 [i])
  | h :: t =>
    if s.mgmt.retrying then
      let r := go (s.retryOver t)
      .next (if r.2 then r.1 else queued r.1 (h :: r.1.mgmt.waiting))
    else .next (queued s (h :: t ++ [i]))

/-- The trap record of a block that has not been written is not to be (R341, R343). -/
def State.dropTrap (s : State) (ctx u : Nat) : State :=
  s.updCtx ctx fun x => { x with trapWait := x.trapWait.filter fun e => e.1 != some u }

/-- A block is restarted (R341): it leaves no trace, and its index goes back to its launch. -/
def State.restartBlock (s : State) (b : Block) : State :=
  let top := ((s.launch? b.launch).map fun l => l.maxStep).getD 0
  ((s.removeBlock b.uid).dropTrap b.ctx b.uid).updLaunch b.launch fun l =>
    { l with returned := l.returned ++ [b.index], maxStep := top }

/-- A block that restarts rather than drains (R341). -/
def Block.restarts (b : Block) : Bool := b.decl.cls != 0 && b.decl.idem && !b.sideEffect

/-- Blocks of a context that have not started leave the queue engines, and their indices go back to their launches
(R345, R348). -/
def State.returnPending (s : State) (cx : Nat) : State :=
  let all := s.cores.flatMap fun k => k.pending
  let mine (u : Nat) : Bool := s.launches.any fun l => l.uid == u && l.ctx == cx
  { s with
    launches := s.launches.map fun l => if l.ctx == cx then
      { l with returned := l.returned ++ (all.filter fun e => e.1 == l.uid).map fun e => e.2 } else l
    cores := s.cores.map fun k => { k with pending := k.pending.filter fun e => !mine e.1 } }

/-- DRAINING or CUTTING begins (R338, R339, R341): timers start, pending blocks go back to their launches, and blocks
restart, but for those of the cut's launch. -/
def State.beginDrain (s : State) (cx : Nat) (phase : Phase) (cut : Option Nat) : State :=
  let mine := s.blocks.filter fun b => b.ctx == cx
  let cores := (mine.map fun b => b.core).eraseDups
  let s1 := s.updCtx cx fun x =>
    { x with phase := phase, timers := cores.map fun c => (c, s.coreCycles c + 2 ^ x.deadline), cutLaunch := cut }
  ((mine.filter fun b => b.restarts && some b.launch != cut).foldl (fun s b => s.restartBlock b) (s1.returnPending cx)).settlePhase cx

/-- PREEMPT (R338). -/
def execPreempt (tag cx : Nat) (s : State) : Out :=
  runCommand s [0x11, tag, cx] fun s =>
    if cx ≥ 64 then some (s.respond 0x11 tag .badArg [])
    else match s.ctx? cx with
      | some x => if x.phase = .active then some ((s.beginDrain cx .draining none).respond 0x11 tag .done [])
          else some (s.respond 0x11 tag .refused [])
      | none => some (s.respond 0x11 tag .refused [])

/-- The cut area holds a launch (R346). -/
def cutFits (x : Ctx) (l : Launch) : Bool :=
  x.cutArea != 0 && decide (256 + l.live * cutStride (pktDecl l.packet) ≤ x.cutSize.toNat)

/-- A cut ends the sleep of a wave (R188; log 40). -/
def Wave.wake (w : Wave) : Wave := match w.run with
  | .sleeping _ => { w with run := .running }
  | _ => w

/-- PREEMPT_CUT (R188, R338, R345): names one started launch. -/
def execPreemptCut (tag cx q : Nat) (sq : BitVec 32) (s : State) : Out :=
  runCommand s [0x12, tag, cx, q, sq.toNat] fun s =>
    if cx ≥ 64 || q ≥ 16 then some (s.respond 0x12 tag .badArg [])
    else
      match s.ctx? cx, (s.queued q).find? fun l => l.seq == sq && l.ctx == cx && l.started with
      | some x, some l =>
        if x.phase = .active && cutFits x l then
          let s1 := s.updLaunch l.uid fun l => { l with cut := some 0 }
          let s2 : State := { s1 with blocks := s1.blocks.map fun b =>
            if b.launch == l.uid then { b with waves := b.waves.map Wave.wake } else b }
          some ((s2.beginDrain cx .cutting (some l.uid)).respond 0x12 tag .done [])
        else some (s.respond 0x12 tag .refused [])
      | _, _ => some (s.respond 0x12 tag .refused [])

/-- UNPREEMPT (R338). -/
def execUnpreempt (tag cx : Nat) (s : State) : Out :=
  runCommand s [0x13, tag, cx] fun s =>
    if cx ≥ 64 then some (s.respond 0x13 tag .badArg [])
    else match s.ctx? cx with
      | some x => if x.phase = .preempted then
            some ((s.updCtx cx fun x => { x with phase := .active }).respond 0x13 tag .done [])
          else some (s.respond 0x13 tag .refused [])
      | none => some (s.respond 0x13 tag .refused [])

/-- The work records of a context are dropped and counted (R417). -/
def State.dropRecords (s : State) (cx : Nat) : State :=
  match s.ctx? cx with
  | none => s
  | some x =>
    (s.updCtx cx fun x => { x with recQueue := [], taken := [] }).mantleCount 6 x.recQueue.length

/-- Atomics that have left their core are performed, though their wave is gone (R342). -/
def State.finishAtoms (s : State) (b : Block) : State :=
  (b.waves.flatMap fun w => w.atoms).foldl (fun s e => match e with
    | .atom _ fn _ lanes _ _ _ => (atomLanes b fn.toNat lanes s).2.2
    | _ => s) s

/-- A forced reset (R342, R412, R417), from RESETTING to PREEMPTED: blocks stop and go, every incomplete
launch completes with RESET, Mantle operations end, records are dropped. -/
def State.forcedReset (s : State) (cx : Nat) : State :=
  let mine := s.blocks.filter fun b => b.ctx == cx
  let s0 := s.resetMantle cx
  let earlier := match s.ctx? cx with
    | some x => x.trapWait
    | none => []
  let s1 := mine.foldl (fun s b => (s.finishAtoms b).removeBlock b.uid) s0
  let ls := s1.launches.filter fun l => l.ctx == cx
  let s2 : State := { s1 with
    cores := s1.cores.map fun k => { k with pending := k.pending.filter fun e => !(ls.any fun l => l.uid == e.1) } }
  let s3 := ls.foldl (fun s l => s.completeLaunch { l with status := some 3, cutDone := false }) s2
  (s3.dropRecords cx).updCtx cx fun x =>
    { x with phase := .preempted, timers := [], cutLaunch := none, entryWait := [],
             trapWait := earlier.filter fun e => e.1 == none }

/-- RESETCTX (R338, R342): of an ACTIVE or PREEMPTED context. -/
def execResetctx (tag cx : Nat) (s : State) : Out :=
  runCommand s [0x14, tag, cx] fun s =>
    if cx ≥ 64 then some (s.respond 0x14 tag .badArg [])
    else if (s.ctx? cx).any fun x => x.phase == .active || x.phase == .preempted then some ((s.forcedReset cx).respond 0x14 tag .done [])
    else some (s.respond 0x14 tag .refused [])

/-- A core's deadline has come while it holds a block of the context (R339). -/
def State.deadlinePassed (s : State) (core cx : Nat) : Bool := match s.ctx? cx with
  | some x => (x.timers.any fun t => t.1 == core && decide (t.2 ≤ s.coreCycles core)) &&
      s.blocks.any fun b => b.ctx == cx && b.core == core
  | none => false

/-- DEADLINE_EXPIRE (R339). -/
def execDeadlineExpire (core cx : Nat) (s : State) : Out :=
  if s.deadlinePassed core cx then .next (s.forcedReset cx) else .next s

/-- Steps that the held units of a launch report, once their reports may leave their cores (R21, R345). -/
def State.cutReports (s : State) (l : Launch) : List Nat :=
  (s.blocks.filter fun b => b.launch == l.uid).flatMap fun b =>
    (b.waves.filterMap fun w => match w.run with
      | .held t => if s.aged b.core t then some w.step.toNat else none
      | _ => none) ++ (match b.stream with
      | some x => match x.run with
        | .held t => if s.aged b.core t then [x.step] else []
        | _ => []
      | none => [])

/-- The target: the greatest step reported (R345). -/
def State.cutTarget (s : State) (l : Launch) : Nat := (s.cutReports l).foldl max (l.cut.getD 0)

/-- CUT_REPORT (R345): reports are gathered into the target, and units held below it are released. -/
def execCutReport (l : Nat) (s : State) : Out :=
  match s.launch? l with
  | none => .next s
  | some x =>
    if x.cut.isNone then .next s
    else
      let t := s.cutTarget x
      let s1 := s.updLaunch l fun y => { y with cut := some t }
      .next { s1 with blocks := s1.blocks.map fun b =>
        if b.launch == l then
          { b with
            waves := b.waves.map fun w => match w.run with
              | .held n => if s.aged b.core n && w.step.toNat < t then { w with run := .running } else w
              | _ => w
            stream := b.stream.map fun y => match y.run with
              | .held n => if s.aged b.core n && y.step < t then { y with run := .running, readySince := s.now } else y
              | _ => y }
        else b }

/-- Every unit of a block is at the target, and its report has left the core (R21, R345). -/
def Block.atTarget (b : Block) (t : Nat) (aged : Nat → Bool) : Bool :=
  (b.waves.all fun w => w.run == .exited || match w.run with
    | .held n => decide (w.step.toNat = t) && aged n
    | _ => false) && match b.stream with
    | none => true
    | some x => match x.run with
      | .ended => true
      | .held n => decide (x.step = t) && aged n
      | _ => false

/-- Everything a block has written is performed, and its collective operations have completed (R311, R346, R394). -/
def State.blockQuiet (s : State) (b : Block) : Bool :=
  (b.waves.all fun w => w.sq.isEmpty && w.atoms.isEmpty && w.acks.isEmpty && w.loads.isEmpty && w.rays.isEmpty &&
    w.colls.isEmpty && w.pend.all fun p => decide (p.due ≤ s.now)) &&
  !((s.core b.core).copies.any fun j => j.block == b.uid) && !(s.issues.any fun i => i.block == b.uid)

/-- The cut is complete (R345): every unit of every started block is held at the target. -/
def State.cutReady (s : State) (l : Launch) : Bool := match l.cut with
  | none => false
  | some t => !l.cutDone && decide (s.cutTarget l ≤ t) &&
      (s.blocks.filter fun b => b.launch == l.uid).all fun b => b.halt.isNone && b.atTarget t (s.aged b.core) && s.blockQuiet b

/-- A block's record in the cut area, but for its save areas (R346). -/
def cutRecord (state : Nat) (b : Option Block) : List Word :=
  padTo 0 64 (match b.bind fun b => b.stream with
    | some t => [BitVec.ofNat 32 state, BitVec.ofNat 32 t.step] ++
        splitW (position (if t.run == .ended then t.pc - 8 else t.pc) 0) ++ (List.range 8).flatMap fun n => splitW (t.x.getD n 0)
    | none => [BitVec.ofNat 32 state])

/-- Write one block's part of the cut area (R346): a block that counts as ended in a relaunch does so in its cut too (R347). -/
def State.cutBlock (s : State) (l : Launch) (area idx : Nat) : State :=
  let d := pktDecl l.packet
  let base := area + 256 + idx * cutStride d
  match s.blocks.find? fun b => b.launch == l.uid && b.index == idx with
  | some b => b.waves.foldl (fun s w => s.pocRun (base + 256 + w.idx * saveF d) none (w.saveArea d .saved 0))
      (s.pocRun base none (wordsBytes (cutRecord 1 (some b))))
  | none => s.pocRun base none (wordsBytes (cutRecord (if s.blockEnded l idx || s.cutState l idx == 2 then 2 else 0) none))

/-- CUT_COMPLETE (R345, R346): once what the blocks have written is performed (R213), the cut area is written, then every started block ends; the completion record
follows. -/
def execCutComplete (l : Nat) (s : State) : Out :=
  match s.launch? l with
  | none => .next s
  | some x =>
    match x.cut, s.ctx? x.ctx with
    | some t, some c =>
      if !s.cutReady x then .next s
      else
        let mine := s.blocks.filter fun b => b.launch == l
        let s1 := mine.foldl (fun s b => releaseWhatCan s (s.l1Of b.core b.ctx)) s
        if mine.any fun b => s1.evicting b.core b.ctx then .next s1 else
        let area := c.cutArea.toNat
        let s2 := s1.pocRun area none (wordsBytes (cutHeader (BitVec.ofNat 32 t) x.packet x.live (saveF (pktDecl x.packet))))
        let s3 := (List.range x.live).foldl (fun s i => s.cutBlock x area i) s2
        let s4 := mine.foldl (fun s b => s.removeBlock b.uid) s3
        .next ((s4.updLaunch l fun y => { y with cutDone := true }).settlePhase x.ctx)
    | _, _ => .next s

/-- A block with a wave on a fenced part ends by forced reset (R343, R451): restarted where it may be, else
halted, or halted again, with a record that no RESUME can name. -/
def State.resetBlock (s : State) (u : Nat) : State :=
  match s.block? u with
  | none => s
  | some b =>
    if b.restarts then s.restartBlock b
    else if b.halt.any fun h => h.recorded && h.handle == 0 then s
    else
      let frames := match b.halt with
        | some h => h.frames.map fun e => e.2
        | none => []
      ((s.freeFrames b.ctx frames).dropTrap b.ctx u).updBlock u fun b =>
          { b with halt := some (newHalt s.now 0xFF 0 { cause := 13, opcode := 0 }) }

/-- A sub-core is fenced (R25, R343): blocks with a wave on it end. -/
def State.fenceSub (s : State) (core sub : Nat) : State :=
  let hit := s.blocks.filter fun b => b.core == core && b.waves.any fun w => w.sub == sub
  hit.foldl (fun s b => s.resetBlock b.uid) (s.updCore core fun k => k.fence 2 sub)

/-- A core is fenced (R451): its blocks end. -/
def State.fenceCore (s : State) (core : Nat) : State :=
  (s.blocks.filter fun b => b.core == core).foldl (fun s b => s.resetBlock b.uid)
    (s.updCore core fun k => k.fence 1 0)

/-- An array is fenced (R26, R451): running streams halt with stream fault. -/
def State.fenceArray (s : State) (core : Nat) : State :=
  let hit := s.blocks.filter fun b => b.core == core && !b.streamGone
  hit.foldl (fun s b => s.updBlock b.uid fun b => match b.stream with
    | some t => b.takeTrap s.now 0xFE (position t.pc 0) { cause := 10, opcode := s.streamOpcode b t }
    | none => b) (s.updCore core fun k => k.fence 3 0)

end Sys2Proof.Machine
end

