-- ==== Sys2Proof/Machine/Rel.lean ====
section
/-! DEFINITION. Errors and repairs (1, R19-R28; 11, R273; 20, R437-R453): strike rollback, residue faults and
the column remap, abort completions, HBM transfers with their logs, links that go down, and the reset. -/

namespace Sys2Proof.Machine

open Sys2Proof

/-! ### The strike rollback -/

/-- Insert an undo entry by its cycle, newest first. -/
def insertUndo {α : Type} (e : Nat × α) : List (Nat × α) → List (Nat × α)
  | [] => [e]
  | x :: t => if x.1 > e.1 then x :: insertUndo e t else e :: x :: t

/-- Undo entries newest first: those of several clauses together. -/
def mergeUndo {α : Type} (l : List (Nat × α)) : List (Nat × α) := l.foldr insertUndo []

/-- Put back the old values of undo entries, newest first (R20). -/
def Block.undo (b : Block) (bs : List (Nat × Nat × Nat × Byte)) (ws cs : List (Nat × Nat × Nat × Word)) : Block :=
  { b with
    bmem := (mergeUndo bs).foldl (fun m e => setAt 0 m e.2.2.1 e.2.2.2) b.bmem
    win := (mergeUndo ws).foldl (fun m e => setAt 0 m e.2.2.1 e.2.2.2) b.win
    satCount := (mergeUndo cs).foldl (fun m e => setAt 0 m e.2.2.1 e.2.2.2) b.satCount }

/-- The checkpoint a block goes back to (R19; log 8): the newest at or before the rollback cycle, or after
an event that is never undone. -/
def Core.baseOf (k : Core) (t0 u : Nat) : Option Snapshot :=
  k.history.find? fun x => (decide (x.cycle ≤ t0) || (x.floor && x.block == u)) && x.blocks.any fun b => b.uid == u

/-- The start of the clause that wave `i` of block `u` was in the middle of at a checkpoint. -/
def Core.midClause (k : Core) (base : Snapshot) (u i : Nat) : Option Snapshot :=
  k.history.find? fun x => x.atStart && x.block == u && x.wave == i && decide (x.cycle ≤ base.cycle) &&
    match x.last with
    | none => true
    | some e => decide (e > base.cycle)

/-- A wave's lanes that are dead now stay dead (R439). -/
def Wave.keepDead (now : Block) (w : Wave) : Wave := match now.wave? w.idx with
  | some v => w.kill v.dead
  | none => w

/-- A wave restored to cycle `t0` goes on from now: its starvation count is what it was then, what it counts down to
comes as much later (`cycles` by its core's count), and a WAITV reads again (R12, R19, R188, R376). -/
def Wave.resumedAt (w : Wave) (t0 now cycles : Nat) (upTo : Nat → Nat) : Wave :=
  { w with
    starveCnt := w.starveCnt + ((w.readySince.map upTo).getD 0)
    readySince := w.readySince.map fun _ => now
    pend := w.pend.map fun p => { p with due := p.due + (now - t0) }
    run := match w.run with
      | .sleeping t => .sleeping (t + cycles)
      | .waitv a => .waitv { a with asked := none, next := 0 }
      | x => x }

/-- A block as it stood at its checkpoint (R19, R200, R274, R439): a wave in the middle of a clause
restarts at the clause's header; a halt older than the rollback cycle has left the core and stands. -/
def Core.restoreBlock (k : Core) (t0 : Nat) (resumed : Wave → Wave) (later : Nat) (now : Block) (base : Snapshot)
    (old : Block) : Block :=
  let mids := old.waves.filterMap fun w => k.midClause base now.uid w.idx
  let upTo {α : Type} (l : List (Nat × α)) : List (Nat × α) := l.filter fun e => decide (e.1 ≤ base.cycle)
  let b1 := old.undo (mids.flatMap fun x => upTo x.undoB) (mids.flatMap fun x => upTo x.undoW)
    (mids.flatMap fun x => upTo x.undoC)
  let start (w : Wave) : Wave :=
    match (mids.find? fun x => x.wave == w.idx).bind fun x => (x.blocks.find? fun b => b.uid == now.uid).bind fun b => b.wave? w.idx with
    | some v => v
    | none => w
  { b1 with
    waves := b1.waves.map fun w => resumed ((start w).keepDead now)
    stuckSince := b1.stuckSince.map fun t => t + later
    spare := now.spare.map fun x => (x.1, b1.slice x.1)
    halt := match now.halt with
      | some h => if h.born ≤ t0 || h.cause == 13 then some h else old.halt
      | none => old.halt }

/-- The copies of a core after a rollback (R19, R21): those within the core as at the checkpoint, their
sectors to be read again; those that write outside it as they are. -/
def restoreCopies (now : List CopyJob) (base : Option Snapshot) (u : Nat) : List CopyJob := match base with
  | none => now.filter fun j => j.block == u
  | some x => (x.copies.filter fun j => j.block == u).filterMap fun j =>
    if j.dstKind == 0 || j.dstKind == 4 then (now.find? fun y => y.seq == j.seq).map fun y => { y with ahead := [] }
    else some { j with asked := [], got := [], failedNow := false }

/-- A block of the queue engine's that started after the rollback cycle is pending again: nothing it did has left
the core (R19; log 8). A block that a forced reset has halted stays, and one with a dead lane goes back to its start
only, the lane being dead (R439). -/
def Block.unstarts (t0 : Nat) (b : Block) : Bool := decide (b.started > t0) && b.decl.cls != 0 &&
  (b.waves.all fun w => w.dead == 0) && match b.halt with
  | some h => h.cause != 13
  | none => true

/-- The queue engine and the array's owner as they stood at the rollback cycle (R19): entries that have come since
or gone to another core since stay so (log 8). -/
def Core.restoreEngine (k : Core) (t0 : Nat) (undone : List (Nat × Nat)) (resident : Nat → Bool) : Core :=
  let old := k.history.find? fun x => decide (x.cycle ≤ t0)
  { k with
    pending := undone ++ k.pending
    lfsr := (old.map fun x => x.lfsr).getD k.lfsr
    owner := (match old with
      | some x => x.owner
      | none => k.owner).filter resident }

/-- Somebody still waits for a remote request of a core's block: where a rollback has discarded the load, nobody does
(R376): `gone` are the blocks that it has made pending again. -/
def State.awaited (s : State) (core : Nat) (gone : List Nat) (r : Request) : Bool :=
  let mine (b wv : Nat) (p : Wave → Bool) : Bool := match s.block? b with
    | some blk => blk.core != core || (match blk.wave? wv with
      | some w => p w
      | none => false)
    | none => !gone.contains b
  let load (w : Wave) : Bool := w.loads.any fun l => l.waits.any fun e => e.2.1 == r.rid
  match r.owner with
  | .load b wv => mine b wv load
  | .ray b wv _ => mine b wv fun w => w.rays.any fun o => o.asked.contains r.rid
  | .waitv b wv => mine b wv fun w => match w.run with
    | .waitv a => a.asked == some r.rid
    | _ => false
  | .copy c seq => c != core || (match (s.core c).copies.find? fun j => j.seq == seq with
    | some j => j.asked.contains r.rid || j.acks.any fun e => e.1 == r.rid
    | none => false)
  | _ => true

/-- Requests of loads that a rollback has discarded are withdrawn (R376): one that has been sent keeps its tag, and its
reply is discarded; one that has not been sent is not. -/
def State.withdraw (s : State) (core : Nat) (gone : List Nat) : State :=
  { s with sv := { s.sv with
    tags := s.sv.tags.map fun t => if s.awaited core gone t.req then t else { t with req := t.req.noFill }
    egress := s.sv.egress.filter fun q => match q.req with
      | some r => s.awaited core gone r
      | none => true } }

/-- A core's state goes back to a cycle (R19). A block that has not started then is pending again, or goes back to its
launch where its context starts none (R338). -/
def State.rollback (s0 : State) (core t0 : Nat) : State :=
  let gone := s0.blocks.filter fun b => b.core == core && b.unstarts t0
  let again (b : Block) : Bool := (s0.ctx? b.ctx).any fun x => x.phase == .active
  let back (s : State) : State := (gone.filter fun b => !again b).foldl (fun s b => s.updLaunch b.launch fun l =>
    { l with returned := l.returned ++ [b.index] }) s
  let s : State := back { s0 with blocks := s0.blocks.filter fun b => !(b.core == core && b.unstarts t0) }
  let k := s.core core
  let mine := s.blocks.filter fun b => b.core == core
  let copies := mine.flatMap fun b => restoreCopies k.copies (k.baseOf t0 b.uid) b.uid
  let upTo (t : Nat) : Nat := s.since core t - s.since core t0
  let resumed (w : Wave) : Wave := w.resumedAt t0 s.now (s.since core t0) upTo
  let engine := k.restoreEngine t0 ((gone.filter again).map fun b => (b.launch, b.index)) fun u => mine.any fun b => b.uid == u
  let s1 : State := { s with
    issues := s.issues.filter fun i => i.core != core
    blocks := s.blocks.map fun b =>
      if b.core == core then
        match k.baseOf t0 b.uid with
        | none => b
        | some x => match x.blocks.find? fun y => y.uid == b.uid with
          | some old => k.restoreBlock t0 resumed (s.now - t0) b x old
          | none => b
      else b }
  let s2 := mine.foldl (fun s b => s.settle b.uid) s1
  let snap : Snapshot :=
    { cycle := t0, block := 0, wave := 0xFF, atStart := false, floor := false, last := some t0,
      blocks := s2.blocks.filter fun b => b.core == core, copies := copies, pending := engine.pending,
      lfsr := engine.lfsr, owner := engine.owner, undoB := [], undoW := [], undoC := [] }
  (s2.updCore core fun k => { k with
    copies := copies, history := [snap], lastWord := [], lastStream := none, pending := engine.pending,
    lfsr := engine.lfsr, owner := engine.owner }).withdraw core (gone.map fun b => b.uid)

/-- STRIKE_ROLLBACK (R19, R20, R22, R439, R440): everything the core did in the last 256 cycles is undone,
and the report counted and recorded with the rollback cycle. -/
def execStrikeRollback (core : Nat) (s : State) : Out :=
  let t0 := s.windowStart core
  let s1 := (s.rollback core t0).updCore core fun k => { k with strike := satInc k.strike }
  .next (s1.logError 2 (.core core)
    [BitVec.ofNat 10 core ++ (0 : BitVec 22), BitVec.ofNat 32 (s1.cycleOf core - Config.strikeWindow), (s1.core core).strike, 0])

/-- STRIKE_UNCORE (R22, R440, R442): a report outside the cores rolls nothing back. -/
def execStrikeUncore (die : Nat) (s : State) : Out :=
  if die > 8 then .next s
  else
    let s1 : State := { s with rel := { s.rel with die := bump s.rel.die (4 * die) } }
    .next (s1.logError 2 (dieReporter die)
      [BitVec.ofNat 10 1023 ++ (0 : BitVec 22), 0, getAt 0 s1.rel.die (4 * die), 0])

/-! ### Residue faults -/

/-- Replace a repair byte. -/
def Core.setRepair (k : Core) (i : Nat) (v : BitVec 8) : Core :=
  { k with repair := updIdx i (fun _ => v) (padTo 0 7 k.repair) }

/-- SPARED of a repair byte. -/
def spared (v : BitVec 8) : Bool := v.getLsbD 6

/-- The repair byte of a part whose spare takes the place of physical lane or column `n`. -/
def spareByte (v : BitVec 8) (n : Nat) : BitVec 8 := (v &&& 0x80) ||| 0x40 ||| BitVec.ofNat 8 (n % 64)

/-- The logical lane or column that a physical one serves (R24, R26): `n` of them, and the spare as number
`n`; none for one that serves none. -/
def logicalOf (v : BitVec 8) (n phys : Nat) : Option Nat :=
  if phys < n then (if spared v && (v.extractLsb' 0 6).toNat == phys then none else some phys)
  else if phys = n && spared v then some (v.extractLsb' 0 6).toNat
  else none

/-- Is the result of a word checked modulo 7, as a floating-point one (R23)? A fragment sum is, of INT8 elements too
(R150; DEDUCED, log 41). -/
def floatResult (w : Word) : Bool :=
  let op := (w.extractLsb' 25 7).toNat
  let fn := (w.extractLsb' 0 8).toNat
  if op = 0x26 then fn != 7
  else if op = 0x36 then decide (fn ≥ 2)
  else if op = 0x44 || op = 0x45 then decide (fn ≥ 8)
  else if op = 0x5A || op = 0x5B then true
  else (decide (0x20 ≤ op) && decide (op ≤ 0x25)) || (decide (0x29 ≤ op) && decide (op ≤ 0x2E)) ||
    (decide (0x30 ≤ op) && decide (op ≤ 0x32)) || (decide (0x37 ≤ op) && decide (op ≤ 0x3B))

/-- A machine-check record (R27). -/
def mchkRecord (path sub phys lane opcode slot action : Nat) (pc : Addr) (ctx index : Nat) : List Word :=
  [(1 : BitVec 1) ++ BitVec.ofNat 2 path ++ BitVec.ofNat 3 sub ++ BitVec.ofNat 7 phys ++ BitVec.ofNat 5 lane ++
     BitVec.ofNat 7 opcode ++ BitVec.ofNat 4 slot ++ BitVec.ofNat 2 action ++ (0 : BitVec 1),
   pc.extractLsb' 0 32, (0 : BitVec 9) ++ pc.extractLsb' 32 23, BitVec.ofNat 6 ctx ++ BitVec.ofNat 26 index]

/-- How a word with a permanent fault goes on (R24, R129, R150). -/
inductive Redo where
  /-- The word issues again with the lane dead. -/
  | again
  /-- The other lanes' results stand; the lane's own are put back. -/
  | keep
  /-- A word whose lanes have no result of their own: the lane is killed. -/
  | kill
  deriving DecidableEq, Repr

/-- The way for a word: of a control, fence or scalar copy word no lane has a result of its own; a fragment word's
other lanes keep the killed lane's part; of a COPYG, COPYS or cache word a lane's result is its address (R29). -/
def redoOf (w : Word) : Redo :=
  let op := (w.extractLsb' 25 7).toNat
  let fn := (w.extractLsb' 19 6).toNat
  if op = 0x5A || op = 0x5B then .keep
  else if op ≤ 0x6D || op = 0x71 || op = 0x72 || (decide (0x74 ≤ op) && decide (op ≤ 0x76)) || op = 0x7A then .again
  else if op = 0x7D && decide (16 ≤ fn) && decide (fn ≤ 18) then .again
  else .kill

/-- Is the slot of a word that is to be reissued still its clause's or free? -/
def State.slotKept (s : State) (x : LastWord) : Bool :=
  !(s.issues.any fun i => i.core == x.issue.core && i.sub == x.sub && !(i.block == x.block && i.wave == x.wave) &&
    (i.mix || x.issue.mix || i.slot1 == x.issue.slot1))

/-- The word is taken back (R24): its wave and clause stand as before it, and what it wrote to shared storage
is put back. -/
def State.takeBack (s : State) (x : LastWord) : State :=
  let k := s.core x.issue.core
  let mine (y : Snapshot) : Bool := y.block == x.block && y.wave == x.wave && y.atStart && match y.last with
    | none => true
    | some e => e == x.cycle
  let byWord {α : Type} (l : List (Nat × α)) : List (Nat × α) := l.filter fun e => e.1 == x.cycle
  let rest {α : Type} (l : List (Nat × α)) : List (Nat × α) := l.filter fun e => e.1 != x.cycle
  let own := k.history.find? mine
  let copies := (k.copies.filter fun j => j.block == x.block && j.wave == x.wave && j.issued == x.cycle).map fun j => j.seq
  let drop (b : Block) : Block := { b with tokens := b.tokens.map fun e =>
    (e.1, { e.2 with outst := e.2.outst.filter fun n => !copies.contains n }) }
  let s1 := (s.updBlock x.block fun b =>
    drop ((match own with
      | some y => b.undo (byWord y.undoB) (byWord y.undoW) (byWord y.undoC)
      | none => b).updWave x.wave fun _ => x.before.keepDead b)).updCore x.issue.core fun k =>
        { k with copies := k.copies.filter fun j => !copies.contains j.seq }
  let s2 : State := { s1 with issues := x.issue :: s1.issues.filter fun i => !(i.block == x.block && i.wave == x.wave) }
  s2.updCore x.issue.core fun k => { k with
    history := (k.history.filter fun y => !(y.cycle == x.cycle && y.block == x.block && y.wave == x.wave &&
      !y.atStart && !y.floor)).map fun y =>
        if mine y then { y with last := none, undoB := rest y.undoB, undoW := rest y.undoW, undoC := rest y.undoC } else y }

/-- The permanent fault of a lane at the sub-core's last word (R24, R25, R150). -/
def State.laneFault (s : State) (x : LastWord) (b : Block) (lane phys op : Nat) : State :=
  let core := x.issue.core
  let m : Mask := (1 : Mask) <<< lane
  let wd := match s.fetch32 core b.ctx (x.issue.pc + BitVec.ofNat 64 (4 * x.issue.k)) with
    | .ok w => w
    | _ => 0
  let others := (x.laneFlags.zipIdx.filter fun e => e.2 != lane).foldl (fun f e => f ||| e.1) (0 : BitVec 6)
  let own (w : Wave) : Wave := { w with
    flags := x.before.flags ||| others
    v := (List.range' (wd.extractLsb' 17 8).toNat 8).foldl
      (fun v n => setAt 0 v (32 * n + lane) (getAt 0 x.before.v (32 * n + lane))) w.v }
  let s1 := match redoOf wd with
    | .again => s.takeBack x
    | .keep => s.updWave x.block x.wave own
    | .kill => s
  let s3 := (s1.killLanes x.block x.wave m).settle x.block
  let v := (s.core core).repairByte x.sub
  let record (action : Nat) (s : State) : State := s.machineCheck core
    (mchkRecord (if floatResult wd then 1 else 0) x.sub phys lane op x.before.slot action
      (x.issue.pc + BitVec.ofNat 64 (4 * x.issue.k)) b.ctx b.index)
  if !spared v then
    record 0 ((s3.updCore core fun k => k.setRepair x.sub (spareByte v phys)).addRepair 1 (repairWord1 core x.sub phys) 0)
  else
    (record 1 ((s3.updCore core fun k => k.setRepair x.sub (v ||| 0x80)).addRepair 3 (repairWord1 core x.sub 0) 0)).fenceSub
      core x.sub

/-- The opcode of the word last issued on a sub-core. -/
def State.lastOpcode (s : State) (x : LastWord) (ctx : Nat) : Nat :=
  match s.fetch32 x.issue.core ctx (x.issue.pc + BitVec.ofNat 64 (4 * x.issue.k)) with
  | .ok w => (w.extractLsb' 25 7).toNat
  | _ => 0

/-- RESIDUE_REISSUE (R24, R25, R28, R439, R441): the word last issued on a sub-core fails its check on a
physical lane and is reissued; the mismatch goes away, or recurs there. -/
def execResidueReissue (core sub phys : Nat) (recurs : Bool) (s : State) : Out :=
  let k := s.core core
  match k.lastWord.find? fun x => x.sub == sub with
  | none => .next s
  | some x =>
    match s.block? x.block, logicalOf (k.repairByte sub) 32 phys with
    | some b, some lane =>
      let executes := ((x.before.part? x.issue.part).map fun p => p.mask.getLsbD lane).getD false
      if !executes || !s.slotKept x then .next s
      else
        let s1 := s.updCore core fun k => { k with replay := satInc k.replay }
        .next (if recurs then s1.laneFault x b lane phys (s.lastOpcode x b.ctx) else s1)
    | _, _ => .next s

/-! ### The array's columns -/

/-- What of the array a stream word's residue covers (R23, R273). -/
inductive ArrayCheck where
  | column
  /-- The scaling and vocabulary units, with the PATH of their record. -/
  | unit (path : Nat)
  | none
  deriving DecidableEq, Repr

/-- By opcode; for ATOPK `col` says which of its results failed: 0 a value, else an index. -/
def arrayCheck (op col : Nat) : ArrayCheck :=
  if (decide (1 ≤ op) && decide (op ≤ 4)) || op = 0x12 then .column
  else if op = 5 || op = 8 || op = 0x0E then .unit 1
  else if op = 6 || op = 0x0F then .unit 0
  else if op = 0x0D then .unit (if col = 0 then 1 else 0)
  else .none

/-- Cells that a word changed from `old` to `after` as they were before it, but for those written again since. -/
def undoCells {α : Type} [DecidableEq α] (d : α) (old after now : Cells α) : Cells α :=
  (((old ++ after).map fun (e : Nat × α) => e.1).filter fun a =>
    getAt d old a != getAt d after a && getAt d now a == getAt d after a).foldl (fun m a => setAt d m a (getAt d old a)) now

/-- The array is fenced by a stream word that fails for good (R26, R273): what the word wrote is taken back and running
streams halt with stream fault. -/
def State.arrayFails (s : State) (core : Nat) (old : Block) (path phys op : Nat) : State :=
  let k := s.core core
  let after := (k.history.find? fun x => x.block == old.uid && x.wave == 0xFE).bind fun x => x.blocks.find? fun b => b.uid == old.uid
  let new := after.getD old
  let s1 := s.updBlock old.uid fun b =>
    { b with
      stream := old.stream
      bmem := undoCells 0 old.bmem new.bmem b.bmem
      win := undoCells 0 old.win new.win b.win
      satCount := undoCells 0 old.satCount new.satCount b.satCount }
  let pc := (old.stream.map fun t => t.pc).getD 0
  let s2 := (s1.updCore core fun k => k.setRepair 6 (k.repairByte 6 ||| 0x80)).addRepair 4 (repairWord1 core 0 0) 0
  (s2.machineCheck core (mchkRecord path 7 phys 0 op 0 1 pc old.ctx old.index)).fenceArray core

/-- COLUMN_REMAP (R26, R273, R441): the array's last word fails its check on a physical column, or in a unit
beside the columns, and is reissued; the mismatch goes away, or recurs. Before the spare column takes the place of
column n, slice n of the B-store is copied into the spare slice. -/
def execColumnRemap (core col : Nat) (recurs : Bool) (s : State) : Out :=
  let k := s.core core
  match k.lastStream with
  | none => .next s
  | some old =>
    let op := (old.stream.map fun t => s.streamOpcode old t).getD 0
    let s1 := s.updCore core fun k => { k with replay := satInc k.replay }
    match arrayCheck op col with
    | .none => .next s
    | .unit path => .next (if recurs then s1.arrayFails core old path 0 op else s1)
    | .column =>
      match logicalOf (k.repairByte 6) 64 col with
      | none => .next s
      | some _ =>
        if !recurs then .next s1
        else if spared (k.repairByte 6) then .next (s1.arrayFails core old 2 col op)
        else
          let pc := (old.stream.map fun t => t.pc).getD 0
          let copied : State := { s1 with blocks := s1.blocks.map fun b =>
            if b.core == core then { b with spare := some (col, b.slice col) } else b }
          .next (((copied.updCore core fun k => k.setRepair 6 (spareByte (k.repairByte 6) col)).addRepair 2
            (repairWord1 core 0 col) 0).machineCheck core (mchkRecord 2 7 col 0 op 0 0 pc old.ctx old.index))

/-! ### Abort completions -/

/-- A mask of listed lanes. -/
def maskOfList (l : List Nat) : Mask := maskOf (fun n => l.contains n) 32

/-- The lanes of an atomic. -/
def Effect.atomLaneList : Effect → List Nat
  | .atom _ _ _ lanes _ _ _ => lanes.map fun x => x.1
  | _ => []

/-- Lanes of a wave whose access `a` has issued and not ended: none where a rollback has discarded it (R437, R439). -/
def Wave.openLanes (w : Wave) : Access → Mask
  | .load t => maskOfList ((w.loads.filter fun l => l.issued == t).flatMap fun l =>
      l.data.map (fun x => x.1) ++ l.waits.map fun x => x.1)
  | .atom => maskOfList ((w.atoms.head?.map Effect.atomLaneList).getD [])
  | .store rid => maskOfList ((w.acks.filter fun x => x.1 == rid).map fun x => x.2.1)
  | .ray t => maskOfList ((w.rays.filter fun o => o.due == t).flatMap fun o => o.rays.map fun x => x.1)
  | .waitv t => match w.run with
    | .waitv a => if a.since = t then ((w.part? a.part).map fun p => p.mask).getD 0 else 0
    | _ => 0

/-- A withheld lane's own part of a load is not written (R235). -/
def LoadOp.killMore (m : Mask) (l : LoadOp) : LoadOp := { l with killed := l.killed ||| m }

/-- The lanes of an access are killed (R161, R235, R437): the data of the load concerned do not reach them, an
acknowledged store awaits nothing more, and a WAITV ends. -/
def State.abortLanes (s : State) (b wv : Nat) (acc : Access) (m : Mask) : State :=
  let upd (w : Wave) : Wave := match acc with
    | .load t => { w with loads := w.loads.map fun l => if l.issued = t then l.killMore m else l }
    | .store rid => { w with acks := w.acks.filter fun x => x.1 != rid }
    | .waitv t => match w.run with
      | .waitv a => if a.since = t then { w with run := .running }.pastPart a.part else w
      | _ => w
    | _ => w
  ((s.updWaveAll b wv upd).killLanes b wv m).settle b

/-- Does a scalar load of a part, or a LAUNCH that reads its packet, that issued at a time still wait for its data
(R235, R439)? -/
def Wave.openPart (w : Wave) (part issued : Nat) : Bool :=
  (w.loads.any fun l => l.part == part && l.issued == issued && match l.dest with
    | .scalar _ _ => true
    | _ => false) || match w.run with
  | .entering h => h.part == part && h.since == issued && w.launching
  | _ => false

/-- Every live lane of a part is killed (R437): a LAUNCH that was reading its packet ends. An abort of an access that
a rollback has discarded kills nothing (R439). -/
def State.abortPart (s : State) (b wv part issued : Nat) : State :=
  match s.wave? b wv with
  | none => s
  | some w =>
    if !w.openPart part issued then s
    else
      let m := ((w.part? part).map fun p => p.mask).getD 0
      let stays (e : Nat × Effect) : Bool := match e.2 with
        | .launch _ _ _ => false
        | _ => true
      let left (w : Wave) : Wave := { w with sq := w.sq.filter stays }
      let s1 := match w.run with
        | .entering h => if h.part = part && w.launching then
            s.updWaveAll b wv fun w => ((left w).dropPacketLoad).entered h else s
        | _ => s
      let more (l : LoadOp) : LoadOp := if l.part = part && l.issued = issued then l.killMore m else l
      ((s1.updWaveAll b wv fun w => { w with loads := w.loads.map more }).killLanes b wv m).settle b

/-- The block's stream faults, unless it has ended or its block halts (R257, R437). -/
def State.streamAbort (s : State) (b : Nat) : State :=
  s.updBlock b fun x => match x.stream with
    | some t => if t.run == .ended || x.halt.isSome then x
        else x.takeTrap s.now 0xFE (position t.pc 0) { cause := 10, opcode := s.streamOpcode x t }
    | none => x

/-- Live lanes of a wave. -/
def Wave.liveLanes (w : Wave) : Mask := w.parts.foldl (fun m e => m ||| e.2.mask) 0

/-! ### SRAM -/

/-- A word of a core's L1 (R449): its dirty bytes are withheld from now on and never written back; a line without
dirty bytes is dropped, and elsewhere the word's clean bytes are. The row of R449 beside the state. -/
def State.sramL1 (s : State) (core ctx line word : Nat) : Nat × State :=
  match s.l1Line core ctx line with
  | none => (1, s)
  | some ln =>
    let m : BitVec 128 := (0xFF : BitVec 128) <<< (8 * word)
    let hit := ln.dirty &&& m
    if ln.dirty = 0 then (1, s.setL1 core ctx line none)
    else (if hit = 0 then 1 else 2,
      s.setL1 core ctx line (some { ln with bad := ln.bad ||| hit, valid := ln.valid &&& ~~~(m &&& ~~~ln.dirty) }))

/-- A word of the home L2 (R449): dirty, it reads as uncorrectable until its half is written, the HBM4E keeping its old
bytes; clean, it is fetched again. -/
def State.sramL2 (s : State) (line word : Nat) : Nat × State :=
  let a := 128 * line + 8 * word
  match s.l2.find? fun x => x.line == line with
  | none => (1, s)
  | some x =>
    if !x.dirty.getLsbD (word / 8) then (1, s)
    else (2, { s with
      mem := setRun 0 s.mem a (getRun 0 s.dram a 8)
      rel := { s.rel with badBytes := (s.rel.badBytes.filter fun b => b / 8 != a / 8) ++ List.range' a 8 } })

/-- The chunk of a present input that the next step reads first is lost (R410, R449). -/
def Comm.spoilChunk (c : Comm) : Comm :=
  match c.run with
  | none => c
  | some r => match r.todo with
    | [] => c
    | a :: _ => match collInput c r.op.desc a with
      | none => c
      | some i =>
        if !c.actReady r a then c
        else match (c.inputMsgs r.op.seq i).find? fun m => m.closed && !m.lost with
          | none => c
          | some m => { c with inbox := c.inbox.map fun x => if x = m then { x with lost := true, incomplete := true } else x }

/-- The core of a block. -/
def coreOfBlock (s : State) (b : Nat) : Nat := ((s.block? b).map fun x => x.core).getD 0

/-- The structure of a word, its reporter and its core (R450). -/
def sramPlace (s : State) : SramWord → Nat × Reporter × Nat
  | .l1 core _ _ _ => (1, .core core, core)
  | .icache core _ _ => (2, .core core, core)
  | .ray core _ _ => (8, .core core, core)
  | .tlb (some core) _ _ _ _ => (9, .core core, core)
  | .tlb none die _ _ _ => (9, .die die, 1023)
  | .l2 line _ => (10, .die (homeDie (128 * line)), 1023)
  | .rdc die _ _ _ => (11, .die die, 1023)
  | .lanes kind b _ _ => let core := coreOfBlock s b
      (kind, .core core, core)
  | .scalar b _ => let core := coreOfBlock s b
      (5, .core core, core)
  | .stream kind b => let core := coreOfBlock s b
      (kind, .core core, core)
  | .mantle _ => (12, .io, 1023)

/-- What becomes of an uncorrectable word (R449), with its row. -/
def State.sramLoss (s : State) : SramWord → Nat × State
  | .l1 core ctx line word => s.sramL1 core ctx line word
  | .icache core ctx line =>
    (1, { s with icache := s.icache.filter fun x => !(x.core == core && x.ctx == ctx && x.line == line) })
  | .ray core ctx line =>
    (1, { s with raycache := s.raycache.filter fun x => !(x.core == core && x.ctx == ctx && x.line == line) })
  | .tlb core die ctx page big =>
    (1, { s with tlb := s.tlb.filter fun t =>
      !(t.core == core && t.die == die && t.ctx == ctx && t.page == page && t.big == big) })
  | .l2 line word => s.sramL2 line word
  | .rdc die ctx dev line =>
    (1, { s with rdc := s.rdc.filter fun r => !(r.die == die && r.ctx == ctx && r.dev == dev && r.line == line) })
  | .lanes _ b wv mask => match s.block? b, s.wave? b wv with
    | some x, some w => (3, ((s.withhold (some x.ctx)).killLanes b wv (mask &&& w.liveLanes)).settle b)
    | _, _ => (3, s.withhold none)
  | .scalar b wv => match s.block? b, s.wave? b wv with
    | some x, some w => (4, ((s.withhold (some x.ctx)).killLanes b wv w.liveLanes).settle b)
    | _, _ => (4, s.withhold none)
  | .stream _ b => (5, (s.withhold ((s.block? b).map fun x => x.ctx)).streamAbort b)
  | .mantle id => (6, (s.withhold ((s.comm? id).map fun c => c.ctx)).updComm id Comm.spoilChunk)

/-- An uncorrectable word (R442, R449, R450): counted, handled, and recorded. -/
def State.sramError (s : State) (w : SramWord) (index : BitVec 64) : State :=
  let place := sramPlace s w
  let r := s.sramLoss w
  let s1 : State := { r.2 with rel := { r.2.rel with die := bump r.2.rel.die (4 * place.2.1.source + 2) } }
  s1.logError 5 place.2.1
    [BitVec.ofNat 8 place.1 ++ BitVec.ofNat 10 place.2.2 ++ (0 : BitVec 14), index.extractLsb' 0 32, index.extractLsb' 32 32,
     BitVec.ofNat 32 r.1]

/-- ABORT_COMPLETION (R437, R438, R439): both interrupts, then the consumer's row. An abort whose access is
no longer there has no further effect. An SRAM word that is corrected is counted, and one that is clean or dirty in a
cache is handled by its own row, without an abort (R449). -/
def execAbortCompletion (site : AbortSite) (s : State) : Out :=
  let ctxOf (b : Nat) : Option Nat := (s.block? b).map fun x => x.ctx
  match site with
  | .lanes b wv acc mask =>
    let s1 := s.withhold (ctxOf b)
    match s.wave? b wv with
    | none => .next s1
    | some w =>
      let m := mask &&& w.openLanes acc
      .next (if m = 0 then s1 else s1.abortLanes b wv acc (match acc with
        | .waitv _ => w.openLanes acc
        | _ => m))
  | .part b wv part issued => .next ((s.withhold (ctxOf b)).abortPart b wv part issued)
  | .copy core =>
    match s.copyHead core with
    | none => .next (s.withhold none)
    | some j => .next ((s.withhold (ctxOf j.block)).updCopy core j.seq fun j => { j with failedNow := true })
  | .stream b =>
    .next ((s.withhold (ctxOf b)).streamAbort b)
  | .save b => .next ((s.withhold (ctxOf b)).updBlock b fun x => x.badSave s.now 0xFF)
  | .launch l =>
    .next ((s.withhold ((s.launch? l).map fun x => x.ctx)).updLaunch l fun x =>
      if x.started then x else { x with status := some 4, checking := false })
  | .mantle id =>
    .next ((s.withhold ((s.comm? id).map fun c => c.ctx)).updComm id fun c =>
      { c with abortNext := c.abortNext || !c.sends.isEmpty || c.run.any fun r => !r.todo.isEmpty })
  | .corrected die =>
    .next (if die > 8 then s else { s with rel := { s.rel with die := bump s.rel.die (4 * die + 1) } })
  | .sram w index => .next (s.sramError w index)

/-! ### HBM transfers -/

/-- The stack whose log, an array log or a transfer log. -/
def logBase (stack : Nat) : Nat := 256 * stack

/-- Words of a log. -/
def State.logWords (s : State) (xfer : Bool) : Words := if xfer then s.rel.xferLog else s.rel.arrayLog

/-- Replace the words of a log. -/
def State.setLogWords (s : State) (xfer : Bool) (m : Words) : State :=
  { s with rel := if xfer then { s.rel with xferLog := m } else { s.rel with arrayLog := m } }

/-- An event enters a stack's log and the error log (R448, R450): the lowest free entry takes it, or OVF is set
in the newest. -/
def State.logTransfer (s : State) (xfer : Bool) (pa : Nat) (w0 w1 : Word) : State :=
  let stack := (channelOf pa).1
  let pch := (channelOf pa).2
  let counts := if xfer then s.rel.xferCount else s.rel.arrayCount
  let n := min 0xFFFF (getAt 0 counts (192 * stack + pch) + 1)
  let counts1 := setAt 0 counts (192 * stack + pch) n
  let s1 : State := { s with rel := if xfer then { s.rel with xferCount := counts1 } else { s.rel with arrayCount := counts1 } }
  let w2 : Word := BitVec.ofNat 32 (pa % 2 ^ 32 / 64 * 64)
  let w3 : Word := BitVec.ofNat 32 (65536 * n + pa / 2 ^ 32 % 256)
  let m := s1.logWords xfer
  let slot := (List.range 64).find? fun j => !(getAt 0 m (logBase stack + 4 * j)).getLsbD 31
  let which := 2 * stack + if xfer then 1 else 0
  let s2 := match slot with
    | some j =>
      let s2 := s1.setLogWords xfer (setRun 0 m (logBase stack + 4 * j) [w0, w1, w2, w3])
      { s2 with rel := { s2.rel with logLast := setAt 0 s2.rel.logLast which j } }
    | none =>
      let at_ := logBase stack + 4 * getAt 0 s1.rel.logLast which
      s1.setLogWords xfer (setAt 0 m at_ (getAt 0 m at_ ||| 0x40000000))
  s2.logError (if xfer then 4 else 3) (.die (stack / 2)) [w0, w1, w2, w3 ||| BitVec.ofNat 32 (256 * (stack % 2))]

/-- Advance a stack counter (R442): 0 CELL.CE, 1 XFER.ERR, 2 XFER.UE, 3 SWAPS. -/
def State.stackCount (s : State) (stack k : Nat) : State :=
  { s with rel := { s.rel with stack := bump s.rel.stack (4 * stack + k) } }

/-- Has a pseudo-channel's spare lane been taken (R446)? -/
def State.lane34Used (s : State) (stack pch : Nat) : Bool :=
  let m := s.rel.repairs
  (validRepairs m).any fun i => repairKind m i == 5 &&
    (getAt 0 m (4 * i + 2)).extractLsb' 20 12 == BitVec.ofNat 4 stack ++ BitVec.ofNat 8 pch

/-- Attempts of a transfer whose first `f` attempts fail (R446). -/
def attempts (f : Nat) : Nat := min 5 (f + 1)

/-- The lane a lane test finds: one of the 34 that may be moved. -/
def burstLane (x : Burst) : Option Nat := match x.lane with
  | some l => if l.toNat < 34 then some l.toNat else none
  | none => none

/-- The lane test after a fourth failure (R446): a lane it finds is moved onto lane 34 if that is free, and the
swap is in the repair table first (R443). LANE of the log entry beside the state. -/
def State.laneTest (s : State) (stack pch : Nat) (x : Burst) : State × Nat :=
  if x.fails < 4 then (s, 63)
  else match burstLane x with
    | none => (s, 63)
    | some l =>
      if s.lane34Used stack pch then (s, 62)
      else ((s.addRepair 5 0 (repairWord2 stack pch l)).stackCount stack 3, l)

/-- Word 0 of a transfer-log entry (R448). EVENT is 2 for a transfer found uncorrectable, by its parity or, of a read, by
its array status, and for a write dropped. -/
def xferWord0 (pch : Nat) (write : Bool) (lane : Nat) (x : Burst) : Word :=
  let event : Nat := if x.fails ≥ 5 || (x.uncorrectable && !write) then 2 else if x.fails = 4 then 1 else 0
  (1 : BitVec 1) ++ (0 : BitVec 1) ++ BitVec.ofNat 8 pch ++ BitVec.ofNat 2 event ++ BitVec.ofBool write ++
    BitVec.ofNat 3 (attempts x.fails) ++ BitVec.ofNat 6 lane ++ x.half ++ (0 : BitVec 8)

/-- A transfer as the lanes in use show it: a lane that has been swapped onto lane 34 carries nothing, and what fails
there fails no transfer (R443, R446, R460). -/
def State.onLanes (s : State) (pa : Nat) (x : Burst) : Burst :=
  let at_ := BitVec.ofNat 4 (channelOf pa).1 ++ BitVec.ofNat 8 (channelOf pa).2
  let m := s.rel.repairs
  if (burstLane x).any fun l => (validRepairs m).any fun i => repairKind m i == 5 &&
      (getAt 0 m (4 * i + 2)).extractLsb' 14 18 == at_ ++ BitVec.ofNat 6 l
  then { x with fails := 0 } else x

/-- The bus side of a transfer (R446, R448): retries, lane test, swap, counters and log. -/
def State.busTransfer (s : State) (pa : Nat) (write : Bool) (x : Burst) : State :=
  let stack := (channelOf pa).1
  let pch := (channelOf pa).2
  if x.fails = 0 then s
  else
    let r := s.laneTest stack pch x
    (r.1.stackCount stack 1).logTransfer true pa (xferWord0 pch write r.2 x) (x.burst ++ x.beat ++ (0 : BitVec 22))

/-- The bytes of a half line, added to a list or taken out of it. -/
def markHalf (pa : Nat) (bad : Bool) (l : List Nat) : List Nat :=
  let base := pa / 64 * 64
  let rest := l.filter fun a => !(decide (base ≤ a) && decide (a < base + 64))
  if bad then rest ++ (List.range 64).map fun i => base + i else rest

/-- The L2 holds the half of a line as dirty: its bytes, and not the cells', are those that software reads (R470). -/
def State.halfDirty (s : State) (pa : Nat) : Bool :=
  s.l2.any fun x => x.line == pa / 128 && x.dirty.getLsbD (pa / 64 % 2)

/-- What a read transfer finds of the cells; software reads it where the L2 holds nothing newer (R446, R449). -/
def State.readMark (s : State) (pa : Nat) (bad : Bool) : State :=
  { s with rel := { s.rel with
    badCells := markHalf pa bad s.rel.badCells
    badBytes := if s.halfDirty pa then s.rel.badBytes else markHalf pa bad s.rel.badBytes } }

/-- Is an address in device memory (R206), and its group not fenced? -/
def State.reaches (s : State) (pa : Nat) : Bool := decide (pa < 2 ^ 40) && !s.groupFenced pa

/-- HBM_READ_TRANSFER (R437, R442, R445, R446, R448): the array log takes the status of the last attempt, corrected
only of a transfer that is delivered. -/
def execHbmReadTransfer (pa : Nat) (x : Burst) (s : State) : Out :=
  if !s.reaches pa then .next s
  else
    let stack := (channelOf pa).1
    let y := s.onLanes pa x
    let s1 := s.busTransfer pa false y
    let entry (s : State) (ue : Bool) : State := s.logTransfer false pa
      ((1 : BitVec 1) ++ (0 : BitVec 1) ++ BitVec.ofNat 8 (channelOf pa).2 ++ y.bank ++ y.row)
      (y.burst ++ y.bit ++ BitVec.ofBool ue ++ (0 : BitVec 16))
    let s2 := if y.uncorrectable then entry s1 true
      else if y.corrected && decide (y.fails < 5) then entry (s1.stackCount stack 0) false else s1
    let bad := decide (y.fails ≥ 5) || y.uncorrectable
    .next ((if bad then s2.stackCount stack 2 else s2).readMark pa bad)

/-- The half of an L2 line that a transfer writes is clean. -/
def State.cleanHalf (s : State) (pa : Nat) : State :=
  let half : BitVec 2 := if pa / 64 % 2 = 0 then 1 else 2
  { s with l2 := updFirst (fun x => x.line == pa / 128) (fun x => { x with dirty := x.dirty &&& ~~~half }) s.l2 }

/-- A write to a half line is dropped: its cells are as they were before it, and so is what software reads (R447). -/
def State.dropCells (s : State) (a : Nat) : State :=
  let old := (s.rel.writes.find? fun e => e.1 == a && !s.halfDirty a).map fun e => e.2
  let bs := (old.map fun e => e.1).getD (getRun 0 s.dram a 64)
  let cells := match old with
    | some e => outOfHalf a s.rel.badCells ++ e.2
    | none => s.rel.badCells
  { s with
    dram := setRun 0 s.dram a bs
    mem := setRun 0 s.mem a bs
    rel := { s.rel with badCells := cells, badBytes := outOfHalf a s.rel.badBytes ++ ofHalf a cells } }

/-- HBM_WRITE_TRANSFER (R447, R470): the transfer of a dirty half line, or of one written since it was last reported,
writes its cells with new array codes, or is dropped, when the old bytes stay. -/
def execHbmWriteTransfer (pa : Nat) (x : Burst) (s : State) : Out :=
  if !s.reaches pa then .next s
  else
    let a := pa / 64 * 64
    let y := s.onLanes pa x
    let s1 := s.busTransfer pa true y
    let s2 := (if y.fails ≥ 5 then (s1.stackCount (channelOf pa).1 2).dropCells a else s1.writeCells a).cleanHalf pa
    .next { s2 with rel := { s2.rel with writes := s2.rel.writes.filter fun e => e.1 != a } }

/-! ### Links and reset -/

/-- A link goes down of itself (R450, R451): kind 1 a Svacon port, 2 a die-to-die link, 3 an Ultra Ethernet
port. -/
def execLinkDown (kind num : Nat) (s : State) : Out :=
  if kind = 0 || kind > 3 then .next s
  else
    let s1 := if kind = 1 then s.updPort num fun p => { p with up := false } else s
    .next (s1.logError 6 .io [BitVec.ofNat 8 kind ++ BitVec.ofNat 24 num, 0, 0, 0])

/-- The repair table after a reset frees the entries REPAIRCLR has named (R444). -/
def keptRepairs (m : Words) : Words :=
  let gone := (m.filter fun e => e.1 % 4 == 0 && e.2.getLsbD 30).map fun e => e.1 / 4
  m.filter fun e => !gone.contains (e.1 / 4)

/-- A repair is applied to its core (R443). -/
def applyRepair (m : Words) (s : State) (i : Nat) : State :=
  let w1 := getAt 0 m (4 * i + 1)
  let core := (w1.extractLsb' 16 10).toNat
  let sub := (w1.extractLsb' 13 3).toNat
  let phys := (w1.extractLsb' 0 6).toNat
  match repairKind m i with
  | 1 => s.updCore core fun k => k.setRepair sub (spareByte (k.repairByte sub) phys)
  | 2 => s.updCore core fun k => k.setRepair 6 (spareByte (k.repairByte 6) phys)
  | 3 => s.updCore core fun k => (k.setRepair sub (k.repairByte sub ||| 0x80)).fence 2 sub
  | 4 => s.updCore core fun k => (k.setRepair 6 (k.repairByte 6 ||| 0x80)).fence 3 0
  | _ => s

/-- A byte of memory that the reset leaves undefined (R453; log 9): one free value for each listed byte. -/
def forgetBytes (n : Nat) (m : Memory) : Memory :=
  m.foldl (fun acc e => setAt 0 acc e.1 (Config.freeByte n (e.1))) m

/-- RESET (R443, R444, R450, R453): the repair table and the error log are kept, and the table is applied;
everything else is as reset leaves it, and the contents of memory are not given. -/
def execReset (s : State) : Out :=
  let reps := keptRepairs s.rel.repairs
  let r := State.reset
  let mem := forgetBytes s.free s.mem
  let s1 : State := { r with
    agenda := s.agenda
    free := s.free + 1
    mem := mem
    dram := mem
    hostMem := s.hostMem
    mgmt := { r.mgmt with running := s.mgmt.running }
    rel := { r.rel with repairs := reps, errLog := s.rel.errLog, errNext := s.rel.errNext } }
  .next ((validRepairs reps).foldl (applyRepair reps) s1)

/-- MCHK_ENTRY_FREE (R27): writing 1 to VALID frees an entry; the others are not moved. -/
def execMchkEntryFree (core j : Nat) (s : State) : Out :=
  let clear (r : List Word) : List Word := match r with
    | w :: t => (w &&& 0x7FFFFFFF) :: t
    | [] => []
  .next (s.updCore core fun k => { k with mchk := updIdx j clear k.mchk })

/-- LOG_ENTRY_FREE (R448). -/
def execLogEntryFree (stack : Nat) (xfer : Bool) (j : Nat) (s : State) : Out :=
  if stack ≥ 16 || j ≥ 64 then .next s
  else
    let m := s.logWords xfer
    let at_ := logBase stack + 4 * j
    .next (s.setLogWords xfer (setAt 0 m at_ (getAt 0 m at_ &&& 0x7FFFFFFF)))

end Sys2Proof.Machine
end

