-- ==== Sys2Proof/Machine/Manage.lean ====
section
/-! DEFINITION. The management controller (20, R451-R453; 22, R461-R469; and the commands of R322, R328, R361,
R377-R381, R386, R387, R409, R415): the management space, the commands of R464, and what the platform does
to the device. -/

namespace Sys2Proof.Machine

open Sys2Proof

/-! ### Clocks and firmware -/

/-- A die's clock in MHz (R462, R469). -/
def State.clockOf (s : State) (die : Nat) : Nat := getAt 3300 s.mgmt.clk die

/-- The ceiling CLOCK has set for a die (R462). -/
def State.ceilingOf (s : State) (die : Nat) : Nat := getAt 3300 s.mgmt.ceiling die

/-- Set a die's clock: the cycles counted so far stay counted (R2, R462). -/
def State.setClock (s : State) (die mhz : Nat) : State :=
  if s.clockOf die = mhz then s
  else { s with mgmt := { s.mgmt with
    clk := setAt 3300 s.mgmt.clk die mhz
    clkMarks := { die := die, time := s.now, count := s.dieCycles die, mhz := mhz } :: s.mgmt.clkMarks } }

/-- What the sensors read: module power, the hottest sensor of a die (8 the I/O die), the coolant inlet (R462, R469). -/
def State.sense (s : State) (die : Nat) (x : Reading) : State :=
  { s with mgmt := { s.mgmt with
    power := BitVec.ofNat 32 x.power
    temp := setAt 0 s.mgmt.temp die x.temp
    coolin := BitVec.ofNat 32 x.coolin } }

/-- The device throttles: module power above 3,600 W, or a die sensor above 105 °C (R462). -/
def State.throttles (s : State) : Bool :=
  decide (s.mgmt.power.toNat > 3600000) || s.mgmt.temp.any fun e => decide (e.2 > 105)

/-- THROTTLE_STEP (R462, R469): the sensors are read, and the die's clock follows the condition; the I/O die has
no clock that is throttled. -/
def execThrottleStep (die : Nat) (x : Reading) (s : State) : Out :=
  if die > 8 then .next s
  else
    let s1 := s.sense die x
    if die = 8 then .next s1
    else if s1.throttles then .next (s1.setClock die (max 1200 (s1.clockOf die - 100)))
    else .next (s1.setClock die (min (s1.ceilingOf die) (s1.clockOf die + 100)))

/-- CLOCK (R462): a die that is not throttled runs at its new ceiling, one that is goes on from its clock. -/
def execClock (tag die mhz : Nat) (s : State) : Out :=
  runCommand s [0x52, tag, die, mhz] fun s =>
    if die > 7 || mhz < 1200 || mhz > 3300 then some (s.respond 0x52 tag .badArg [])
    else
      let s1 : State := { s with mgmt := { s.mgmt with ceiling := setAt 3300 s.mgmt.ceiling die mhz } }
      some ((s1.setClock die (if s.clockOf die < s.ceilingOf die then min mhz (s.clockOf die) else mhz)).respond 0x52 tag .done [])

/-- A firmware image is accepted (R467): its key is the fused one, its VERSION not below the fused minimum, and its
signature over its SHA-256 digest is good. Where these lie in the image is open (log 21). -/
def imageAccepted (image : List Byte) : Bool :=
  let key := (Config.imageKey image).toList
  sha256 key == Config.fusedKey && decide (Config.fusedVersion ≤ Config.imageVersion image) &&
    ecdsaGood (bigNat (key.take 32), bigNat (key.drop 32)) (Config.imageSignature image) (bigNat (sha256 (Config.imageBody image)))

/-- FWUPDATE (R467): BADSIG, and the running image unchanged, for an image that is not accepted. -/
def execFwupdate (tag : Nat) (addr : BitVec 64) (len : Nat) (s : State) : Out :=
  runCommand s [0x50, tag, addr.toNat, len] fun s =>
    let image := getRun 0 s.hostMem addr.toNat len
    if imageAccepted image then
      some (({ s with mgmt := { s.mgmt with images := s.mgmt.images ++ [(Config.imageUnit image, image)] } } : State).respond
        0x50 tag .done [])
    else some (s.respond 0x50 tag .badSig [])

/-- FIRMWARE_ACTIVATE (R452, R467): the newest accepted image of a unit takes effect. -/
def execFirmwareActivate (unit : Nat) (s : State) : Out :=
  match s.mgmt.images.reverse.find? fun e => e.1 == unit with
  | none => .next s
  | some e => .next { s with mgmt := { s.mgmt with
      images := s.mgmt.images.filter (fun x => x.1 != unit)
      running := e :: s.mgmt.running.filter fun x => x.1 != unit } }

/-- Bytes of a digest or signature, most significant first. -/
def bigBytes (n : Nat) (x : Nat) : List Byte := (leBytes n x).reverse

/-- The measurement of unit 0, the boot code, or 1, the controller firmware: of the image that has taken effect in it, or
of what the device is made with (R467, R468; log 21). -/
def State.measured (s : State) (unit : Nat) : List Byte := match s.mgmt.running.find? fun e => e.1 == unit with
  | some e => sha256 e.2
  | none => bigBytes 32 (Config.measurement unit).toNat

/-- The images that run in further units (R468). -/
def State.unitImages (s : State) : List (Nat × List Byte) := s.mgmt.running.filter fun e => decide (1 < e.1)

/-- The router table as its bytes lie in the management space (R361, R465). -/
def State.routerBytes (s : State) : List Byte := (List.range Config.nDevices).flatMap fun d => leBytes 16 (s.route d).toNat

/-- An attestation report (R468); its signature is not given by the spec (log 21). -/
def State.report (s : State) (nonce : List Byte) : List Byte :=
  let entries := [(0, s.measured 0), (1, s.measured 1), (2, sha256 s.routerBytes)] ++
    s.unitImages.map fun e => (3, sha256 e.2)
  let body := leBytes 4 1 ++ leBytes 4 entries.length ++ nonce ++ entries.flatMap fun e => leBytes 4 e.1 ++ e.2
  body ++ bigBytes 64 (Config.identitySign (sha256 body)).toNat

/-- ATTEST (R468). -/
def execAttest (tag : Nat) (nonce : List (BitVec 8)) (s : State) : Out :=
  runCommand s (0x51 :: tag :: nonce.map BitVec.toNat) fun s =>
    if nonce.length ≠ 32 then some (s.respond 0x51 tag .badArg [])
    else some (s.respond 0x51 tag .done (bytesWords (s.report nonce)))

/-! ### The management space -/

/-- A context's descriptor as words (R322). -/
def Ctx.descriptor (x : Ctx) : List Word :=
  let phase : Nat := match x.phase with
    | .active => 0
    | .draining => 1
    | .cutting => 2
    | .resetting => 3
    | .preempted => 4
  padTo 0 32 (splitW x.root ++ splitW x.toktab ++ splitW x.trapArea ++ [BitVec.ofNat 32 x.trapSize, BitVec.ofNat 32 x.deadline] ++
    splitW x.pocket ++ [BitVec.ofNat 32 x.frames, BitVec.ofNat 32 phase] ++ splitW x.cutArea ++ splitW x.cutSize)

/-- A word of the reliability status block (R27, R441, R442). -/
def State.relWord (s : State) (o : Nat) : Word :=
  if o < 0x3000 then
    let k := s.core (o / 16)
    match o % 16 / 4 with
    | 0 => k.strike
    | 1 => k.replay
    | 2 => k.repairByte 3 ++ k.repairByte 2 ++ k.repairByte 1 ++ k.repairByte 0
    | _ => (0 : BitVec 8) ++ k.repairByte 6 ++ k.repairByte 5 ++ k.repairByte 4
  else if o < 0x3090 then (if o % 16 < 12 then getAt 0 s.rel.die (4 * ((o - 0x3000) / 16) + o % 16 / 4) else 0)
  else if o < 0x3100 then 0
  else if o < 0x3200 then getAt 0 s.rel.stack ((o - 0x3100) / 4)
  else if o < 0x4000 then 0
  else (mchkEntry (s.core ((o - 0x4000) / 64)).mchk (o % 64 / 16)).getD (o % 16 / 4) 0

/-- A word of the telemetry block (R469). -/
def State.teleWord (s : State) (o : Nat) : Word :=
  if o = 0 then s.mgmt.power
  else if o ≤ 0x24 then
    let d := o / 4 - 1
    BitVec.ofNat 16 (s.clockOf d) ++ BitVec.ofNat 16 (getAt 0 s.mgmt.temp d)
  else match o with
    | 0x28 => s.mgmt.coolin
    | 0x2C => BitVec.ofNat 32 s.mgmt.svTimeout
    | 0x30 => BitVec.ofNat 32 (65536 * s.mgmt.recLim + s.mgmt.reqLim)
    | 0x34 => BitVec.ofNat 32 s.mgmt.freezeMask.toNat
    | 0x38 => s.mgmt.ownId
    | _ => 0

/-- The 32-bit word at an offset of the management space (R465); offsets the map does not list read as zero. -/
def State.spaceWord (s : State) (o : Nat) : Word :=
  if o < 0x10000 then s.relWord o
  else if o < 0x10100 then (if o = 0x10000 || o ≥ 0x10038 then 0 else getAt 0 s.sv.counters ((o - 0x10000) / 4))
  else if o < 0x10200 then (if o < 0x1011C then getAt 0 s.mantle.counters ((o - 0x10100) / 4) else 0)
  else if o < 0x20000 then s.teleWord (o - 0x10200)
  else if o < 0x22000 then
    match s.ctxs.find? fun x => x.id == (o - 0x20000) / 128 with
    | some x => x.descriptor.getD (o % 128 / 4) 0
    | none => (Ctx.fresh ((o - 0x20000) / 128)).descriptor.getD (o % 128 / 4) 0
  else if o < 0x40000 then 0
  else if o < 0x48000 then
    let e := getAt 0 s.sv.windows ((o - 0x40000) / 8)
    if o % 8 = 0 then e.extractLsb' 0 32 else e.extractLsb' 32 32
  else if o < 0x80000 then 0
  else if o < 0x83E10 then (s.route ((o - 0x80000) / 16)).extractLsb' (8 * (o % 16)) 32
  else if o < 0xC0000 then 0
  else if o < 0x100000 then getAt 0 s.mantle.peers ((o - 0xC0000) / 4)
  else if o < 0x100040 then (if o = 0x100000 then s.rel.errNext else 0)
  else if o < 0x120040 then getAt 0 s.rel.errLog ((o - 0x100040) / 4)
  else if o < 0x200000 then 0
  else if o < 0x220000 then
    let h := (o - 0x200000) / 0x2000
    let r := (o - 0x200000) % 0x2000
    if r < 0x400 then getAt 0 s.rel.arrayLog (256 * h + r / 4)
    else if r < 0x800 then getAt 0 s.rel.xferLog (256 * h + (r - 0x400) / 4) else 0
  else if o < 0x300000 then 0
  else if o < 0x340010 then
    if o = 0x300000 then BitVec.ofNat 32 (validRepairs s.rel.repairs).length
    else if o < 0x300010 then 0 else getAt 0 s.rel.repairs ((o - 0x300010) / 4)
  else 0

/-- MREAD (R464, R465). -/
def execMread (tag off n : Nat) (s : State) : Out :=
  runCommand s [0x01, tag, off, n] fun s =>
    if off % 4 ≠ 0 || n > 1023 then some (s.respond 0x01 tag .badArg [])
    else some (s.respond 0x01 tag .done ((List.range n).map fun i => s.spaceWord (off + 4 * i)))

/-- A free of W1C: VALID is cleared by writing 1 to it. -/
def w1cValid (old v : Word) : Word := if v.getLsbD 31 then old &&& 0x7FFFFFFF else old

/-- Writing a word of the reliability status block: the counters, and VALID of machine-check records. -/
def State.relWrite (s : State) (o : Nat) (v : Word) : State :=
  if o < 0x3000 then
    match o % 16 / 4 with
    | 0 => s.updCore (o / 16) fun k => { k with strike := v }
    | 1 => s.updCore (o / 16) fun k => { k with replay := v }
    | _ => s
  else if o < 0x3090 then
    (if o % 16 < 12 then { s with rel := { s.rel with die := setAt 0 s.rel.die (4 * ((o - 0x3000) / 16) + o % 16 / 4) v } } else s)
  else if o < 0x3100 then s
  else if o < 0x3200 then { s with rel := { s.rel with stack := setAt 0 s.rel.stack ((o - 0x3100) / 4) v } }
  else if o < 0x4000 || o % 16 ≠ 0 then s
  else
    let clear (r : List Word) : List Word := match r with
      | w :: t => w1cValid w v :: t
      | [] => []
    s.updCore ((o - 0x4000) / 64) fun k => { k with mchk := updIdx (o % 64 / 16) clear k.mchk }

/-- A limit that is granted changes: a change that the next TOTALS reports (R371). -/
def Totals.setLimit (t : Totals) (now n : Nat) : Totals :=
  if t.limit = n then t else { t with limit := n, changed := some (t.changed.getD now) }

/-- Limits that classes have been granted follow a change of REQLIM or RECLIM (R370). -/
def State.relimit (s : State) (req rcl : Nat) : State :=
  { s with
    mgmt := { s.mgmt with reqLim := req, recLim := rcl }
    sv := { s.sv with totals := s.sv.totals.map fun t =>
      if t.cls = 0 then t.setLimit s.svNow req else if t.cls = 2 then t.setLimit s.svNow rcl else t } }

/-- Writing a word of the telemetry and configuration block (R469); the router's LFSR is seeded from the own id
(R362). -/
def State.teleWrite (s : State) (o : Nat) (v : Word) : State := match o with
  | 0x2C => { s with mgmt := { s.mgmt with svTimeout := (v.extractLsb' 0 5).toNat } }
  | 0x30 => s.relimit (v.extractLsb' 0 9).toNat (v.extractLsb' 16 9).toNat
  | 0x34 => { s with mgmt := { s.mgmt with freezeMask := v.extractLsb' 0 8 } }
  | 0x38 => { s with
      mgmt := { s.mgmt with ownId := v }
      sv := { s.sv with lfsr := BitVec.ofNat 16 ((v.extractLsb' 0 10).toNat + 1) } }
  | _ => s

/-- A written value breaks the limits of its field (R370, R469). -/
def fieldBad (o : Nat) (v : Word) : Bool := match o with
  | 0x1022C => decide ((v.extractLsb' 0 5).toNat < 16) || decide ((v.extractLsb' 0 5).toNat > 28)
  | 0x10230 => decide ((v.extractLsb' 0 9).toNat < 8) || decide ((v.extractLsb' 0 9).toNat > 256)
  | _ => false

/-- Write the word at an offset of the management space; what is RO, or not listed, ignores it (R464, R465). -/
def State.spaceWrite (s : State) (o : Nat) (v : Word) : State :=
  if o < 0x10000 then s.relWrite o v
  else if o < 0x10100 then
    (if o = 0x10000 || o ≥ 0x10038 then s
      else { s with sv := { s.sv with counters := setAt 0 s.sv.counters ((o - 0x10000) / 4) v } })
  else if o < 0x10200 then
    (if o < 0x1011C then { s with mantle := { s.mantle with counters := setAt 0 s.mantle.counters ((o - 0x10100) / 4) v } } else s)
  else if o < 0x20000 then s.teleWrite (o - 0x10200) v
  else if 0x200000 ≤ o && o < 0x220000 && o % 16 = 0 then
    let h := (o - 0x200000) / 0x2000
    let r := (o - 0x200000) % 0x2000
    if r < 0x400 then s.setLogWords false (setAt 0 s.rel.arrayLog (256 * h + r / 4) (w1cValid (getAt 0 s.rel.arrayLog (256 * h + r / 4)) v))
    else if r < 0x800 then
      s.setLogWords true (setAt 0 s.rel.xferLog (256 * h + (r - 0x400) / 4) (w1cValid (getAt 0 s.rel.xferLog (256 * h + (r - 0x400) / 4)) v))
    else s
  else s

/-- MWRITE (R464, R465). -/
def execMwrite (tag off : Nat) (ws : List (BitVec 32)) (s : State) : Out :=
  runCommand s (0x02 :: tag :: off :: ws.map BitVec.toNat) fun s =>
    let at_ := ws.zipIdx.map fun e => (off + 4 * e.2, e.1)
    if off % 4 ≠ 0 || ws.length > 1023 || at_.any fun e => fieldBad e.1 e.2 then some (s.respond 0x02 tag .badArg [])
    else some ((at_.foldl (fun s e => s.spaceWrite e.1 e.2) s).respond 0x02 tag .done [])

/-! ### Contexts -/

/-- Word k of a descriptor. -/
def dw (d : List Word) (k : Nat) : Word := d.getD k 0
/-- The 64-bit field whose low word is word k. -/
def dq (d : List Word) (k : Nat) : BitVec 64 := dw d (k + 1) ++ dw d k

/-- An address of a descriptor that is below 2^40 and a multiple of `al` (R322). -/
def paOk (a : BitVec 64) (al : Nat) : Bool := decide (a.toNat < Config.paLimit) && a.toNat % al == 0

/-- A field of a descriptor shown as zero is not zero (R322). -/
def descZeroBad (d : List Word) : Bool :=
  (dw d 6).extractLsb' 5 27 != 0 || (dw d 7).extractLsb' 6 26 != 0 || (dw d 10).extractLsb' 16 16 != 0 ||
    (d.drop 16).any fun w => w != 0

/-- The fields of a descriptor with a ROOT are within their limits (R322). -/
def descOk (d : List Word) : Bool :=
  paOk (dq d 0) 65536 && paOk (dq d 2) 32768 && paOk (dq d 4) 1024 &&
    decide (4 ≤ (dw d 6).toNat) && decide ((dw d 6).toNat ≤ 12) && decide (20 ≤ (dw d 7).toNat) && decide ((dw d 7).toNat ≤ 40) &&
    paOk (dq d 8) 65536 && paOk (dq d 12) 256

/-- A context takes the fields of a descriptor; STATE is read-only. -/
def Ctx.takeDesc (x : Ctx) (d : List Word) : Ctx :=
  { x with
    root := dq d 0, toktab := dq d 2, trapArea := dq d 4, trapSize := (dw d 6).toNat, deadline := (dw d 7).toNat,
    pocket := dq d 8, frames := (dw d 10).toNat, cutArea := dq d 12, cutSize := dq d 14 }

/-- Teardown (R322): launches end without records, communicators retire, the work-record area is freed. -/
def State.tearDown (s : State) (cx : Nat) : State :=
  let ls := s.launches.filter fun l => l.ctx == cx
  let s1 := ls.foldl (fun s l => s.dropPacket l.queue) s
  let s2 : State := { s1 with
    launches := s1.launches.filter fun l => l.ctx != cx
    cores := s1.cores.map fun k => { k with pending := k.pending.filter fun e => !(ls.any fun l => l.uid == e.1) } }
  let s3 := (s2.mantle.comms.filter fun c => c.ctx == cx).foldl (fun s c => s.retireComm c.id) s2
  s3.setCtx cx fun x =>
    { Ctx.fresh cx with rbase := x.rbase, rsize := x.rsize, rprod := x.rprod, rcons := x.rcons, keys := x.keys,
                        nextHandle := x.nextHandle }

/-- CTXWRITE (R322, R464). -/
def execCtxwrite (tag cx : Nat) (desc : List (BitVec 32)) (s : State) : Out :=
  runCommand s (0x10 :: tag :: cx :: desc.map BitVec.toNat) fun s =>
    let allowed := match s.ctx? cx with
      | none => true
      | some x => x.phase == .preempted
    let zero := dq desc 0 == 0
    if cx ≥ 64 || desc.length ≠ 32 then some (s.respond 0x10 tag .badArg [])
    else if !allowed || descZeroBad desc then some (s.respond 0x10 tag .refused [])
    else if zero then
      if (s.ctx? cx).isSome then some ((s.tearDown cx).respond 0x10 tag .done []) else some (s.respond 0x10 tag .done [])
    else if !descOk desc then some (s.respond 0x10 tag .badArg [])
    else
      let fresh := (s.ctx? cx).isNone
      some ((s.setCtx cx fun x =>
        { x.takeDesc desc with phase := if fresh then .active else x.phase }).respond 0x10 tag .done [])

/-- A cached leaf of a context overlaps a range; a length of 0 names every one (R328). -/
def TlbEntry.within (t : TlbEntry) (cx : Nat) (base len : BitVec 64) : Bool :=
  let size := if t.big then 2 ^ 29 else 2 ^ 16
  let b := base.toNat % 2 ^ 55
  t.ctx == cx && (len == 0 || (decide (t.page * size < b + len.toNat) && decide (b < (t.page + 1) * size)))

/-- Does an access of `n` bytes at `a` lie in a range? -/
def inRange (base len : BitVec 64) (a : Addr) (n : Nat) : Bool :=
  len == 0 || (decide (a.toNat < base.toNat + len.toNat) && decide (base.toNat < a.toNat + n))

/-- A wave has accesses in a range that have not left the core's queues, or are not performed there (R328). -/
def Wave.uses (w : Wave) (base len : BitVec 64) : Bool :=
  let hit (e : Effect) : Bool := match e with
    | .store _ lanes _ _ => lanes.any fun x => inRange base len x.2.1 x.2.2.length
    | .atom _ _ _ lanes _ _ _ => lanes.any fun x => inRange base len x.2.1 4
    | _ => false
  (w.sq.any fun e => hit e.2) || w.atoms.any hit

/-- A request that an access of a context has made through its page tables, and that is not answered: loads, posted
writes, copies, ray queries, WAITV, code, launches and the Mantle's (R328, R381). -/
def Request.translated (r : Request) (cx : Nat) : Bool := r.ctx == cx && r.count != 0

/-- INVALIDATE (R328): complete once no cached leaf of the range is left and every access translated through
one is done. A request to another device is waited for whatever its address (log 48). -/
def execInvalidate (tag cx : Nat) (base len : BitVec 64) (s : State) : Out :=
  runLong s [0x15, tag, cx, base.toNat, len.toNat] fun s =>
    if cx ≥ 64 then (s.respond 0x15 tag .badArg [], true)
    else
      let s1 : State := { s with tlb := s.tlb.filter fun t => !t.within cx base len }
      let busy := (s.blocks.any fun b => b.ctx == cx && b.waves.any fun w => w.uses base len) ||
        (s.sv.tags.any fun t => t.req.translated cx) || s.sv.egress.any fun q => q.req.any fun r => r.translated cx
      if busy then (s1, false) else (s1.respond 0x15 tag .done [], true)

/-- RECAREA (R415). -/
def execRecarea (tag cx : Nat) (addr : BitVec 64) (slots : Nat) (s : State) : Out :=
  runCommand s [0x22, tag, cx, addr.toNat, slots] fun s =>
    if cx ≥ 64 || slots = 0 || slots > 4096 then some (s.respond 0x22 tag .badArg [])
    else if (s.ctx? cx).isNone then some (s.respond 0x22 tag .refused [])
    else some ((s.updCtx cx fun x => { x with recAddr := addr, recSlots := slots, credits := [] }).respond 0x22 tag .done [])

/-- KEYSET (R466). -/
def execKeyset (tag cx slot : Nat) (key : BitVec 128) (s : State) : Out :=
  runCommand s [0x30, tag, cx, slot, key.toNat] fun s =>
    if cx ≥ 64 || slot > 1 then some (s.respond 0x30 tag .badArg [])
    else some ((s.setCtx cx fun x => { x with keys := (slot, key) :: x.keys.filter fun e => e.1 != slot }).respond 0x30 tag .done [])

/-- KEYEMPTY (R466). -/
def execKeyempty (tag cx slot : Nat) (s : State) : Out :=
  runCommand s [0x31, tag, cx, slot] fun s =>
    if cx ≥ 64 || slot > 1 then some (s.respond 0x31 tag .badArg [])
    else some ((s.setCtx cx fun x => { x with keys := x.keys.filter fun e => e.1 != slot }).respond 0x31 tag .done [])

/-! ### Tokens, windows and routes -/

/-- The low 40 bits of a token (R377). -/
def tokenBody (rights expiry slot win ext sub : Nat) : BitVec 40 :=
  BitVec.ofNat 4 rights ++ BitVec.ofNat 11 expiry ++ BitVec.ofNat 1 slot ++ BitVec.ofNat 12 win ++ BitVec.ofNat 6 ext ++ BitVec.ofNat 6 sub

/-- MINT (R377, R380, R381): under the owner's key slot that was filled last (log 29). -/
def execMint (tag dev cx rights win ext sub life : Nat) (s : State) : Out :=
  runCommand s [0x32, tag, dev, cx, rights, win, ext, sub, life] fun s =>
    if dev > 992 || cx ≥ 64 || rights ≥ 16 || win ≥ 4096 || ext ≥ 64 || sub ≥ 64 || life ≥ 1024 then
      some (s.respond 0x32 tag .badArg [])
    else
      let e := getAt 0 s.sv.windows win
      match (s.ctxs.find? fun x => x.id == winOwner e).bind fun x => x.keys.head? with
      | none => some (s.respond 0x32 tag .refused [])
      | some k =>
        if !winValid e then some (s.respond 0x32 tag .refused [])
        else if ext < 16 || ext > winSize e || (sub + 1) * 2 ^ ext > 2 ^ winSize e then some (s.respond 0x32 tag .badArg [])
        else
          let body := tokenBody rights ((s.sv.tick.toNat + life) % 2048) k.1 win ext sub
          let t : BitVec 64 := tokenMac k.2 (body.zeroExtend 64) dev s.own cx ++ body
          some (s.respond 0x32 tag .done (splitW t))

/-- WINDOW (R378). -/
def execWindow (tag idx : Nat) (entry : BitVec 64) (s : State) : Out :=
  runCommand s [0x33, tag, idx, entry.toNat] fun s =>
    let limits := !winValid entry || (decide (16 ≤ winSize entry) && decide (winSize entry ≤ 40) &&
      winBase entry % 2 ^ winSize entry == 0)
    if idx ≥ 4096 || entry.extractLsb' 40 11 != 0 || entry.extractLsb' 0 16 != 0 || !limits then
      some (s.respond 0x33 tag .badArg [])
    else
      let s1 : State := { s with sv := { s.sv with windows := setAt 0 s.sv.windows idx entry } }
      some (s1.respond 0x33 tag .done [])

/-- ROUTE (R361, R452). -/
def execRoute (tag dst : Nat) (entry : BitVec 128) (s : State) : Out :=
  runCommand s [0x42, tag, dst, entry.toNat] fun s =>
    if dst > 992 || entry.extractLsb' 96 32 != 0 then some (s.respond 0x42 tag .badArg [])
    else
      let s1 : State := { s with sv := { s.sv with router := setAt 0 s.sv.router dst entry } }
      some (s1.pump.respond 0x42 tag .done [])

/-- A field of a UET peer entry shown as zero is not zero (R409). -/
def uetZeroBad (e : List Word) : Bool :=
  let v4 := !(dw e 0).getLsbD 30
  (dw e 0).extractLsb' 0 28 != 0 || (dw e 1).extractLsb' 24 8 != 0 || (dw e 6).extractLsb' 12 4 != 0 ||
    (dw e 6).extractLsb' 28 4 != 0 || (dw e 7).extractLsb' 16 16 != 0 || (dw e 9).extractLsb' 28 4 != 0 ||
    dw e 14 != 0 || dw e 15 != 0 || (v4 && ((List.range 3).any fun k => dw e (2 + k) != 0 || dw e (10 + k) != 0))

/-- A communicator that is not quiescent names a UET peer endpoint (R409). -/
def State.peerNamed (s : State) (idx : Nat) : Bool :=
  s.mantle.comms.any fun c => c.uet && c.phase != .quiescent && c.members.contains idx

/-- UETPEER (R409). -/
def execUetpeer (tag idx : Nat) (entry : List (BitVec 32)) (s : State) : Out :=
  runCommand s (0x23 :: tag :: idx :: entry.map BitVec.toNat) fun s =>
    if idx ≥ 4096 || entry.length ≠ 16 || uetZeroBad entry then some (s.respond 0x23 tag .badArg [])
    else if s.peerNamed idx then some (s.respond 0x23 tag .refused [])
    else
      let s1 : State := { s with mantle := { s.mantle with peers := setRun 0 s.mantle.peers (16 * idx) entry } }
      some (s1.respond 0x23 tag .done [])

/-! ### Communicators -/

/-- Bytes `o .. o+n-1` of a record as a number. -/
def fieldNat (r : List Byte) (o n : Nat) : Nat := leNat ((r.drop o).take n)

/-- The fields of a communicator record that need no other read (R386). -/
def commFieldsOk (r : List Byte) (cx : Nat) : Bool :=
  let n := fieldNat r 4 2
  let uet := fieldNat r 9 1 == 1
  let slice := fieldNat r 13 1
  let base := fieldNat r 32 8
  decide (1 ≤ n) && decide (n ≤ 993) && decide (fieldNat r 6 2 < n) && decide (fieldNat r 8 1 ≤ 7) && decide (fieldNat r 9 1 ≤ 1) &&
    decide (2 ≤ fieldNat r 10 2) && decide (fieldNat r 10 2 ≤ 1024) && fieldNat r 12 1 == cx &&
    (slice == 0 || (decide (12 ≤ slice) && decide (slice ≤ 30))) && decide (fieldNat r 14 2 < 8) && (uet || fieldNat r 14 2 == 0) &&
    fieldNat r 16 8 % 4 == 0 && fieldNat r 24 8 % 8 == 0 && (!uet || fieldNat r 24 8 == 0) && base % 4096 == 0 &&
    (base == 0) == (slice == 0) && ((r.drop 40).all fun b => b == 0)

/-- A MEMBERS entry that may stand (R386, R409). -/
def State.memberOk (s : State) (uet : Bool) (m : Nat) : Bool :=
  if uet then decide (m < 4096) && (getAt 0 s.mantle.peers (16 * m)).getLsbD 31 else decide (m ≤ 992)

/-- The communicator that a record with its MEMBERS and TOKENS describes, with the id it would take (R386, R387). -/
def State.commWith (s : State) (cx : Nat) (r ms ts : List Byte) : Option Comm := do
  let n := fieldNat r 4 2
  let uet := fieldNat r 9 1 == 1
  let members := (List.range n).map fun k => fieldNat ms (4 * k) 4
  let owned := s.mantle.comms.foldl (fun t c => t + c.minChunks) 0
  let id ← (List.range 64).find? fun k => (s.comm? k).isNone
  if !(members.all fun m => s.memberOk uet m) || (!uet && members.getD (fieldNat r 6 2) 0 != s.own) ||
      owned + fieldNat r 10 2 > Config.nChunks then none
  else
    some { id := id, gen := getAt 0 s.mantle.gens id, phase := .active, nranks := n, rank := fieldNat r 6 2,
           prio := fieldNat r 8 1, uet := uet, minChunks := fieldNat r 10 2, ctx := cx, rxSlice := fieldNat r 13 1,
           tclass := fieldNat r 14 2, members := members,
           tokens := (List.range n).map fun k => BitVec.ofNat 64 (fieldNat ts (8 * k) 8),
           rxBase := BitVec.ofNat 64 (fieldNat r 32 8), opseq := 0, sendSeq := [], queue := [], run := none, sends := [],
           awaits := [], inbox := [], readySince := none, raise := 0, sendPos := [], recvPos := [], recvBad := [], past := [], exchanges := [],
           ends := [], abortNext := false }

/-- The reads of COMMCREATE, key 64, each through the page tables (R386): the communicator, none when it is refused, or
the sectors of another device to be read first. -/
def State.commOf (s : State) (cx : Nat) (rec : BitVec 64) : Except (List (Nat × Nat × Nat)) (State × Option Comm) := do
  match ← s.ctxRead 64 cx rec 64 with
  | (s1, none) => return (s1, none)
  | (s1, some r) =>
    let n := fieldNat r 4 2
    if !commFieldsOk r cx then return (s1, none)
    else match ← s1.ctxRead 64 cx (BitVec.ofNat 64 (fieldNat r 16 8)) (4 * n) with
      | (s2, none) => return (s2, none)
      | (s2, some ms) =>
        let tokens := if fieldNat r 9 1 == 1 then .ok (s2, some []) else s2.ctxRead 64 cx (BitVec.ofNat 64 (fieldNat r 24 8)) (8 * n)
        match ← tokens with
        | (s3, none) => return (s3, none)
        | (s3, some ts) => return (s3, s3.commWith cx r ms ts)

/-- A new communicator: its class has the limit of its partition from now on (R370, R371, R398). -/
def State.addComm (s : State) (c : Comm) : State :=
  { s with
    mantle := { s.mantle with comms := s.mantle.comms ++ [c] }
    sv := { s.sv with totals := s.sv.totals.map fun t =>
      if t.cls = 64 + c.id then t.setLimit s.svNow (256 * c.minChunks) else t } }

/-- COMMCREATE (R386, R387, R398): the class of the communicator has the limit of its partition. -/
def execCommcreate (tag cx : Nat) (rec : BitVec 64) (s : State) : Out :=
  runLong s [0x20, tag, cx, rec.toNat] fun s =>
    if cx ≥ 64 || rec.toNat % 64 ≠ 0 then (s.respond 0x20 tag .badArg [], true)
    else if (s.ctx? cx).isNone then (s.respond 0x20 tag .refused [], true)
    else match s.commOf cx rec with
      | .error asks => (s.mantleAsk 64 cx asks, false)
      | .ok (s1, none) => ((s1.mantleDone 64).respond 0x20 tag .refused [], true)
      | .ok (s1, some c) => (((s1.mantleDone 64).addComm c).respond 0x20 tag .done [BitVec.ofNat 32 c.word], true)

/-- COMMRETIRE (R387). -/
def execCommretire (tag id : Nat) (s : State) : Out :=
  runCommand s [0x21, tag, id] fun s =>
    if id ≥ 64 then some (s.respond 0x21 tag .badArg [])
    else match s.comm? id with
      | some c => if c.phase = .active then some ((s.retireComm id).respond 0x21 tag .done [])
          else some (s.respond 0x21 tag .refused [])
      | none => some (s.respond 0x21 tag .refused [])

/-! ### Fences -/

/-- A part that FENCE may name (R451): kind and number (log 32). -/
def partOk (kind part : Nat) : Bool := match kind with
  | 1 => decide (part < Config.nCores)
  | 2 => decide (part < Config.nSub * Config.nCores)
  | 3 => decide (part < Config.nCores)
  | 4 => decide (part < 256)
  | 5 => decide (part < 32)
  | 6 => part == 0
  | _ => false

/-- The ports that a kind names. -/
def portsOf (kind part : Nat) : List Nat := if kind = 6 then List.range 32 else [part]

/-- Dirty halves of L2 lines homed in a pseudo-channel group are written back (R451). -/
def State.cleanGroup (s : State) (g : Nat) : State :=
  let halves := s.l2.flatMap fun x => ((List.range 2).filter fun i => x.dirty.getLsbD i).map fun i => x.line * 128 + 64 * i
  (halves.filter fun pa => 16 * (channelOf pa).1 + (channelOf pa).2 / 12 == g).foldl (fun s pa =>
    { s.cleanHalf pa with dram := setRun 0 s.dram pa (getRun 0 s.mem pa 64) }) s

/-- The part is fenced already. -/
def State.isFenced (s : State) (kind part : Nat) : Bool := match kind with
  | 1 => (s.core part).fenced
  | 2 => (s.core (part / 6)).fencedSubs.contains (part % 6)
  | 3 => (s.core part).fencedArray
  | 4 => s.rel.fencedGroups.contains part
  | _ => (portsOf kind part).all fun k => (s.port k).fenced

/-- The fence begins (R451). -/
def State.startFence (s : State) (kind part : Nat) : State := match kind with
  | 1 => s.fenceCore part
  | 2 => s.fenceSub (part / 6) (part % 6)
  | 3 => s.fenceArray part
  | 4 =>
    let s1 := s.cleanGroup part
    { s1 with rel := { s1.rel with fencedGroups := part :: s1.rel.fencedGroups } }
  | _ => (portsOf kind part).foldl (fun s k => s.updPort k fun p => { p with fenced := true }) s

/-- The part has stopped (R451). -/
def State.partStopped (s : State) (kind part : Nat) : Bool := match kind with
  | 1 => !(s.blocks.any fun b => b.core == part)
  | 2 => !(s.blocks.any fun b => b.core == part / 6 && b.waves.any fun w => w.sub == part % 6)
  | 3 => s.blocks.all fun b => b.core != part || b.streamGone || b.halt.isSome
  | 4 => true
  | _ => (portsOf kind part).all fun k => (s.port k).rx.isEmpty

/-- The reporting unit's place and clock (R450). -/
def fenceSource (kind part : Nat) : Reporter := match kind with
  | 1 => .core part
  | 2 => .core (part / 6)
  | 3 => .core part
  | 4 => .die (part / 32)
  | _ => .io

/-- The FENCE record (R450). -/
def State.fenceRecord (s : State) (on : Bool) (kind part : Nat) : State :=
  s.logError 7 (fenceSource kind part)
    [BitVec.ofBool on ++ BitVec.ofNat 7 kind ++ BitVec.ofNat 24 part, 0, 0, 0]

/-- The fence ends: a fenced port's link goes down (R451). -/
def State.endFence (s : State) (kind part : Nat) : State :=
  let s1 := if kind = 5 || kind = 6 then (portsOf kind part).foldl (fun s k => s.updPort k fun p => { p with up := false }) s else s
  s1.fenceRecord true kind part

/-- FENCE (R451, R464): answered when the part has stopped. -/
def execFenceCommand (tag kind part : Nat) (s : State) : Out :=
  runLong s [0x40, tag, kind, part] fun s =>
    if !partOk kind part then (s.respond 0x40 tag .badArg [], true)
    else
      let s1 := if s.isFenced kind part then s else s.startFence kind part
      if s1.partStopped kind part then ((s1.endFence kind part).respond 0x40 tag .done [], true) else (s1, false)

/-- The part returns to service (R452). -/
def State.liftFence (s : State) (kind part : Nat) : State := match kind with
  | 1 => s.updCore part fun k => { k with fenced := false }
  | 2 => s.updCore (part / 6) fun k =>
      let v := k.repairByte (part % 6)
      { (if v.getLsbD 7 then k.setRepair (part % 6) (v &&& 0x7F) else k) with
        fencedSubs := k.fencedSubs.filter fun x => x != part % 6 }
  | 3 => s.updCore part fun k =>
      { (if (k.repairByte 6).getLsbD 7 then k.setRepair 6 (k.repairByte 6 &&& 0x7F) else k) with fencedArray := false }
  | 4 => { s with rel := { s.rel with fencedGroups := s.rel.fencedGroups.filter fun g => g != part } }
  | _ => (portsOf kind part).foldl (fun s k => s.updPort k fun p => { p with fenced := false }) s

/-- UNFENCE (R452). -/
def execUnfence (tag kind part : Nat) (s : State) : Out :=
  runCommand s [0x41, tag, kind, part] fun s =>
    if !partOk kind part then some (s.respond 0x41 tag .badArg [])
    else some (((s.liftFence kind part).fenceRecord false kind part).respond 0x41 tag .done [])

/-- FREEZE (R453, R463): it acts on arrival. -/
def execFreeze (tag : Nat) (s : State) : Out := .next (s.respond 0x53 tag .done []).freezeNow

/-- REPAIRCLR (R444). -/
def execRepairclr (tag idx : Nat) (s : State) : Out :=
  runCommand s [0x54, tag, idx] fun s =>
    if idx > 16383 then some (s.respond 0x54 tag .badArg [])
    else if !repairValid s.rel.repairs idx then some (s.respond 0x54 tag .refused [])
    else
      let s1 : State := { s with rel := { s.rel with
        repairs := setAt 0 s.rel.repairs (4 * idx) (getAt 0 s.rel.repairs (4 * idx) ||| 0x40000000) } }
      some (s1.respond 0x54 tag .done [])

/-- The CODEs of R464. -/
def commandCodes : List Nat :=
  [0x01, 0x02, 0x10, 0x11, 0x12, 0x13, 0x14, 0x15, 0x20, 0x21, 0x22, 0x23, 0x30, 0x31, 0x32, 0x33, 0x40, 0x41, 0x42,
   0x50, 0x51, 0x52, 0x53, 0x54]

/-- UNLISTED_COMMAND_CODE (R464). -/
def execUnlistedCommandCode (code tag : Nat) (s : State) : Out :=
  if commandCodes.contains code then .next s
  else runCommand s [code, tag] fun s => some (s.respond code tag .badArg [])

/-! ### The host -/

/-- The half line that a host write changes, and a dirty other half of its L2 line, reach the HBM4E (R470). -/
def State.hostCells (s : State) (pa : Nat) : State :=
  match s.l2.find? fun x => x.line == pa / 128 with
  | some x => (s.spillHalf x (1 - pa / 64 % 2)).writeCells (pa / 64 * 64)
  | none => s.writeCells (pa / 64 * 64)

/-- A line of this device leaves its L2 and every RDC (R210, R470). -/
def State.dropLine (s : State) (line : Nat) : State :=
  { s with
    l2 := s.l2.filter fun x => x.line != line
    rdc := s.rdc.filter fun r => !(r.ctx == none && r.dev == s.own && r.line == line) }

/-- A host write within a sector (R210, R470): written through to the HBM4E, merged with the line if the L2 holds it,
which is then dropped. RDC copies are invalidated, and the write is reported. -/
def State.hostPiece (s : State) (pa : Nat) (bs : List Byte) : State :=
  if s.groupFenced pa then s.dropWrite pa
  else
    ((({ s with mem := setRun 0 s.mem pa bs } : State).hostCells pa).dropLine (pa / 128)).noteWrite (pa / 128)

/-- Write bytes of device memory sector by sector, with fuel (R293, R451). -/
def State.hostSectors : Nat → State → Nat → List Byte → State
  | 0, s, _, _ => s
  | fuel + 1, s, pa, bs =>
    if bs.isEmpty then s
    else
      let k := 64 - pa % 64
      State.hostSectors fuel (s.hostPiece pa (bs.take k)) (pa + k) (bs.drop k)

/-- HOST_WRITE (R293, R470): a PCIe write, lowest address first. -/
def execHostWrite (pa : Nat) (data : List (BitVec 8)) (s : State) : Out :=
  if pa + data.length > Config.paLimit then .next s
  else .next (State.hostSectors (data.length / 64 + 2) s pa data)

end Sys2Proof.Machine
end

