-- ==== Sys2Proof/Machine/Ray.lean ====
section
/-! DEFINITION. The ray query engine (12, R275-R291): exact tests, traversal, results. -/

namespace Sys2Proof.Machine

open Sys2Proof

/-- A rational with a positive denominator, or an infinity. -/
inductive ExtQ where
  | bot
  | fin (n : Int) (d : Nat)
  | top
  deriving DecidableEq, Repr

/-- a ≤ b. -/
def ExtQ.le : ExtQ → ExtQ → Bool
  | .bot, _ => true
  | _, .top => true
  | .fin n d, .fin m k => decide (n * k ≤ m * d)
  | _, _ => false

/-- a < b. -/
def ExtQ.lt (a b : ExtQ) : Bool := !b.le a

/-- The greater of two. -/
def ExtQ.max (a b : ExtQ) : ExtQ := if a.le b then b else a

/-- The lesser of two. -/
def ExtQ.min (a b : ExtQ) : ExtQ := if a.le b then a else b

/-- A finite FP32 value in units of 2^-149, exactly. -/
def fx (w : Word) : Int := match f32 w with
  | .fin n m e => (if n then -1 else 1) * (m * 2 ^ (e + 149).toNat : Nat)
  | _ => 0

/-- A FP32 value that is no NaN. -/
def extOf (w : Word) : ExtQ := match f32 w with
  | .inf true => .bot
  | .inf false => .top
  | _ => .fin (fx w) (2 ^ 149)

/-- Is a word's FP32 value finite? -/
def isFinite (w : Word) : Bool := (f32 w).isFin

/-- Three exact coordinates. -/
structure Vec3 where
  x : Int
  y : Int
  z : Int
  deriving DecidableEq, Repr

/-- Difference. -/
def Vec3.sub (a b : Vec3) : Vec3 := { x := a.x - b.x, y := a.y - b.y, z := a.z - b.z }
/-- Dot product. -/
def Vec3.dot (a b : Vec3) : Int := a.x * b.x + a.y * b.y + a.z * b.z
/-- Cross product. -/
def Vec3.cross (a b : Vec3) : Vec3 :=
  { x := a.y * b.z - a.z * b.y, y := a.z * b.x - a.x * b.z, z := a.x * b.y - a.y * b.x }

/-- Three words from word `k` as coordinates. -/
def vec3 (ws : List Word) (k : Nat) : Vec3 :=
  { x := fx (ws.getD k 0), y := fx (ws.getD (k + 1) 0), z := fx (ws.getD (k + 2) 0) }

/-- A ray (R281) and the word's flags. -/
structure Ray where
  o : Vec3
  d : Vec3
  tmin : ExtQ
  tmax : ExtQ
  first : Bool
  cullb : Bool
  norem : Bool
  deriving DecidableEq, Repr

/-- The ray of a ray block. -/
def rayOf (ws : List Word) (flags : BitVec 3) : Ray :=
  { o := vec3 ws 0, d := vec3 ws 4, tmin := extOf (ws.getD 3 0), tmax := extOf (ws.getD 7 0),
    first := flags.getLsbD 0, cullb := flags.getLsbD 1, norem := flags.getLsbD 2 }

/-- An invalid ray (R281). -/
def rayInvalid (ws : List Word) : Bool :=
  (ws.any fun w => (f32 w).isNaN) || !([0, 1, 2, 4, 5, 6].all fun k => isFinite (ws.getD k 0)) ||
    vec3 ws 4 == { x := 0, y := 0, z := 0 } || (extOf (ws.getD 7 0)).lt (extOf (ws.getD 3 0))

/-- n / d with d ≠ 0. -/
def ratio (n d : Int) : ExtQ := if d < 0 then .fin (-n) d.natAbs else .fin n d.natAbs

/-- The t at which a ray meets a slab face on one axis; d ≠ 0. -/
def faceT (face : Word) (o d : Int) : ExtQ := match f32 face with
  | .inf n => if n != decide (d < 0) then .bot else .top
  | _ => ratio (fx face - o) d

/-- The t at which the ray lies within a slab (R282): none when there is none. -/
def slab (lo hi : Word) (o d : Int) : Option (ExtQ × ExtQ) :=
  let p : ExtQ := .fin o (2 ^ 149)
  if (extOf hi).lt (extOf lo) then none
  else if d = 0 then (if (extOf lo).le p && p.le (extOf hi) then some (.bot, .top) else none)
  else if d < 0 then some (faceT hi o d, faceT lo o d)
  else some (faceT lo o d, faceT hi o d)

/-- Entry t of a box whose six words are given, when it is entered between tmin and `far` (R276, R282). -/
def boxEntry (r : Ray) (far : ExtQ) (ws : List Word) : Option ExtQ :=
  if (ws.take 6).any fun w => (f32 w).isNaN then none
  else
    match slab (ws.getD 0 0) (ws.getD 3 0) r.o.x r.d.x, slab (ws.getD 1 0) (ws.getD 4 0) r.o.y r.d.y,
        slab (ws.getD 2 0) (ws.getD 5 0) r.o.z r.d.z with
    | some a, some b, some c =>
      let lo := (r.tmin.max a.1).max (b.1.max c.1)
      let hi := (far.min a.2).min (b.2.min c.2)
      if lo.le hi && lo != .top && hi != .bot then some lo else none
    | _, _, _ => none

/-- An accepted hit. -/
structure Hit where
  t : ExtQ
  u : ExtQ
  v : ExtQ
  prim : Nat
  addr : Nat
  deriving DecidableEq, Repr

/-- The hit of a triangle record between tmin and `far` (R277, R283). -/
def triangleHit (r : Ray) (far : ExtQ) (ws : List Word) (addr : Nat) : Option Hit :=
  let id := ws.getD 9 0
  let e1 := (vec3 ws 3).sub (vec3 ws 0)
  let e2 := (vec3 ws 6).sub (vec3 ws 0)
  let n := e1.cross e2
  let p := r.d.cross e2
  let det := e1.dot p
  let t0 := r.o.sub (vec3 ws 0)
  let q := t0.cross e1
  let sgn : Int := if det < 0 then -1 else 1
  let un := sgn * t0.dot p
  let vn := sgn * r.d.dot q
  let t := ratio (e2.dot q) det
  let ok := !id.getLsbD 28 && ((ws.take 9).all isFinite) && n != { x := 0, y := 0, z := 0 } && det != 0
    && decide (0 ≤ un) && decide (0 ≤ vn) && decide (un + vn ≤ det.natAbs) && r.tmin.le t && t.le far
    && (!r.cullb || id.getLsbD 27 || decide (n.dot r.d < 0))
  if ok then
    some { t := t, u := .fin un det.natAbs, v := .fin vn det.natAbs, prim := (id.extractLsb' 0 27).toNat, addr := addr }
  else none

/-- Which of two hits a query keeps (R283). -/
def Hit.better (a b : Hit) : Bool :=
  a.t.lt b.t || (a.t.le b.t && b.t.le a.t && (decide (a.prim < b.prim) || (a.prim == b.prim && decide (a.addr < b.addr))))

/-- What stops a lane's query. -/
inductive RayStop where
  /-- The first accepted hit, under FIRST. -/
  | done
  | fault (addr : Nat)
  | format (kind : Nat) (value : Nat)
  | abort
  /-- A line of another device is to be read first: device, slot, address, and whether the RDC keeps it, as a
  line of a streaming page or not (R209). -/
  | need (dev slot pa : Nat) (keep : Option Bool)
  deriving DecidableEq, Repr

/-- A query under way: best hit, remote candidates with their entry t, why it has stopped, lines read. -/
structure Trav where
  best : Option Hit
  cands : List (ExtQ × Nat × Nat)
  stop : Option RayStop
  lines : List (Nat × List Byte)
  deriving DecidableEq, Repr

/-- How a read of geometry ends. -/
inductive Geo where
  | ok (ws : List Word) (line : Option (List Byte))
  | stop (r : RayStop)
  deriving DecidableEq, Repr

/-- A query that issued before its context's lines last left the ray node cache: what it has read of other devices may
be older than that (R290). -/
def State.rayStale (s : State) (core ctx : Nat) (op : RayOp) : Bool :=
  let clear := getAt 0 s.rayClear (64 * core + ctx)
  decide (0 < clear) && decide (op.due ≤ clear + 60)

/-- Read `n` bytes within one line as the ray engine does (R287, R289): an aperture address names the block's own
memory, which no cache holds (R203). -/
def State.geoRead (s : State) (b : Block) (op : RayOp) (va n : Nat) : Geo :=
  let a := BitVec.ofNat 64 va
  let line := a.toNat / 128
  let core := b.core
  let ctx := b.ctx
  if inAperture a then
    (if apOffset a + n ≤ b.decl.bmem then .ok (bytesWords (b.bmemRun (apOffset a) n)) none else .stop (.fault a.toNat))
  else
  match s.translate core ctx { r := true } a with
  | .pageFault => .stop (.fault a.toNat)
  | .prot _ => .stop (.fault a.toNat)
  | .abort => .stop .abort
  | .ok t =>
    let all (o m : Nat) : Option (List Byte) :=
      allBytes ((List.range m).map fun i => s.belowByte core ctx { t with pa := t.pa / 128 * 128 + o + i })
    let off := t.pa % 128
    match s.raycache.find? fun x => x.core == core && x.ctx == ctx && x.line == line with
    | some x => .ok (bytesWords ((x.data.drop off).take n)) none
    | none =>
      match t.space with
      | .remote dev slot =>
        (match op.got.find? fun e => e.1 == dev && e.2.1 == t.pa / 128 with
          | some e => .ok (bytesWords ((e.2.2.drop off).take n)) (if t.policy = 2 || s.rayStale core ctx op then none else some e.2.2)
          | none =>
            (match (if t.policy = 2 then none else all 0 128) with
              | some bs => .ok (bytesWords ((bs.drop off).take n)) (some bs)
              | none => .stop (.need dev slot (t.pa / 128 * 128) (if t.policy = 2 then none else some (t.policy == 1)))))
      | _ =>
        (match all off n with
          | some bs => .ok (bytesWords bs) (if t.policy = 2 then none else all 0 128)
          | none => .stop .abort)

/-- Numbers 0 ... k - 1 in the order that the spec leaves undefined, from a free rank at `base` (R278, R283,
R286; log 19). -/
def freeOrder (n base k : Nat) : List Nat :=
  let place (i : Nat) (l : List Nat) : List Nat :=
    l.filter (fun j => decide (Config.freeChildRank n (base + j) < Config.freeChildRank n (base + i))) ++ i ::
      l.filter fun j => !decide (Config.freeChildRank n (base + j) < Config.freeChildRank n (base + i))
  (List.range k).foldr place []

/-- Kind of a child reference (R275): 0 empty, 1 inner, 2 leaf, 3 remote. -/
def refKind (r : BitVec 64) : Nat := (r.extractLsb' 62 2).toNat

/-- Address of an inner or leaf reference. -/
def refAddr (r : BitVec 64) : Nat := ((r.extractLsb' 0 55).signExtend 64).toNat

/-- A reference that R278 rejects. -/
def refBad (r : BitVec 64) : Bool := match refKind r with
  | 0 => r.extractLsb' 0 62 != 0
  | 1 => r.extractLsb' 55 7 != 0 || r.extractLsb' 0 7 != 0
  | 2 => r.extractLsb' 56 6 == 0 || r.getLsbD 55 || r.extractLsb' 0 6 != 0
  | _ => decide ((r.extractLsb' 52 10).toNat > 992) || r.extractLsb' 48 4 != 0

/-- Words of child j's box, and its reference (R276). -/
def childBox (ws : List Word) (j : Nat) : List Word := (ws.drop (6 * j)).take 6
/-- Its reference. -/
def childRef (ws : List Word) (j : Nat) : BitVec 64 := ws.getD (25 + 2 * j) 0 ++ ws.getD (24 + 2 * j) 0

/-- tbest (R282). -/
def Trav.far (x : Trav) (r : Ray) : ExtQ := match x.best with
  | some h => h.t
  | none => r.tmax

/-- One triangle record of a leaf (R277, R278, R283). -/
def visitTriangle (s : State) (b : Block) (op : RayOp) (r : Ray) (base : Nat) (x : Trav) (i : Nat) : Trav :=
  if x.stop.isSome then x
  else
    let addr := (base + 64 * i) % 2 ^ 64
    match s.geoRead b op addr 64 with
    | .stop e => { x with stop := some e }
    | .ok ws line =>
      let y := match line with
        | some bs => { x with lines := (addr / 128, bs) :: x.lines }
        | none => x
      if (ws.getD 9 0).extractLsb' 29 3 != 0 || !((ws.drop 10).all fun w => w == 0) then
        { y with stop := some (.format 2 addr) }
      else match triangleHit r (y.far r) ws addr with
        | none => y
        | some h => match y.best with
          | none => { y with best := some h, stop := if r.first then some .done else none }
          | some g => if h.better g then { y with best := some h } else y

/-- The visit of a reference reached with an entry t (R282-R284): fuel 64 bounds the depth (R285). -/
def visitRef (s : State) (b : Block) (op : RayOp) (r : Ray) : Nat → BitVec 64 → ExtQ → Trav → Trav
  | 0, _, _, x => x
  | fuel + 1, ref, entry, x =>
    if x.stop.isSome then x
    else match refKind ref with
      | 0 => x
      | 1 =>
        (match s.geoRead b op (refAddr ref) 128 with
          | .stop e => { x with stop := some e }
          | .ok ws line =>
            let order := freeOrder op.order (refAddr ref) 4
            let y := match line with
              | some bs => { x with lines := (refAddr ref / 128, bs) :: x.lines }
              | none => x
            match order.find? fun j => refBad (childRef ws j) with
            | some j => { y with stop := some (.format 0 (refAddr ref + 0x60 + 8 * j)) }
            | none => order.foldl (fun x j =>
                if refKind (childRef ws j) = 0 then x
                else match boxEntry r (x.far r) (childBox ws j) with
                  | none => x
                  | some t => visitRef s b op r fuel (childRef ws j) t x) y)
      | 2 => (freeOrder op.order (refAddr ref) (ref.extractLsb' 56 6).toNat).foldl
          (visitTriangle s b op r (refAddr ref)) x
      | _ => if r.norem then x
          else { x with cands := x.cands ++ [(entry, (ref.extractLsb' 52 10).toNat, (ref.extractLsb' 0 48).toNat)] }

/-- The first node at depth 64 on a path of boxes entered up to tmax (R285), in the engine's order. A node that
faults or aborts has no children here; a line of another device is to be read first. -/
def deepNode (s : State) (b : Block) (op : RayOp) (r : Ray) : Nat → BitVec 64 → Except RayStop (Option Nat)
  | fuel, ref =>
    if refKind ref ≠ 1 then .ok none
    else match fuel with
      | 0 => .ok (some (refAddr ref))
      | fuel + 1 => match s.geoRead b op (refAddr ref) 128 with
        | .stop (.need d k p keep) => .error (.need d k p keep)
        | .stop _ => .ok none
        | .ok ws _ => (freeOrder op.order (refAddr ref) 4).foldl (fun found j => match found with
            | .ok none => if (boxEntry r r.tmax (childBox ws j)).isSome then deepNode s b op r fuel (childRef ws j) else found
            | _ => found) (.ok none)

/-- rn32 of a rational. -/
def rn32 : ExtQ → Word
  | .bot => 0xFF800000
  | .top => 0x7F800000
  | .fin n d => if n = 0 then 0 else BitVec.ofNat 32 (roundMag fmtFP32 .rn false (decide (n < 0)) n.natAbs d 0).1

/-- The four result words of a status (R286). -/
def rayResult (status : Nat) (hit : Option Hit) (a b c : Word) : List Word :=
  [a, b, c, BitVec.ofNat 4 status ++ match hit with
    | some h => BitVec.ofNat 28 (2 ^ 27 + h.prim)
    | none => 0]

/-- A 64-bit value in V[R+1] and V[R+2], under a status that reports one (R286). -/
def rayValue (status : Nat) (a : Word) (v : Nat) : List Word :=
  rayResult status none a (BitVec.ofNat 32 v) (BitVec.ofNat 32 (v / 2 ^ 32))

/-- The least candidate (R286). -/
def candBest (l : List (ExtQ × Nat × Nat)) : Option (ExtQ × Nat × Nat) :=
  l.foldl (fun best c => match best with
    | none => some c
    | some b =>
      if c.1.lt b.1 || (c.1.le b.1 && b.1.le c.1 && (decide (c.2.1 < b.2.1) || (c.2.1 == b.2.1 && decide (c.2.2 < b.2.2))))
      then some c else some b) none

/-- The result of a finished traversal (R284-R286): the statuses in their order. -/
def rayDone (s : State) (b : Block) (op : RayOp) (r : Ray) (tmaxW : Word) (x : Trav) : Except RayStop (List Word) :=
  match deepNode s b op r 64 op.root with
  | .error e => .error e
  | .ok (some a) => .ok (rayValue 3 0 a)
  | .ok none => .ok <|
    let counts (c : ExtQ × Nat × Nat) : Bool := match x.best with
      | some h => !r.first && c.1.lt h.t
      | none => c.1.le r.tmax
    let cands := x.cands.filter counts
    match candBest cands with
    | some c =>
      rayResult 2 x.best (match x.best with
          | some h => rn32 h.t
          | none => tmaxW) (BitVec.ofNat 32 c.2.2)
        (BitVec.ofNat 6 (min 63 (cands.length - 1)) ++ BitVec.ofNat 10 c.2.1 ++ BitVec.ofNat 16 (c.2.2 / 2 ^ 32))
    | none => match x.best with
      | some h => rayResult 1 (some h) (rn32 h.t) (rn32 h.u) (rn32 h.v)
      | none => rayResult 0 none 0x7F800000 0 0

/-- How one lane's query ends: its result, or a stop that yields none; and the lines it read. -/
def State.rayLane (s : State) (b : Block) (op : RayOp) (ws : List Word) :
    Except RayStop (List Word) × List (Nat × List Byte) :=
  if rayInvalid ws then (.ok (rayResult 0 none 0x7F800000 0 0), [])
  else
    let r := rayOf ws op.flags
    let x : Trav := { best := none, cands := [], stop := none, lines := [] }
    if refBad op.root then (.ok (rayValue 4 1 op.root.toNat), [])
    else
      let y := visitRef s b op r 65 op.root r.tmin x
      match y.stop with
      | some (.fault a) => (.ok (rayValue 5 0 a), y.lines)
      | some (.format k v) => (.ok (rayValue 4 (BitVec.ofNat 32 k) v), y.lines)
      | some .abort => (.error .abort, y.lines)
      | some (.need d k p keep) => (.error (.need d k p keep), y.lines)
      | _ => (rayDone s b op r (ws.getD 7 0) y, y.lines)

/-- Checks and registers of RAYQ (R279). -/
def formRayq (q r : BitVec 8) (n : BitVec 5) (c : Cur) : Form :=
  { opcode := 0x74, fieldsOk := true, xc := xcNone,
    operandsOk := c.vregsOk q.toNat 8 8 && c.vregsOk r.toNat 4 4 && c.sregsOk (2 * n.toNat) 2 2 &&
      (decide (r.toNat + 4 ≤ q.toNat) || decide (q.toNat + 8 ≤ r.toNat)),
    reads := { noRegs with v := List.range' q.toNat 8, s := [2 * n.toNat, 2 * n.toNat + 1] },
    writes := { noRegs with v := List.range' r.toNat 4 }, lat := 0 }

/-- RAYQ (R279, R280): the ray blocks and the root are read at issue. -/
def execRayq (q r : BitVec 8) (n : BitVec 5) (f : BitVec 3) (s : State) : Out :=
  runWord s (formRayq q r n) fun c _ =>
    if c.wv.rays.length ≥ 4 || c.wv.acqPending then .next (holdSlot s)
    else
      let op : RayOp :=
        { part := c.iss.part, res := r.toNat,
          rays := (lanesOf c.liveMask).map fun l => (l, (List.range 8).map fun j => c.vec false (q.toNat + j) l),
          root := c.wv.getS64 (2 * n.toNat), flags := f, order := s.free, got := [], asked := [], killed := 0,
          due := s.now + 60 }
      .next (retire s.takeFree.2 c { wave := { c.wv with rays := c.wv.rays ++ [op] } })

/-- Lines read enter the ray node cache, the oldest leaving beyond its 512 (R289; log 20). -/
def State.fillRay (s : State) (core ctx : Nat) (lines : List (Nat × List Byte)) : State :=
  lines.foldl (fun s e =>
    if s.raycache.any fun x => x.core == core && x.ctx == ctx && x.line == e.1 then s
    else
      { s with raycache := { core := core, ctx := ctx, line := e.1, data := e.2 } ::
          (s.raycache.filter fun x => x.core == core).take 511 ++ s.raycache.filter fun x => x.core != core }) s

/-- Lines of this device that a query has read enter the RDC, like those of a load (R209, R210). -/
def State.fillRdcs (s : State) (b : Block) (lines : List Nat) : State :=
  lines.foldl (fun s line => match s.translate b.core b.ctx { r := true } (BitVec.ofNat 64 (128 * line)) with
    | .ok t => s.fillRdc b.core t
    | _ => s) s

/-- A wave's oldest RAYQ word has ended on every lane: all four registers of each are written at once (R280). -/
def Wave.rayWrite (op : RayOp) (res : List (Nat × List Word)) (w : Wave) : Wave :=
  let m := maskOf (fun l => res.any fun e => e.1 == l) 32 &&& ~~~w.gone
  let word (j l : Nat) : Word := ((res.find? fun e => e.1 == l).map fun e => e.2.getD j 0).getD 0
  (List.range 4).foldl (fun w j => w.setV (op.res + j) m (word j)) { w with rays := w.rays.tail }

/-- RAYQ_COMPLETE (R280, R287): the wave's oldest query runs; a line of another device that it lacks is asked
for first, and an abort kills its lane. -/
def execRayqComplete (b wv : Nat) (s : State) : Out :=
  match s.block? b, s.wave? b wv with
  | some blk, some w =>
    match w.rays with
    | [] => .next s
    | op :: _ =>
      if s.now < op.due || !op.asked.isEmpty then .next s
      else
        let lanes := op.rays.filter fun e => !op.killed.getLsbD e.1 && !w.gone.getLsbD e.1
        let ends := lanes.map fun e => (e.1, s.rayLane blk op e.2)
        let needs := ends.filterMap fun e => match e.2.1 with
          | .error (.need d k p b) => some (e.1, d, k, p, b)
          | _ => none
        match needs with
        | (l, d, k, p, keep) :: _ =>
          let r := s.remoteRead d k blk.ctx p 2 (keep.map fun x => (dieOf blk.core, x)) none (.ray b wv l)
          .next (r.2.updWave b wv fun w => { w with rays := w.rays.map fun o =>
            if o = op then { o with asked := [r.1] } else o })
        | [] =>
          let bad := ends.foldl (fun m e => match e.2.1 with
            | .error _ => m ||| (1 : Mask) <<< e.1
            | .ok _ => m) (0 : Mask)
          let res := ends.filterMap fun e => match e.2.1 with
            | .ok ws => some (e.1, ws)
            | .error _ => none
          let read := ends.flatMap fun e => e.2.2
          let s1 := (s.fillRdcs blk (read.map fun e => e.1)).fillRay blk.core blk.ctx read
          let s2 := s1.updWave b wv (Wave.rayWrite op res)
          let s3 := if bad = 0 then s2 else s2.withhold (some blk.ctx)
          let dead := bad ||| op.killed
          .next (if dead = 0 then s3 else (s3.killLanes b wv dead).settle b)
  | _, _ => .next s

end Sys2Proof.Machine
end

