-- ==== Sys2Proof/Machine/Scalar.lean ====
section
/-! DEFINITION. Scalar words (06, R130-R140). -/

namespace Sys2Proof.Machine

open Sys2Proof

/-- XC of a three-register scalar word (R132). -/
def xcS3 : XcRule := { d := .sreg, a := .sreg, b := .sreg }

/-- Checks and registers of a scalar word: `k` registers per operand, on multiples of `k` (R133, R135). -/
def formS3 (op k : Nat) (d a b : BitVec 8) (c : Cur) : Form :=
  let sd := c.sNum 2 d
  let sa := c.sNum 1 a
  let sb := c.sNum 0 b
  { opcode := op, fieldsOk := true, xc := xcS3,
    operandsOk := c.sregsOk sd k k && c.sregsOk sa k k && c.sregsOk sb k k,
    reads := { v := [], s := List.range' sa k ++ List.range' sb k, p := c.xcReads, t := [] },
    writes := { noRegs with s := List.range' sd k }, lat := 2 }

/-- A scalar word retires with its wave changed if it takes effect; no latch shifts (R130, R131). -/
def scalarDone (s : State) (c : Cur) (f : Form) (w : Wave) : Out :=
  .next (retire s c
    { wave := if c.scalarTakes then w else c.wv,
      writes := if c.scalarTakes then f.writes else noRegs, lat := f.lat })

/-- A three-register scalar word (R134). -/
def runS3 (s : State) (op : Nat) (d a b : BitVec 8) (g : Word → Word → Word) : Out :=
  runWord s (formS3 op 1 d a b) fun c f =>
    scalarDone s c f (c.wv.setS (c.sNum 2 d) (g (c.wv.getS (c.sNum 1 a)) (c.wv.getS (c.sNum 0 b))))

/-- SADD (R134). -/
def execSadd (d a b : BitVec 8) (s : State) : Out := runS3 s 0x48 d a b fun x y => x + y
/-- SSUB (R134). -/
def execSsub (d a b : BitVec 8) (s : State) : Out := runS3 s 0x49 d a b fun x y => x - y
/-- SMUL (R134). -/
def execSmul (d a b : BitVec 8) (s : State) : Out := runS3 s 0x4A d a b fun x y => x * y
/-- SAND (R134). -/
def execSand (d a b : BitVec 8) (s : State) : Out := runS3 s 0x4B d a b fun x y => x &&& y
/-- SOR (R134). -/
def execSor (d a b : BitVec 8) (s : State) : Out := runS3 s 0x4C d a b fun x y => x ||| y
/-- SXOR (R134). -/
def execSxor (d a b : BitVec 8) (s : State) : Out := runS3 s 0x4D d a b fun x y => x ^^^ y
/-- SSHL (R134). -/
def execSshl (d a b : BitVec 8) (s : State) : Out := runS3 s 0x4E d a b fun x y => x <<< shAmt y
/-- SSHR (R134). -/
def execSshr (d a b : BitVec 8) (s : State) : Out := runS3 s 0x4F d a b fun x y => x >>> shAmt y
/-- SSAR (R134). -/
def execSsar (d a b : BitVec 8) (s : State) : Out :=
  runS3 s 0x50 d a b fun x y => x.sshiftRight (shAmt y)
/-- SMIN (R134). -/
def execSmin (d a b : BitVec 8) (s : State) : Out :=
  runS3 s 0x51 d a b fun x y => if x.toInt ≤ y.toInt then x else y
/-- SMAX (R134). -/
def execSmax (d a b : BitVec 8) (s : State) : Out :=
  runS3 s 0x52 d a b fun x y => if x.toInt ≤ y.toInt then y else x

/-- Checks and registers of SADDI. -/
def formSaddi (d a : BitVec 8) (c : Cur) : Form :=
  let sd := c.sNum 2 d
  let sa := c.sNum 1 a
  { opcode := 0x53, fieldsOk := true, xc := { d := .sreg, a := .sreg, b := .imm, imm := true },
    operandsOk := c.sregsOk sd 1 1 && c.sregsOk sa 1 1,
    reads := { v := [], s := [sa], p := c.xcReads, t := [] },
    writes := { noRegs with s := [sd] }, lat := 2 }
/-- SADDI (R136). -/
def execSaddi (d a i : BitVec 8) (s : State) : Out :=
  runWord s (formSaddi d a) fun c f =>
    scalarDone s c f (c.wv.setS (c.sNum 2 d) (c.wv.getS (c.sNum 1 a) + c.imm8 i))

/-- Checks and registers of SMOVI and SMOVL (R136, R137). -/
def formSmov (op : Nat) (imm : Bool) (d : BitVec 8) (c : Cur) : Form :=
  let sd := c.sNum 2 d
  { opcode := op, fieldsOk := true, xc := { d := .sreg, a := .imm, b := .imm, imm := imm },
    operandsOk := c.sregsOk sd 1 1, reads := { noRegs with p := c.xcReads },
    writes := { noRegs with s := [sd] }, lat := 2 }

/-- SMOVI (R136). -/
def execSmovi (d : BitVec 8) (i : BitVec 16) (s : State) : Out :=
  runWord s (formSmov 0x54 true d) fun c f =>
    scalarDone s c f (c.wv.setS (c.sNum 2 d) (c.imm16 i))

/-- SMOVL (R137): the literal is passed over whether or not the word takes effect. -/
def execSmovl (d : BitVec 8) (lit : BitVec 32) (s : State) : Out :=
  runWord s (formSmov 0x5F false d) fun c f =>
    .next (retire s c
      { wave := if c.scalarTakes then c.wv.setS (c.sNum 2 d) lit else c.wv,
        writes := if c.scalarTakes then f.writes else noRegs, lat := f.lat, words := 2 })

/-- Checks and registers of SCMP. -/
def formScmp (k p : BitVec 4) (old : Bool) (a b : BitVec 8) (c : Cur) : Form :=
  let sa := c.sNum 1 a
  let sb := c.sNum 0 b
  { opcode := 0x55, fieldsOk := decide (k.toNat ≤ 9), xc := { a := .sreg, b := .sreg },
    operandsOk := c.sregsOk sa 1 1 && c.sregsOk sb 1 1,
    reads := { v := [], s := [sa, sb], p := c.xcReads ++ (if old then [p.toNat] else []), t := [] },
    writes := { noRegs with p := [p.toNat] }, lat := 2 }
/-- SCMP (R138): the bit goes to all 32 lanes of Pd. -/
def execScmp (k p : BitVec 4) (old : Bool) (a b : BitVec 8) (s : State) : Out :=
  runWord s (formScmp k p old a b) fun c f =>
    let bit := icond k.toNat (c.wv.getS (c.sNum 1 a)) (c.wv.getS (c.sNum 0 b))
    let m : Mask := if bit then (if old then c.wv.getP p.toNat else 0xFFFFFFFF#32) else 0
    scalarDone s c f (c.wv.setP p.toNat m)

/-- SADD64 (R135). -/
def execSadd64 (d a b : BitVec 8) (s : State) : Out :=
  runWord s (formS3 0x56 2 d a b) fun c f =>
    scalarDone s c f
      (c.wv.setS64 (c.sNum 2 d) (c.wv.getS64 (c.sNum 1 a) + c.wv.getS64 (c.sNum 0 b)))

/-- Checks and registers of SSEL. -/
def formSsel (d a b : BitVec 8) (c : Cur) : Form :=
  let f := formS3 0x57 1 d a b c
  { f with xc := { xcS3 with needXc := true, cSel := true },
           reads := { f.reads with p := f.reads.p ++ [c.cCode 0 % 16] } }
/-- SSEL (R139): P[Ps] of the lead lane chooses. -/
def execSsel (d a b : BitVec 8) (s : State) : Out :=
  runWord s (formSsel d a b) fun c f =>
    scalarDone s c f (c.wv.setS (c.sNum 2 d)
      (if (c.wv.getP (c.cCode 0 % 16)).getLsbD c.lead then c.wv.getS (c.sNum 1 a)
        else c.wv.getS (c.sNum 0 b)))

end Sys2Proof.Machine
end

