-- ==== Sys2Proof/Machine/Special.lean ====
section
/-! DEFINITION. Conversions, transcendentals, lane exchange, random numbers and quantisation (05,
R107-R129). -/

namespace Sys2Proof.Machine

open Sys2Proof

/-- The 16 random bits of value j: V[C + j div 2], half j mod 2 (R70). -/
def Cur.srBits (c : Cur) (d j l : Nat) : Nat :=
  let x := xpField c.iss.xp 2
  let src := permLane x.1 x.2 l
  let code := c.cCode d + j / 2
  let w := if c.wv.gone.getLsbD src then 0 else c.vec false code src
  half w (j % 2)

/-- Does a CVT function round (codes 0-5, 8-10), narrow (4, 5, 8-10) or go to an integer (0, 1)? -/
def cvtRule (fn : Nat) : XcRule :=
  let narrow := fn == 4 || fn == 5 || fn == 8 || fn == 9 || fn == 10
  { xpA := true, xpC := narrow, b := .imm, rnd := narrow || decide (fn ≤ 3), sr := narrow, cIfSR := narrow,
    sat := decide (fn ≤ 1) }

/-- XP's C pattern is accepted only under SR (R110). -/
def xpcUnderSR (c : Cur) (r : XcRule) : XcRule := { r with xpC := r.xpC && c.isSR }

/-- A narrowed value zero-extended (R112). -/
def narrow1 (f : Fmt) (mode : Mode) (x : Word) : Word × FlagSet :=
  let r := convertTo f mode (f32 x)
  (BitVec.ofNat 32 r.1, r.2)

/-- Two narrowed values packed (R63, R112). -/
def narrow2 (f : Fmt) (m0 m1 : Mode) (x y : Word) : Word × FlagSet :=
  let r := convertTo f m0 (f32 x)
  let q := convertTo f m1 (f32 y)
  (BitVec.ofNat 16 q.1 ++ BitVec.ofNat 16 r.1, r.2 ||| q.2)

/-- A widened value (R113). -/
def widen (f : Fmt) (w : Nat) : Word × FlagSet :=
  let r := convertTo fmtFP32 .rn (unpack f w)
  (BitVec.ofNat 32 r.1, r.2)

/-- CVT's result (R112, R113): x is A, y is A + 1, `m j` the mode of value j. -/
def cvtWord (fn : Nat) (m : Nat → Mode) (sat : Bool) (x y : Word) : Word × FlagSet :=
  match fn with
  | 0 => toIntWord true (m 0) sat (f32 x)
  | 1 => toIntWord false (m 0) sat (f32 x)
  | 2 => sum32 (m 0) [numOfInt x.toInt]
  | 3 => sum32 (m 0) [numOfInt x.toNat]
  | 4 => narrow1 fmtBF16 (m 0) x
  | 5 => narrow1 fmtFP16 (m 0) x
  | 6 => widen fmtBF16 (half x 0)
  | 7 => widen fmtFP16 (half x 0)
  | 8 => narrow2 fmtBF16 (m 0) (m 1) x y
  | 9 => narrow2 fmtFP16 (m 0) (m 1) x y
  | 10 => narrow1 fmtE5M2 (m 0) x
  | _ => widen fmtE5M2 (byteOf x 0).toNat

/-- Checks and registers of CVT. -/
def formCvt (n : Bool) (d a f : BitVec 8) (c : Cur) : Form :=
  let fn := f.toNat
  let two := fn == 8 || fn == 9
  let g := formU 0x36 (xpcUnderSR c (cvtRule fn)) (decide (fn ≤ 11)) 6 n d a c
  let cc := c.cCode 0
  { g with
    operandsOk := c.dstOk n d.toNat && (if two then c.vregsOk a.toNat 2 1 else c.srcOk a.toNat) &&
      (!c.isSR || c.srcOk cc),
    reads := { g.reads with v := srcRegs a.toNat (if two then 2 else 1) ++
      (if c.isSR then srcRegs cc 1 else []) } }
/-- CVT (R112): field A of F2BF2 and F2H2 names two registers (R111). -/
def execCvt (n : Bool) (d a f : BitVec 8) (s : State) : Out :=
  let fn := f.toNat
  runWord s (formCvt n d a f) fun c g =>
    vecResult s c g false n d.toNat fun l =>
      cvtWord fn (fun j => c.mode (c.srBits 0 j l)) c.sat (c.opnd false 0 a.toNat l)
        (c.opnd false 0 (a.toNat + 1) l)

/-- Checks and registers of F8PACK. -/
def formF8pack (n : Bool) (d a b : BitVec 8) (c : Cur) : Form :=
  let cc := c.cCode 0
  let sb := c.sNum 0 b
  { opcode := 0x37, fieldsOk := !n || d == 0,
    xc := xpcUnderSR c { xpA := true, xpC := true, b := .sreg, rnd := true, sr := true, cIfSR := true, sat := true },
    takesXp := true,
    operandsOk := c.dstOk n d.toNat && c.vregsOk a.toNat 4 4 && c.sregsOk sb 1 1 &&
      (!c.isSR || c.vregsOk cc 2 1),
    reads := { v := srcRegs a.toNat 4 ++ (if c.isSR then srcRegs cc 2 else []), s := [sb],
               p := c.xcReads, t := [] },
    writes := { noRegs with v := if n then [] else [d.toNat] }, lat := c.latency 6 }
/-- F8PACK (R114, R82): four registers times the reciprocal scale of S[B], to E4M3 bytes. -/
def execF8pack (n : Bool) (d a b : BitVec 8) (s : State) : Out :=
  runWord s (formF8pack n d a b) fun c f =>
    let rs := f32 (c.wv.getS (c.sNum 0 b))
    vecResult s c f false n d.toNat fun l =>
      let e (j : Nat) := packE4M3 (c.mode (c.srBits 0 j l)) c.sat (f32 (c.opnd false 0 (a.toNat + j) l)) rs
      (BitVec.ofNat 8 (e 3).1 ++ BitVec.ofNat 8 (e 2).1 ++ BitVec.ofNat 8 (e 1).1 ++ BitVec.ofNat 8 (e 0).1,
        (e 0).2 ||| (e 1).2 ||| (e 2).2 ||| (e 3).2)

/-- `k` consecutive registers from D written with `g j l`, L0 receiving V[D] (R108). -/
def multiResult (s : State) (c : Cur) (f : Form) (d k : Nat) (g : Nat → Nat → Word × FlagSet) : Out :=
  let m := c.execMask
  let w := (List.range k).foldl (fun w j => w.setV (d + j) m fun l => (g j l).1) c.wv
  let fl := (List.range k).foldl (fun x j => x ||| orFlags m (fun l => (g j l).2) 32) (0 : FlagSet)
  .next (retire s c
    { wave := { w with flags := w.flags ||| fl }, latch := some (false, latchLanes m fun l => (g 0 l).1),
      writes := f.writes, lat := f.lat })

/-- Checks and registers of F8UNPK. -/
def formF8unpk (d a b : BitVec 8) (c : Cur) : Form :=
  let sb := c.sNum 0 b
  { opcode := 0x38, fieldsOk := true, xc := { xpA := true, b := .sreg }, takesXp := true,
    operandsOk := c.vregsOk d.toNat 4 1 && c.srcOk a.toNat && c.sregsOk sb 1 1,
    reads := { v := srcRegs a.toNat 1, s := [sb], p := c.xcReads, t := [] },
    writes := { noRegs with v := List.range' d.toNat 4 }, lat := c.latency 6 }
/-- F8UNPK (R115). -/
def execF8unpk (d a b : BitVec 8) (s : State) : Out :=
  runWord s (formF8unpk d a b) fun c f =>
    let sc := f32 (c.wv.getS (c.sNum 0 b))
    multiResult s c f d.toNat 4 fun j l =>
      sum32 .rn [(unpack fmtE4M3 (byteOf (c.opnd false 0 a.toNat l) j).toNat).mul sc]

/-- Checks and registers of SFU. -/
def formSfu (n : Bool) (d a f : BitVec 8) (c : Cur) : Form :=
  { formU 0x39 { b := .imm } (decide (f.toNat ≤ 7)) 14 n d a c with takesXp := false }
/-- SFU (R116, R117): class SFU, latches of slot 1, no XP. -/
def execSfu (n : Bool) (d a f : BitVec 8) (s : State) : Out :=
  runWord s (formSfu n d a f) fun c g =>
    vecResult s c g true n d.toNat fun l => sfuWord f.toNat (c.opnd true 0 a.toNat l)

/-- A uniform result written to an S register; L0 receives it in the executing lanes (R108). -/
def scalarResult (s : State) (c : Cur) (f : Form) (d : Nat) (r : Word) (fl : FlagSet) : Out :=
  let w := c.wv.setS d r
  .next (retire s c
    { wave := { w with flags := w.flags ||| fl }, latch := some (false, latchLanes c.execMask fun _ => r),
      writes := f.writes, lat := f.lat })

/-- Checks and registers of QAMAX. -/
def formQamax (d a : BitVec 8) (c : Cur) : Form :=
  let sd := c.sNum 2 d
  { opcode := 0x3A, fieldsOk := true, xc := { xpA := true, d := .sreg, b := .imm }, takesXp := true,
    operandsOk := c.sregsOk sd 1 1 && c.vregsOk a.toNat 4 1,
    reads := { v := srcRegs a.toNat 4, s := [], p := c.xcReads, t := [] },
    writes := { noRegs with s := [sd] }, lat := c.latency 10 }
/-- QAMAX (R80, R118). -/
def execQamax (d a : BitVec 8) (s : State) : Out :=
  runWord s (formQamax d a) fun c f =>
    let ws := (lanesOf c.execMask).flatMap fun l => (List.range 4).map fun j => c.opnd false 0 (a.toNat + j) l
    let r := amax ws
    scalarResult s c f (c.sNum 2 d) r.1 r.2

/-- Checks and registers of QSCALE. -/
def formQscale (d a : BitVec 8) (c : Cur) : Form :=
  let sd := c.sNum 2 d
  let sa := c.sNum 1 a
  { opcode := 0x3B, fieldsOk := true, xc := { pred := false, d := .sreg, a := .sreg, b := .imm },
    takesXp := true, operandsOk := c.sregsOk sd 1 1 && c.sregsOk sa 1 1,
    reads := { v := [], s := [sa], p := c.xcReads, t := [] },
    writes := { noRegs with s := [sd] }, lat := c.latency 10 }
/-- QSCALE (R81, R119). -/
def execQscale (d a : BitVec 8) (m : Bool) (s : State) : Out :=
  runWord s (formQscale d a) fun c f =>
    let r := qscaleWord m (c.wv.getS (c.sNum 1 a))
    scalarResult s c f (c.sNum 2 d) r.1 r.2

/-- Checks and registers of RNG. -/
def formRng (d a b : BitVec 8) (c : Cur) : Form :=
  let sb := c.sNum 0 b
  { opcode := 0x3C, fieldsOk := true, xc := { xpA := true, b := .sreg }, takesXp := true,
    operandsOk := c.vregsOk d.toNat 4 4 && c.srcOk a.toNat && c.sregsOk sb 3 2,
    reads := { v := srcRegs a.toNat 1, s := [sb, sb + 1, sb + 2], p := c.xcReads, t := [] },
    writes := { noRegs with v := List.range' d.toNat 4 }, lat := c.latency 10 }
/-- RNG (R83, R120): c1 is (BLANE + 32 × block index) mod 2^32. -/
def execRng (d a b : BitVec 8) (s : State) : Out :=
  runWord s (formRng d a b) fun c f =>
    let sb := c.sNum 0 b
    multiResult s c f d.toNat 4 fun j l =>
      pureInt ((rngWords (c.wv.getS sb) (c.wv.getS (sb + 1)) (c.opnd false 0 a.toNat l)
        (BitVec.ofNat 32 (32 * c.wv.idx + l + 32 * c.blk.index)) (c.wv.getS (sb + 2))).getD j 0)

/-- Operand A of lane j as another lane reads it: zero from a dead lane (R121). -/
def Cur.fromLane (c : Cur) (code j : Nat) : Word :=
  if c.wv.gone.getLsbD j then 0 else c.opnd false 0 code j

/-- SHFL (R122). -/
def execShfl (n : Bool) (d a b : BitVec 8) (s : State) : Out :=
  runWord s (formV3 0x40 xcInt false 6 n d a b) fun c f =>
    vecResult s c f false n d.toNat fun l =>
      let j := (c.opnd false 1 b.toNat l).toNat
      pureInt (if j < 32 then c.fromLane a.toNat j else c.opnd false 0 a.toNat l)

/-- The highest-numbered executing lane that sends to lane l (R123). -/
def permSender (c : Cur) (b l : Nat) : Nat → Option Nat
  | 0 => none
  | k + 1 =>
    if c.execMask.getLsbD k && (c.opnd false 1 b k).toNat == l then some k else permSender c b l k

/-- PERM (R123). With nwb set V[D] is neither read nor waited for: L0 of a lane to which no lane sends takes V0, the
field D being 0 (DEDUCED, log 49). -/
def execPerm (n : Bool) (d a b : BitVec 8) (s : State) : Out :=
  runWord s (formV3 0x41 xcInt false 6 n d a b) fun c f =>
    vecResult s c f false n d.toNat fun l =>
      pureInt (match permSender c b.toNat l 32 with
        | some j => c.opnd false 0 a.toNat j
        | none => vLane c.wv.v d.toNat l)

/-- VOTE's value over the executing lanes (R124). -/
def voteBit (cond : Nat) (e q : Mask) : Bool :=
  match cond with
  | 0 => decide (e &&& q ≠ 0)
  | 1 => decide (e &&& ~~~q = 0)
  | _ => decide (e &&& q = 0) || decide (e &&& ~~~q = 0)

/-- Checks and registers of VOTE. -/
def formVote (k p : BitVec 4) (old : Bool) (q : BitVec 4) (c : Cur) : Form :=
  { opcode := 0x42, fieldsOk := decide (k.toNat ≤ 2), xc := { b := .imm }, takesXp := true,
    operandsOk := true,
    reads := { v := [], s := [], p := q.toNat :: c.xcReads ++ (if old then [p.toNat] else []), t := [] },
    writes := { noRegs with p := [p.toNat] }, lat := c.latency 6 }
/-- VOTE (R124). -/
def execVote (k p : BitVec 4) (old : Bool) (q : BitVec 4) (s : State) : Out :=
  runWord s (formVote k p old q) fun c f =>
    predResult s c f p.toNat old fun _ => (voteBit k.toNat c.execMask (c.wv.getP q.toNat), 0)

/-- Checks and registers of BALLOT. -/
def formBallot (d : BitVec 8) (p : BitVec 4) (c : Cur) : Form :=
  let sd := c.sNum 2 d
  { opcode := 0x43, fieldsOk := true, xc := { d := .sreg, b := .imm }, takesXp := true,
    operandsOk := c.sregsOk sd 1 1,
    reads := { v := [], s := [], p := p.toNat :: c.xcReads, t := [] },
    writes := { noRegs with s := [sd] }, lat := c.latency 6 }
/-- BALLOT (R125). -/
def execBallot (d : BitVec 8) (p : BitVec 4) (s : State) : Out :=
  runWord s (formBallot d p) fun c f =>
    scalarResult s c f (c.sNum 2 d) (c.execMask &&& c.wv.getP p.toNat) 0

/-- The lanes of A, absent where a lane does not execute (R77). -/
def Cur.present (c : Cur) (a : Nat) : List (Option Word) :=
  (List.range 32).map fun l => if c.execMask.getLsbD l then some (c.opnd false 0 a l) else none

/-- NV when a signalling NaN is in a present lane under a floating operator (R126). -/
def sigFlags (op : Nat) (xs : List (Option Word)) : FlagSet :=
  flIf (decide (op ≥ 8) && xs.any fun o => match o with
    | some w => (f32 w).isSig
    | none => false) flNV

/-- Checks and registers of WRED. -/
def formWred (d a f : BitVec 8) (c : Cur) : Form :=
  let sd := c.sNum 2 d
  { opcode := 0x44, fieldsOk := decide (f.toNat ≤ 10), xc := { xpA := true, d := .sreg, b := .imm },
    takesXp := true, operandsOk := c.sregsOk sd 1 1 && c.srcOk a.toNat,
    reads := { v := srcRegs a.toNat 1, s := [], p := c.xcReads, t := [] },
    writes := { noRegs with s := [sd] }, lat := c.latency 12 }
/-- WRED (R126). -/
def execWred (d a f : BitVec 8) (s : State) : Out :=
  runWord s (formWred d a f) fun c g =>
    let xs := c.present a.toNat
    let r := combTree f.toNat 5 xs
    scalarResult s c g (c.sNum 2 d)
      (match r.1 with
        | some w => canonWord f.toNat w
        | none => combIdentity f.toNat)
      (r.2 ||| sigFlags f.toNat xs)

/-- WSCAN (R127): the flags are those of WRED, taken once for the word. -/
def execWscan (n : Bool) (d a f : BitVec 8) (s : State) : Out :=
  runWord s (formU 0x45 xcUn (decide (f.toNat ≤ 10)) 12 n d a) fun c g =>
    let xs := c.present a.toNat
    let r := scanAll f.toNat 5 1 xs
    vecResult s c g false n d.toNat fun l =>
      (canonWord f.toNat ((r.1.getD l none).getD 0), r.2 ||| sigFlags f.toNat xs)

/-- Checks and registers of V2S. -/
def formV2s (d a : BitVec 8) (c : Cur) : Form :=
  let sd := c.sNum 2 d
  { opcode := 0x46, fieldsOk := true, xc := { pred := false, d := .sreg, b := .imm }, takesXp := true,
    operandsOk := c.sregsOk sd 1 1 && c.srcOk a.toNat,
    reads := { v := srcRegs a.toNat 1, s := [], p := c.xcReads, t := [] },
    writes := { noRegs with s := [sd] }, lat := c.latency 6 }
/-- V2S (R128): lane imm8 of A, zero from a dead lane. -/
def execV2s (d a : BitVec 8) (l : BitVec 5) (s : State) : Out :=
  runWord s (formV2s d a) fun c f =>
    scalarResult s c f (c.sNum 2 d) (c.fromLane a.toNat l.toNat) 0

/-- Checks and registers of S2V. -/
def formS2v (n : Bool) (d a : BitVec 8) (c : Cur) : Form :=
  let sa := c.sNum 1 a
  { opcode := 0x47, fieldsOk := !n || d == 0, xc := { a := .sreg, b := .imm }, takesXp := true,
    operandsOk := c.dstOk n d.toNat && c.sregsOk sa 1 1,
    reads := { v := [], s := [sa], p := c.xcReads, t := [] },
    writes := { noRegs with v := if n then [] else [d.toNat] }, lat := c.latency 6 }
/-- S2V (R128). -/
def execS2v (n : Bool) (d a : BitVec 8) (s : State) : Out :=
  runWord s (formS2v n d a) fun c f =>
    vecResult s c f false n d.toNat fun _ => pureInt (c.wv.getS (c.sNum 1 a))

end Sys2Proof.Machine
end

