-- ==== Sys2Proof/Machine/Dispatch.lean ====
section
/-! DEFINITION. The meaning of every instruction: one arm per constructor. -/

namespace Sys2Proof.Machine

open Sys2Proof

/-- What instruction `i` does in state `s`. -/
def exec (i : Instr) (s : State) : Host.Outcome State Fault Refusal :=
  match i with
  | .iadd n d a b => Sys2Proof.Machine.execIadd n d a b s
  | .isub n d a b => Sys2Proof.Machine.execIsub n d a b s
  | .imul n d a b => Sys2Proof.Machine.execImul n d a b s
  | .imulhs n d a b => Sys2Proof.Machine.execImulhs n d a b s
  | .imulhu n d a b => Sys2Proof.Machine.execImulhu n d a b s
  | .imad n d a b => Sys2Proof.Machine.execImad n d a b s
  | .imin n d a b => Sys2Proof.Machine.execImin n d a b s
  | .imax n d a b => Sys2Proof.Machine.execImax n d a b s
  | .umin n d a b => Sys2Proof.Machine.execUmin n d a b s
  | .umax n d a b => Sys2Proof.Machine.execUmax n d a b s
  | .and n d a b => Sys2Proof.Machine.execAnd n d a b s
  | .or n d a b => Sys2Proof.Machine.execOr n d a b s
  | .xor n d a b => Sys2Proof.Machine.execXor n d a b s
  | .andn n d a b => Sys2Proof.Machine.execAndn n d a b s
  | .shl n d a b => Sys2Proof.Machine.execShl n d a b s
  | .shr n d a b => Sys2Proof.Machine.execShr n d a b s
  | .sar n d a b => Sys2Proof.Machine.execSar n d a b s
  | .rotl n d a b => Sys2Proof.Machine.execRotl n d a b s
  | .iun n d a f => Sys2Proof.Machine.execIun n d a f s
  | .bfx n d a b => Sys2Proof.Machine.execBfx n d a b s
  | .bfi n d a b => Sys2Proof.Machine.execBfi n d a b s
  | .iaddi n d a im => Sys2Proof.Machine.execIaddi n d a im s
  | .shli n d a im => Sys2Proof.Machine.execShli n d a im s
  | .shri n d a im => Sys2Proof.Machine.execShri n d a im s
  | .sari n d a im => Sys2Proof.Machine.execSari n d a im s
  | .andi n d a im => Sys2Proof.Machine.execAndi n d a im s
  | .ori n d a im => Sys2Proof.Machine.execOri n d a im s
  | .xori n d a im => Sys2Proof.Machine.execXori n d a im s
  | .movi n d im => Sys2Proof.Machine.execMovi n d im s
  | .movhi d im => Sys2Proof.Machine.execMovhi d im s
  | .mov n d a => Sys2Proof.Machine.execMov n d a s
  | .icmp c p w a b => Sys2Proof.Machine.execIcmp c p w a b s
  | .fadd n d a b => Sys2Proof.Machine.execFadd n d a b s
  | .fsub n d a b => Sys2Proof.Machine.execFsub n d a b s
  | .fmul n d a b => Sys2Proof.Machine.execFmul n d a b s
  | .ffma n d a b => Sys2Proof.Machine.execFfma n d a b s
  | .fmin n d a b => Sys2Proof.Machine.execFmin n d a b s
  | .fmax n d a b => Sys2Proof.Machine.execFmax n d a b s
  | .fun n d a f => Sys2Proof.Machine.execFun n d a f s
  | .fcmp c p w a b => Sys2Proof.Machine.execFcmp c p w a b s
  | .sel n d a b => Sys2Proof.Machine.execSel n d a b s
  | .badd2 n d a b => Sys2Proof.Machine.execBadd2 n d a b s
  | .bmul2 n d a b => Sys2Proof.Machine.execBmul2 n d a b s
  | .bfma2 n d a b => Sys2Proof.Machine.execBfma2 n d a b s
  | .hadd2 n d a b => Sys2Proof.Machine.execHadd2 n d a b s
  | .hmul2 n d a b => Sys2Proof.Machine.execHmul2 n d a b s
  | .hfma2 n d a b => Sys2Proof.Machine.execHfma2 n d a b s
  | .dot4i n d a b => Sys2Proof.Machine.execDot4i n d a b s
  | .dot2b n d a b => Sys2Proof.Machine.execDot2b n d a b s
  | .dot4f8 n d a b => Sys2Proof.Machine.execDot4f8 n d a b s
  | .ldexp n d a b => Sys2Proof.Machine.execLdexp n d a b s
  | .cvt n d a f => Sys2Proof.Machine.execCvt n d a f s
  | .f8pack n d a b => Sys2Proof.Machine.execF8pack n d a b s
  | .f8unpk d a b => Sys2Proof.Machine.execF8unpk d a b s
  | .sfu n d a f => Sys2Proof.Machine.execSfu n d a f s
  | .qamax d a => Sys2Proof.Machine.execQamax d a s
  | .qscale d a m => Sys2Proof.Machine.execQscale d a m s
  | .rng d a b => Sys2Proof.Machine.execRng d a b s
  | .shfl n d a b => Sys2Proof.Machine.execShfl n d a b s
  | .perm n d a b => Sys2Proof.Machine.execPerm n d a b s
  | .vote c p w sv => Sys2Proof.Machine.execVote c p w sv s
  | .ballot d p => Sys2Proof.Machine.execBallot d p s
  | .wred d a f => Sys2Proof.Machine.execWred d a f s
  | .wscan n d a f => Sys2Proof.Machine.execWscan n d a f s
  | .v2s d a l => Sys2Proof.Machine.execV2s d a l s
  | .s2v n d a => Sys2Proof.Machine.execS2v n d a s
  | .sadd d a b => Sys2Proof.Machine.execSadd d a b s
  | .ssub d a b => Sys2Proof.Machine.execSsub d a b s
  | .smul d a b => Sys2Proof.Machine.execSmul d a b s
  | .sand d a b => Sys2Proof.Machine.execSand d a b s
  | .sor d a b => Sys2Proof.Machine.execSor d a b s
  | .sxor d a b => Sys2Proof.Machine.execSxor d a b s
  | .sshl d a b => Sys2Proof.Machine.execSshl d a b s
  | .sshr d a b => Sys2Proof.Machine.execSshr d a b s
  | .ssar d a b => Sys2Proof.Machine.execSsar d a b s
  | .smin d a b => Sys2Proof.Machine.execSmin d a b s
  | .smax d a b => Sys2Proof.Machine.execSmax d a b s
  | .saddi d a im => Sys2Proof.Machine.execSaddi d a im s
  | .smovi d im => Sys2Proof.Machine.execSmovi d im s
  | .scmp c p w a b => Sys2Proof.Machine.execScmp c p w a b s
  | .sadd64 d a b => Sys2Proof.Machine.execSadd64 d a b s
  | .ssel d a b => Sys2Proof.Machine.execSsel d a b s
  | .tld t v n => Sys2Proof.Machine.execTld t v n s
  | .tst t v n => Sys2Proof.Machine.execTst t v n s
  | .tmma d a b t => Sys2Proof.Machine.execTmma d a b t s
  | .tmmac d a b t => Sys2Proof.Machine.execTmmac d a b t s
  | .tzero t => Sys2Proof.Machine.execTzero t s
  | .tmov r v t => Sys2Proof.Machine.execTmov r v t s
  | .movl n d lit => Sys2Proof.Machine.execMovl n d lit s
  | .smovl d lit => Sys2Proof.Machine.execSmovl d lit s
  | .ldb d v n im z => Sys2Proof.Machine.execLdb d v n im z s
  | .ldh d v n im z => Sys2Proof.Machine.execLdh d v n im z s
  | .ldw d v n im z => Sys2Proof.Machine.execLdw d v n im z s
  | .ldd d v n im z => Sys2Proof.Machine.execLdd d v n im z s
  | .ldq d v n im z => Sys2Proof.Machine.execLdq d v n im z s
  | .stb d v n im z => Sys2Proof.Machine.execStb d v n im z s
  | .sth d v n im z => Sys2Proof.Machine.execSth d v n im z s
  | .stw d v n im z => Sys2Proof.Machine.execStw d v n im z s
  | .std d v n im z => Sys2Proof.Machine.execStd d v n im z s
  | .stq d v n im z => Sys2Proof.Machine.execStq d v n im z s
  | .sldw d n im => Sys2Proof.Machine.execSldw d n im s
  | .sldd d n im => Sys2Proof.Machine.execSldd d n im s
  | .atom f d v n => Sys2Proof.Machine.execAtom f d v n s
  | .atomn f d v n => Sys2Proof.Machine.execAtomn f d v n s
  | .fence sv k m => Sys2Proof.Machine.execFence sv k m s
  | .drain p => Sys2Proof.Machine.execDrain p s
  | .copy b k => Sys2Proof.Machine.execCopy b k s
  | .copyg b k im => Sys2Proof.Machine.execCopyg b k im s
  | .copys b k im => Sys2Proof.Machine.execCopys b k im s
  | .kstat d k => Sys2Proof.Machine.execKstat d k s
  | .rayq q r n f => Sys2Proof.Machine.execRayq q r n f s
  | .ald v o w => Sys2Proof.Machine.execAld v o w s
  | .ast v o w => Sys2Proof.Machine.execAst v o w s
  | .csend b k => Sys2Proof.Machine.execCsend b k s
  | .coll b k => Sys2Proof.Machine.execColl b k s
  | .wrecPost p v q => Sys2Proof.Machine.execWrecPost p v q s
  | .wrecTake p v => Sys2Proof.Machine.execWrecTake p v s
  | .wrecReturn => Sys2Proof.Machine.execWrecReturn s
  | .bra p g sv => Sys2Proof.Machine.execBra p g sv s
  | .brc p g sv => Sys2Proof.Machine.execBrc p g sv s
  | .call p g sv => Sys2Proof.Machine.execCall p g sv s
  | .rcv sv => Sys2Proof.Machine.execRcv sv s
  | .nop => Sys2Proof.Machine.execNop s
  | .ret => Sys2Proof.Machine.execRet s
  | .exit => Sys2Proof.Machine.execExit s
  | .yield => Sys2Proof.Machine.execYield s
  | .trap c => Sys2Proof.Machine.execTrap c s
  | .bkpt c => Sys2Proof.Machine.execBkpt c s
  | .bar b w => Sys2Proof.Machine.execBar b w s
  | .gsync sv => Sys2Proof.Machine.execGsync sv s
  | .mbar b m => Sys2Proof.Machine.execMbar b m s
  | .waitv n c k v => Sys2Proof.Machine.execWaitv n c k v s
  | .step n => Sys2Proof.Machine.execStep n s
  | .launch n q => Sys2Proof.Machine.execLaunch n q s
  | .grow im d => Sys2Proof.Machine.execGrow im d s
  | .chsend c d => Sys2Proof.Machine.execChsend c d s
  | .chrecv c d p => Sys2Proof.Machine.execChrecv c d p s
  | .chclose c => Sys2Proof.Machine.execChclose c s
  | .pref n o l => Sys2Proof.Machine.execPref n o l s
  | .cinv n o a => Sys2Proof.Machine.execCinv n o a s
  | .rdcpurge n o a => Sys2Proof.Machine.execRdcpurge n o a s
  | .csrr sv d => Sys2Proof.Machine.execCsrr sv d s
  | .csrw sv r => Sys2Proof.Machine.execCsrw sv r s
  | .sleep n => Sys2Proof.Machine.execSleep n s
  | .brx n c => Sys2Proof.Machine.execBrx n c s
  | .xp a b c d e f => Sys2Proof.Machine.execXp a b c d e f s
  | .xc p g c r sv n im => Sys2Proof.Machine.execXc p g c r sv n im s
  | .mend => Sys2Proof.Machine.execMend s
  | .mmac acc m t x off stride => Sys2Proof.Machine.execMmac acc m t x off stride s
  | .mmacb acc m t x off stride => Sys2Proof.Machine.execMmacb acc m t x off stride s
  | .mmaci acc m t x off stride => Sys2Proof.Machine.execMmaci acc m t x off stride s
  | .mcmac acc m t x off stride => Sys2Proof.Machine.execMcmac acc m t x off stride s
  | .mmace5 acc m t x off stride => Sys2Proof.Machine.execMmace5 acc m t x off stride s
  | .msa w m sv x off => Sys2Proof.Machine.execMsa w m sv x off s
  | .msai w m sat => Sys2Proof.Machine.execMsai w m sat s
  | .mclr win w c => Sys2Proof.Machine.execMclr win w c s
  | .mout w m fmt x off stride => Sys2Proof.Machine.execMout w m fmt x off stride s
  | .streamMbar b mode => Sys2Proof.Machine.execStreamMbar b mode s
  | .mset x hi imm => Sys2Proof.Machine.execMset x hi imm s
  | .madv d x imm => Sys2Proof.Machine.execMadv d x imm s
  | .mloop x off => Sys2Proof.Machine.execMloop x off s
  | .atopk w c k len x off => Sys2Proof.Machine.execAtopk w c k len x off s
  | .asmax w c k len => Sys2Proof.Machine.execAsmax w c k len s
  | .asample w c list key ctr d len x off => Sys2Proof.Machine.execAsample w c list key ctr d len x off s
  | .mstep n => Sys2Proof.Machine.execMstep n s
  | .mnop => Sys2Proof.Machine.execMnop s
  | .clauseSelect core sub slot1 => Sys2Proof.Machine.execClauseSelect core sub slot1 s
  | .deferredMove b wv => Sys2Proof.Machine.execDeferredMove b wv s
  | .instructionFetchComplete core cx line => Sys2Proof.Machine.execInstructionFetchComplete core cx line s
  | .wavePromote b wv => Sys2Proof.Machine.execWavePromote b wv s
  | .resultWriteback b wv => Sys2Proof.Machine.execResultWriteback b wv s
  | .storeLeaveCore b wv => Sys2Proof.Machine.execStoreLeaveCore b wv s
  | .loadComplete b wv => Sys2Proof.Machine.execLoadComplete b wv s
  | .atomReturn b wv => Sys2Proof.Machine.execAtomReturn b wv s
  | .abortCompletion site => Sys2Proof.Machine.execAbortCompletion site s
  | .strikeRollback core => Sys2Proof.Machine.execStrikeRollback core s
  | .strikeUncore die => Sys2Proof.Machine.execStrikeUncore die s
  | .residueReissue core sub phys recurs => Sys2Proof.Machine.execResidueReissue core sub phys recurs s
  | .columnRemap core col recurs => Sys2Proof.Machine.execColumnRemap core col recurs s
  | .deadlockDetect b => Sys2Proof.Machine.execDeadlockDetect b s
  | .sleepExpire b wv => Sys2Proof.Machine.execSleepExpire b wv s
  | .setPhaseComplete l set => Sys2Proof.Machine.execSetPhaseComplete l set s
  | .waitvReread b wv => Sys2Proof.Machine.execWaitvReread b wv s
  | .fenceComplete b wv => Sys2Proof.Machine.execFenceComplete b wv s
  | .drainComplete b wv => Sys2Proof.Machine.execDrainComplete b wv s
  | .copySector core => Sys2Proof.Machine.execCopySector core s
  | .streamOwnerChange core => Sys2Proof.Machine.execStreamOwnerChange core s
  | .streamFault b => Sys2Proof.Machine.execStreamFault b s
  | .rayqComplete b wv => Sys2Proof.Machine.execRayqComplete b wv s
  | .launchPacket ap ws => Sys2Proof.Machine.execLaunchPacket ap ws s
  | .resume ap ws => Sys2Proof.Machine.execResume ap ws s
  | .qownWrite q v => Sys2Proof.Machine.execQownWrite q v s
  | .registerWrite off v => Sys2Proof.Machine.execRegisterWrite off v s
  | .launchStart q => Sys2Proof.Machine.execLaunchStart q s
  | .memoryWaitReread q => Sys2Proof.Machine.execMemoryWaitReread q s
  | .dispatchBlock => Sys2Proof.Machine.execDispatchBlock s
  | .blockStart core => Sys2Proof.Machine.execBlockStart core s
  | .stealRequest core => Sys2Proof.Machine.execStealRequest core s
  | .blockEnd b => Sys2Proof.Machine.execBlockEnd b s
  | .launchComplete l => Sys2Proof.Machine.execLaunchComplete l s
  | .pocketFrameGrant cx => Sys2Proof.Machine.execPocketFrameGrant cx s
  | .requestEntryWrite cx => Sys2Proof.Machine.execRequestEntryWrite cx s
  | .blockHalt b => Sys2Proof.Machine.execBlockHalt b s
  | .haltSave b => Sys2Proof.Machine.execHaltSave b s
  | .trapRecordWrite cx => Sys2Proof.Machine.execTrapRecordWrite cx s
  | .deadlineExpire core cx => Sys2Proof.Machine.execDeadlineExpire core cx s
  | .cutReport l => Sys2Proof.Machine.execCutReport l s
  | .cutComplete l => Sys2Proof.Machine.execCutComplete l s
  | .hostWrite pa data => Sys2Proof.Machine.execHostWrite pa data s
  | .linkTraining port peer peerPort => Sys2Proof.Machine.execLinkTraining port peer peerPort s
  | .nullFlit port f => Sys2Proof.Machine.execNullFlit port f s
  | .readFlit port f => Sys2Proof.Machine.execReadFlit port f s
  | .writeFlit port f => Sys2Proof.Machine.execWriteFlit port f s
  | .atomFlit port f => Sys2Proof.Machine.execAtomFlit port f s
  | .recFlit port f => Sys2Proof.Machine.execRecFlit port f s
  | .collFlit port f => Sys2Proof.Machine.execCollFlit port f s
  | .rdataFlit port f => Sys2Proof.Machine.execRdataFlit port f s
  | .wackFlit port f => Sys2Proof.Machine.execWackFlit port f s
  | .arspFlit port f => Sys2Proof.Machine.execArspFlit port f s
  | .abortFlit port f => Sys2Proof.Machine.execAbortFlit port f s
  | .totalsFlit port f => Sys2Proof.Machine.execTotalsFlit port f s
  | .lendFlit port f => Sys2Proof.Machine.execLendFlit port f s
  | .linkNak port f => Sys2Proof.Machine.execLinkNak port f s
  | .flitForward port f => Sys2Proof.Machine.execFlitForward port f s
  | .lendingRound port => Sys2Proof.Machine.execLendingRound port s
  | .lendResend port => Sys2Proof.Machine.execLendResend port s
  | .totalsSend peer cls => Sys2Proof.Machine.execTotalsSend peer cls s
  | .requestTimeout target idx => Sys2Proof.Machine.execRequestTimeout target idx s
  | .tagQuarantineEnd target idx => Sys2Proof.Machine.execTagQuarantineEnd target idx s
  | .staleDrop port => Sys2Proof.Machine.execStaleDrop port s
  | .targetTick => Sys2Proof.Machine.execTargetTick s
  | .collAccept b wv => Sys2Proof.Machine.execCollAccept b wv s
  | .chunkStep => Sys2Proof.Machine.execChunkStep s
  | .priorityAgeing id => Sys2Proof.Machine.execPriorityAgeing id s
  | .chunkLost id => Sys2Proof.Machine.execChunkLost id s
  | .uetMessage src data => Sys2Proof.Machine.execUetMessage src data s
  | .commFree id => Sys2Proof.Machine.execCommFree id s
  | .hbmReadTransfer pa x => Sys2Proof.Machine.execHbmReadTransfer pa x s
  | .hbmWriteTransfer pa x => Sys2Proof.Machine.execHbmWriteTransfer pa x s
  | .throttleStep die x => Sys2Proof.Machine.execThrottleStep die x s
  | .firmwareActivate unit => Sys2Proof.Machine.execFirmwareActivate unit s
  | .reset => Sys2Proof.Machine.execReset s
  | .mchkEntryFree core j => Sys2Proof.Machine.execMchkEntryFree core j s
  | .logEntryFree stack xfer j => Sys2Proof.Machine.execLogEntryFree stack xfer j s
  | .mread tag off n => Sys2Proof.Machine.execMread tag off n s
  | .mwrite tag off ws => Sys2Proof.Machine.execMwrite tag off ws s
  | .ctxwrite tag cx desc => Sys2Proof.Machine.execCtxwrite tag cx desc s
  | .preempt tag cx => Sys2Proof.Machine.execPreempt tag cx s
  | .preemptCut tag cx q sq => Sys2Proof.Machine.execPreemptCut tag cx q sq s
  | .unpreempt tag cx => Sys2Proof.Machine.execUnpreempt tag cx s
  | .resetctx tag cx => Sys2Proof.Machine.execResetctx tag cx s
  | .invalidate tag cx base len => Sys2Proof.Machine.execInvalidate tag cx base len s
  | .commcreate tag cx rec => Sys2Proof.Machine.execCommcreate tag cx rec s
  | .commretire tag id => Sys2Proof.Machine.execCommretire tag id s
  | .recarea tag cx addr slots => Sys2Proof.Machine.execRecarea tag cx addr slots s
  | .uetpeer tag idx entry => Sys2Proof.Machine.execUetpeer tag idx entry s
  | .keyset tag cx slot key => Sys2Proof.Machine.execKeyset tag cx slot key s
  | .keyempty tag cx slot => Sys2Proof.Machine.execKeyempty tag cx slot s
  | .mint tag dev cx rights win ext sub life => Sys2Proof.Machine.execMint tag dev cx rights win ext sub life s
  | .window tag idx entry => Sys2Proof.Machine.execWindow tag idx entry s
  | .fenceCommand tag kind part => Sys2Proof.Machine.execFenceCommand tag kind part s
  | .unfence tag kind part => Sys2Proof.Machine.execUnfence tag kind part s
  | .route tag dst entry => Sys2Proof.Machine.execRoute tag dst entry s
  | .fwupdate tag addr len => Sys2Proof.Machine.execFwupdate tag addr len s
  | .attest tag nonce => Sys2Proof.Machine.execAttest tag nonce s
  | .clock tag die mhz => Sys2Proof.Machine.execClock tag die mhz s
  | .freeze tag => Sys2Proof.Machine.execFreeze tag s
  | .repairclr tag idx => Sys2Proof.Machine.execRepairclr tag idx s
  | .undefinedOpcode w => Sys2Proof.Machine.execUndefinedOpcode w s
  | .crcFailure port f => Sys2Proof.Machine.execCrcFailure port f s
  | .linkDown kind num => Sys2Proof.Machine.execLinkDown kind num s
  | .unlistedCommandCode code tag => Sys2Proof.Machine.execUnlistedCommandCode code tag s
  | .uetRetransmission peer => Sys2Proof.Machine.execUetRetransmission peer s
  | .uetAcknowledgement peer => Sys2Proof.Machine.execUetAcknowledgement peer s

end Sys2Proof.Machine
end

