-- ==== Sys2Proof/Machine/Due.lean ====
section
/-! DEFINITION. The device's own steps that are due: each is found from the state, and its meaning is the
one of the opcode table's row (log 1). -/

namespace Sys2Proof.Machine

open Sys2Proof

/-- The state an event leads to, when that is a change. -/
def changed (s : State) (o : Out) : Option State := match o with
  | .next t => if t = s then none else some t
  | _ => none

/-- The state an event leads to. -/
def took (o : Out) : Option State := match o with
  | .next t => some t
  | _ => none

/-- An event that is tried under a condition. -/
def tryIf (c : Bool) (s : State) (o : State → Out) : Option State := if c then changed s (o s) else none

/-- An event that is taken under a condition that says it has an effect. -/
def takeIf (c : Bool) (s : State) (o : State → Out) : Option State := if c then took (o s) else none

/-- The wave waits in a FENCE or CINV that is ready. -/
def State.fenceDue (s : State) (b : Block) (w : Wave) : Bool := match w.run with
  | .fence h => fenceReady s b w h
  | _ => false

/-- The wave waits in a DRAIN. -/
def Wave.draining (w : Wave) : Bool := match w.run with
  | .drain _ => true
  | _ => false

/-- The wave's sleep is over (R188). -/
def Wave.sleepOver (w : Wave) (cycles : Nat) : Bool := match w.run with
  | .sleeping t => decide (t ≤ cycles)
  | _ => false

/-- The wave's next read for WAITV is due: the home L2 has reported a write to the line, or 4,096 cycles have
passed (R197). -/
def State.rereadDue (s : State) (core : Nat) (w : Wave) : Bool := match w.run with
  | .waitv a => a.asked.isNone && (decide (a.next ≤ s.coreCycles core) || (a.line.isSome && s.lineStamp (a.line.getD 0) != a.seen))
  | _ => false

/-- The wave's oldest RAYQ may go on (R280). -/
def Wave.rayDue (w : Wave) (now : Nat) : Bool := match w.rays with
  | o :: _ => decide (o.due ≤ now) && o.asked.isEmpty
  | [] => false

/-- The lines that a wave's parts need and the instruction cache does not hold (R8). -/
def State.linesNeeded (s : State) (b : Block) (w : Wave) : List Nat :=
  if !s.mayIssue b w then []
  else w.parts.filterMap fun e =>
    if e.2.wait == .none || e.2.wait == .merged then s.missingLine b.core b.ctx e.2.pc else none

/-- A wave's first step that is due. -/
def State.dueWave (s : State) (b : Block) (w : Wave) : Option State :=
  let u := b.uid
  let i := w.idx
  let list : List (State → Option State) :=
    [fun s => takeIf (w.pend.any fun p => decide (p.due ≤ s.now)) s (execResultWriteback u i),
     fun s => takeIf (w.loadDone s.now).isSome s (execLoadComplete u i),
     fun s => tryIf (w.leaving (s.aged b.core)).isSome s (execStoreLeaveCore u i),
     fun s => tryIf (!w.atoms.isEmpty) s (execAtomReturn u i),
     fun s => tryIf (s.fenceDue b w) s (execFenceComplete u i),
     fun s => tryIf w.draining s (execDrainComplete u i),
     fun s => takeIf (w.sleepOver (s.coreCycles b.core)) s (execSleepExpire u i),
     fun s => tryIf (s.rereadDue b.core w) s (execWaitvReread u i),
     fun s => tryIf (w.rayDue s.now) s (execRayqComplete u i),
     fun s => takeIf (w.deferred.isSome && w.freeEntry.isSome && !s.issues.any fun x => x.block == u && x.wave == i) s
       (execDeferredMove u i),
     fun s => takeIf (w.starved (s.since b.core)) s (execWavePromote u i)]
  match list.findSome? fun f => f s with
  | some t => some t
  | none => (s.linesNeeded b w).findSome? fun l => changed s (execInstructionFetchComplete b.core b.ctx l s)

/-- A block is halted and its record has still to come. -/
def State.haltDue (s : State) (b : Block) : Bool := match b.halt with
  | some h => !h.saved && s.haltDone b h
  | none => false

/-- The line that a block's stream needs (R54, R255). -/
def State.streamLine (s : State) (b : Block) : Option Nat := match b.stream with
  | some t => if b.streamReady && !s.icHas b.core b.ctx (t.pc.toNat / 128) then some (t.pc.toNat / 128) else none
  | none => none

/-- A block's first step that is due. -/
def State.dueBlock (s : State) (b : Block) : Option State :=
  let u := b.uid
  let first : List (State → Option State) :=
    [fun s => takeIf (b.toSignal s.now) s (execBlockHalt u),
     fun s => takeIf (b.deadlocked (s.since b.core)) s (execDeadlockDetect u),
     fun s => tryIf (s.haltDue b) s (execHaltSave u),
     fun s => tryIf (s.blockDrained b || b.haltOver) s (execBlockEnd u),
     fun s => match s.streamLine b with
       | some l => changed s (execInstructionFetchComplete b.core b.ctx l s)
       | none => none]
  match first.findSome? fun f => f s with
  | some t => some t
  | none => b.waves.findSome? fun w => s.dueWave b w

/-- The array of a core changes hands (R255). -/
def State.ownerDue (s : State) (core : Nat) : Bool :=
  !(s.core core).fencedArray && match s.nextOwner core with
    | some b => s.ownerYields core b
    | none => false

/-- A core's first step that is due. -/
def State.dueCore (s : State) (core : Nat) : Option State :=
  let slots : List (Nat × Bool) := (List.range Config.nSub).flatMap fun k => [(k, false), (k, true)]
  let list : List (State → Option State) :=
    [fun s => match s.copyStep core with
       | some _ => changed s (execCopySector core s)
       | none => none,
     fun s => takeIf (s.ownerDue core) s (execStreamOwnerChange core)]
  match list.findSome? fun f => f s with
  | some t => some t
  | none =>
    match (s.blocks.filter fun b => b.core == core).findSome? fun b => b.waves.findSome? fun w => s.noteDue b w with
    | some t => some t
    | none => slots.findSome? fun e => takeIf (s.choose core e.1 e.2).isSome s (execClauseSelect core e.1 e.2)

/-- A context's first step that is due. -/
def State.dueCtx (s : State) (x : Ctx) : Option State :=
  let c := x.id
  let list : List (State → Option State) :=
    [fun s => (x.timers.map fun t => t.1).findSome? fun k => takeIf (s.deadlinePassed k c) s (execDeadlineExpire k c),
     fun s => tryIf (!x.trapWait.isEmpty && s.trapRoom x) s (execTrapRecordWrite c),
     fun s => tryIf (!x.entryWait.isEmpty && x.ringRoom) s (execRequestEntryWrite c),
     fun s => tryIf (s.trapDue x) s (execPocketFrameGrant c)]
  list.findSome? fun f => f s

/-- A launch's first step that is due. -/
def State.dueLaunch (s : State) (l : Launch) : Option State :=
  let u := l.uid
  let list : List (State → Option State) :=
    [fun s => if s.checkDue l then some (s.checkNext l) else none,
     fun s => takeIf (s.launchDone l) s (execLaunchComplete u),
     fun s => (l.phases.map fun e => e.1).findSome? fun x => takeIf (s.setDone l x) s (execSetPhaseComplete u x),
     fun s => tryIf (s.cutReady l) s (execCutComplete u),
     fun s => tryIf (l.cut.isSome && !(s.cutReports l).isEmpty) s (execCutReport u),
     fun s => tryIf (((s.headOf l.queue).map fun h => h.uid) == some u && s.waitDue l) s (execMemoryWaitReread l.queue)]
  list.findSome? fun f => f s

/-- The dispatcher's cycle (R302, R305). -/
def State.dueDispatch (s : State) : Option State := match s.dispatchPick with
  | none => none
  | some l => if l.started then changed s (execDispatchBlock s) else changed s (execLaunchStart l.queue s)

/-- A port's first step that is due. -/
def State.duePort (s : State) (p : Port) : Option State :=
  let k := p.id
  let list : List (State → Option State) :=
    [fun s => takeIf (p.up && decide (s.flitNow ≥ p.roundAt + 1024)) s (execLendingRound k),
     fun s => takeIf (p.up && p.stage != 0 && p.lackSeen != p.epoch && decide (s.flitNow ≥ p.lendAt + 64)) s (execLendResend k),
     fun s => takeIf (p.rx.any fun e => decide (e.1 + 2 ^ 19 ≤ s.svNow)) s (execStaleDrop k),
     fun s => p.rx.findSome? fun e => changed s (execFlitForward k e.2.2 s)]
  list.findSome? fun f => f s

/-- The fabric's first step that is due: timers, ports, and flits that wait to be sent. -/
def State.dueFabric (s : State) : Option State :=
  let list : List (State → Option State) :=
    [fun s => takeIf (s.svNow / 2 ^ 22 % 2048 != s.sv.tick.toNat) s execTargetTick,
     fun s => s.sv.ports.findSome? fun p => s.duePort p,
     fun s => s.sv.tags.findSome? fun t =>
       takeIf (decide (s.svNow ≥ t.sent + 2 ^ s.mgmt.svTimeout)) s (execRequestTimeout t.target t.idx),
     fun s => s.sv.quarantine.findSome? fun q => takeIf (decide (q.2.2.1 ≤ s.svNow)) s (execTagQuarantineEnd q.1 q.2.1),
     fun s => s.sv.totals.findSome? fun t => takeIf (t.due s.svNow) s (execTotalsSend t.peer t.cls),
     fun s => if s.sv.egress.isEmpty then none
       else if s.pump.sv.egress.length < s.sv.egress.length then some s.pump else none]
  list.findSome? fun f => f s

/-- A communicator waits longer than a chunk may take (R410). -/
def State.chunkLate (s : State) (c : Comm) : Bool :=
  let late (t : Nat) : Bool := decide (t + Config.chunkTimeout ≤ s.svNow)
  match c.missingInput with
  | some (r, _) => late r.since
  | none => match c.run.filter fun r => r.todo.isEmpty && c.awaitsAnswer r with
    | some r => late r.since
    | none => c.awaits.any fun a => late a.2.2.2

/-- The Mantle's first step that is due. -/
def State.dueMantle (s : State) : Option State :=
  let list : List (State → Option State) :=
    [fun s => (s.mantle.posts.find? fun p => p.done.isSome).map s.postAnswered,
     fun s => s.mantle.arriving.findSome? fun o => takeIf (s.collNext o.block o.wave).isSome s (execCollAccept o.block o.wave),
     fun s => s.mantle.comms.findSome? fun c => takeIf (c.ages s.svNow) s (execPriorityAgeing c.id),
     fun s => s.mantle.comms.findSome? fun c => tryIf (s.chunkLate c) s (execChunkLost c.id),
     fun s => s.mantle.comms.findSome? fun c => takeIf (s.commDone c) s (execCommFree c.id),
     fun s => if s.mantle.comms.any fun c => s.commReady c != c.readySince.isSome then some s.noteMantle else none,
     fun s => takeIf s.nextComm.isSome s execChunkStep]
  list.findSome? fun f => f s

/-- Words of a command's key. -/
def keyWords (l : List Nat) : List Word := l.map (BitVec.ofNat 32)

/-- The command that the controller has under way goes on (R463): CODE, tag and arguments. -/
def retryCommand (key : List Nat) (s : State) : Out := match key with
  | 0x01 :: tag :: off :: n :: [] => execMread tag off n s
  | 0x02 :: tag :: off :: ws => execMwrite tag off (keyWords ws) s
  | 0x10 :: tag :: cx :: ws => execCtxwrite tag cx (keyWords ws) s
  | 0x11 :: tag :: cx :: [] => execPreempt tag cx s
  | 0x12 :: tag :: cx :: q :: n :: [] => execPreemptCut tag cx q (BitVec.ofNat 32 n) s
  | 0x13 :: tag :: cx :: [] => execUnpreempt tag cx s
  | 0x14 :: tag :: cx :: [] => execResetctx tag cx s
  | 0x15 :: tag :: cx :: b :: n :: [] => execInvalidate tag cx (BitVec.ofNat 64 b) (BitVec.ofNat 64 n) s
  | 0x20 :: tag :: cx :: a :: [] => execCommcreate tag cx (BitVec.ofNat 64 a) s
  | 0x21 :: tag :: id :: [] => execCommretire tag id s
  | 0x22 :: tag :: cx :: a :: n :: [] => execRecarea tag cx (BitVec.ofNat 64 a) n s
  | 0x23 :: tag :: i :: ws => execUetpeer tag i (keyWords ws) s
  | 0x30 :: tag :: cx :: k :: v :: [] => execKeyset tag cx k (BitVec.ofNat 128 v) s
  | 0x31 :: tag :: cx :: k :: [] => execKeyempty tag cx k s
  | 0x32 :: tag :: d :: cx :: r :: w :: e :: b :: n :: [] => execMint tag d cx r w e b n s
  | 0x33 :: tag :: i :: e :: [] => execWindow tag i (BitVec.ofNat 64 e) s
  | 0x40 :: tag :: k :: p :: [] => execFenceCommand tag k p s
  | 0x41 :: tag :: k :: p :: [] => execUnfence tag k p s
  | 0x42 :: tag :: d :: e :: [] => execRoute tag d (BitVec.ofNat 128 e) s
  | 0x50 :: tag :: a :: n :: [] => execFwupdate tag (BitVec.ofNat 64 a) n s
  | 0x51 :: tag :: bs => execAttest tag (bs.map (BitVec.ofNat 8)) s
  | 0x52 :: tag :: d :: m :: [] => execClock tag d m s
  | 0x54 :: tag :: i :: [] => execRepairclr tag i s
  | code :: tag :: [] => execUnlistedCommandCode code tag s
  | _ => .next (s.retryOver s.mgmt.waiting)

/-- The controller's command that is due. -/
def State.dueCommand (s : State) : Option State := match s.mgmt.waiting with
  | [] => none
  | key :: _ => changed s (retryCommand key { s with mgmt := { s.mgmt with retrying := true } })

/-- A queue engine starts its next block (R308), before the dispatcher goes on to another. -/
def State.dueStart (s : State) : Option State :=
  (s.cores.map fun k => k.id).findSome? fun c => takeIf (s.nextPending c).isSome s (execBlockStart c)

/-- Cores that hold anything. -/
def State.busyCores (s : State) : List Nat := (s.blocks.map (fun b => b.core) ++ s.cores.map fun k => k.id).eraseDups

/-- The first of the device's own steps that is due. -/
def State.due (s : State) : Option State :=
  let list : List (State → Option State) :=
    [State.dueCommand, fun s => s.blocks.findSome? fun b => s.dueBlock b, fun s => s.ctxs.findSome? fun x => s.dueCtx x,
     fun s => s.launches.findSome? fun l => s.dueLaunch l, State.dueFabric, State.dueMantle, State.dueStart,
     State.dueDispatch, fun s => s.stealDue.bind fun c => changed s (execStealRequest c s),
     fun s => s.busyCores.findSome? fun c => s.dueCore c]
  list.findSome? fun f => f s

end Sys2Proof.Machine
end

