-- ==== Sys2Proof/Machine/Fetch.lean ====
section
/-! DEFINITION. What the step runs next: an outside event, a step that is due, the word of the clause at the
head of the issue list, or a stream word (R7, R8, R54, R255, R453; log 1, log 2); and a machine made ready to
run one given word (log 4). -/

namespace Sys2Proof.Machine

open Sys2Proof

/-- What the next step is. -/
inductive Next where
  /-- The device is frozen, and nothing but a reset is at hand (R453). -/
  | frozen
  /-- The oldest outside event. -/
  | event (i : Instr) (rest : List Instr)
  /-- One of the device's own steps. -/
  | due (t : State)
  /-- A word of the clause at the head of the list. -/
  | word (c : Cur)
  /-- A clause whose wave or part is gone leaves its slot. -/
  | lost
  /-- A word of a matrix stream. -/
  | stream (b : Block) (t : Stream)
  /-- Nothing: a cycle passes. -/
  | idle
  deriving DecidableEq, Repr

/-- A RESET, which alone acts on a frozen device (R453). -/
def isReset : Instr → Bool
  | .reset => true
  | _ => false

/-- Clause words and stream words take turns where both can issue (log 1). -/
def State.nextWord (s : State) : Next :=
  let word : Next := match s.cur? with
    | some c => .word c
    | none => .lost
  match s.issues, s.streamCur? with
  | [], some (b, t) => .stream b t
  | [], none => .idle
  | _ :: _, none => word
  | _ :: _, some (b, t) => if s.now % 2 = 0 then word else .stream b t

/-- The next step (log 1, log 2). -/
def State.next (s : State) : Next :=
  match s.agenda with
  | i :: t => if s.rel.frozen && !isReset i then .frozen else .event i t
  | [] =>
    if s.rel.frozen then .frozen
    else match s.due with
      | some t => .due t
      | none => s.nextWord

/-- The bytes of the word that issues next, with its literal (R30, R36, R98). -/
def State.wordBytes (s : State) (c : Cur) : Except Fetch (List Byte) :=
  let at_ (k : Nat) : Fetch := s.fetch32 c.iss.core c.blk.ctx (c.iss.pc + BitVec.ofNat 64 (4 * k))
  match at_ c.iss.k with
  | .ok w =>
    if hasLiteral w then
      match at_ (c.iss.k + 1) with
      | .ok l => .ok (bytes32 w ++ bytes32 l)
      | f => .error f
    else .ok (bytes32 w)
  | f => .error f

/-- The bytes of a stream's next word (R54). -/
def State.streamBytesAt (s : State) (b : Block) (t : Stream) : Except Fetch (List Byte) :=
  match s.fetch32 b.core b.ctx t.pc, s.fetch32 b.core b.ctx (t.pc + 4) with
  | .ok lo, .ok hi => .ok (bytes32 lo ++ bytes32 hi)
  | .ok _, f => .error f
  | f, _ => .error f

/-- A word that cannot be fetched: a fault halts the block, an abort kills the live lanes of the part (R185, R437). -/
def fetchStop (s : State) (c : Cur) : Fetch → State
  | .fault t => takeTrap s c t
  | _ =>
    let s1 : State := { s with issues := s.issues.tail }
    ((s1.withhold (some c.blk.ctx)).killLanes c.blk.uid c.iss.wave c.pt.mask).settle c.blk.uid

/-- A stream word that cannot be fetched halts the block (R254, R326, R437). -/
def streamStop (s : State) (b : Block) (t : Stream) : Fetch → State
  | .fault i => streamTrap s b t i
  | _ => streamTrap (s.withhold (some b.ctx)) b t { cause := 10, opcode := 0, addr := t.pc }

/-- The word a decoder rejects. -/
def firstWord : List Byte → Word
  | b0 :: b1 :: b2 :: b3 :: _ => b3 ++ b2 ++ b1 ++ b0
  | _ => 0

/-! ### A machine ready to run one word (log 4) -/

/-- Virtual and physical address of the code. -/
def readyCode : Nat := 0x1000

/-- The launch packet of the block (R297): one block of one wave with every resource declared, and its stream
if there is one. -/
def readyPacket (stream : Bool) : List Word :=
  [0x4B580001, 0x04040000, BitVec.ofNat 32 readyCode, 0, if stream then BitVec.ofNat 32 readyCode else 0, 0, 1, 1,
   0xF0802000, 0x80804000, 0, 0, 0, 0, 0, 0, 0, 0, 0, 0, 0, 0, 0, 0xFF, 0x2000, 0] ++ List.replicate 38 0

/-- Its launch, started. -/
def readyLaunch (uid : Nat) (stream : Bool) : Launch :=
  { uid := uid, queue := 0, ctx := 1, seq := 1, order := 0, packet := readyPacket stream, stamps := [0, 0], status := none,
    started := true, reserved := [], sets := [], phases := [], returned := [], nextIdx := 1, live := 1, ended := 0, ran := 0,
    killed := 0, faults := 0, maxStep := 0, lastRead := none, waitSeen := 0, waitScope := 2, waitDone := true, checking := false, cut := none,
    cutDone := false }

/-- Its wave, with one live lane; it sleeps where a stream word is to run. -/
def readyWave (l : Launch) (now : Nat) (stream : Bool) : Wave :=
  let w := startWave l 0 0 0
  { w with
    splits := [some { pc := BitVec.ofNat 64 readyCode, word := 0, mask := 1, rho := 0, stack := [], wait := .none }, none, none, none]
    run := if stream then .sleeping (now + 1000) else .running }

/-- Its block. -/
def readyBlock (uid : Nat) (l : Launch) (now : Nat) (stream : Bool) : Block :=
  { uid := uid, core := 0, launch := l.uid, ctx := 1, index := 0, decl := pktDecl l.packet, started := now,
    waves := [readyWave l now stream], bmem := [], win := [], satCount := [], tiles := [], spare := none,
    bars := [], mbars := [],
    chans := [], tokens := [], stream := startStream l 0 now, halt := none, sideEffect := false, gsync := [], stuckSince := none }

/-- The clause that holds both slots: a MIX clause of fifteen words, at its first. -/
def readyIssue (uid : Nat) : Issue :=
  { core := 0, sub := 0, slot1 := false, mix := true, block := uid, wave := 0, part := 0, pc := BitVec.ofNat 64 readyCode,
    header := 0x7F, k := 1, xc := none, xp := none, ext := none, lat0 := [], lat1 := [] }

/-- Context 1 with its page tables at 64 KiB: one 512 MiB page, address for address, with every permission. -/
def readyCtx : Ctx := { Ctx.fresh 1 with root := 0x10000 }

/-- The page tables and the code in memory. -/
def readyMem (m : Memory) (code : List Byte) : Memory :=
  setRun 0 (setRun 0 (setRun 0 m readyCode code) 0x10000 [0x01, 0x02, 0, 0, 0, 0, 0, 0]) 0x20000 [0x7B, 0, 0, 0, 0, 0, 0, 0]

/-- A machine whose next step runs the given bytes: the header of a clause stands before a clause word. -/
def State.ready (s : State) (stream : Bool) (bytes : List Byte) : State :=
  let l := readyLaunch s.nextUid stream
  let u := s.nextUid + 1
  let code := if stream then bytes else bytes32 0x7F ++ bytes
  { s with
    agenda := []
    issues := if stream then [] else [readyIssue u]
    mem := readyMem s.mem code
    icache := [{ core := 0, ctx := 1, line := readyCode / 128, data := [] }]
    tlb := []
    ctxs := [readyCtx]
    launches := [l]
    nextUid := s.nextUid + 2
    cores := [{ Core.fresh 0 with owner := if stream then some u else none }]
    blocks := [readyBlock u l s.now stream]
    sv := { s.sv with ports := [], totals := [], tags := [], quarantine := [], egress := [], paths := [],
                      tick := BitVec.ofNat 11 (s.svNow / 2 ^ 22) }
    mantle := { s.mantle with comms := [], arriving := [], reads := [], posts := [], records := [] }
    rel := { s.rel with badBytes := [], fencedGroups := [], frozen := false }
    mgmt := { s.mgmt with waiting := [] } }

end Sys2Proof.Machine
end

