-- ==== Sys2Proof/Machine/Step.lean ====
section
/-! DEFINITION. One step of the machine, and a machine made ready to run one word. -/

namespace Sys2Proof.Machine

open Sys2Proof

/-- One step (log 1, log 2): an outside event, a step of the device's own that is due, one word, or a cycle in
which nothing issues. -/
def step (s : State) : Host.Outcome State Fault Refusal :=
  match s.next with
  | .frozen => .next { s with agenda := s.agenda.tail }
  | .event i t => exec i { s with agenda := t }
  | .due t => .next t
  | .lost => .next { s with issues := s.issues.tail }.tick
  | .idle => .next s.tick
  | .word c =>
    match s.wordBytes c with
    | .error f => .next (fetchStop s c f)
    | .ok bs =>
      match decodeBytes bs with
      | .ok (i, _) => exec i s
      | .error _ => execUndefinedOpcode (firstWord bs) s
  | .stream b t =>
    match s.streamBytesAt b t with
    | .error f => .next (streamStop s b t f)
    | .ok bs =>
      match decodeStreamBytes bs with
      | .ok (i, _) => exec i s
      | .error _ => execStreamFault b.uid s

/-- The machine with the instruction of the opcode table's bits `w` where `step` fetches its next word (log
4): a row of 64 bits is a matrix-stream word, every other row a clause word with zeros after it. -/
def State.withFetchWord (s : State) (nbits w : Nat) : State :=
  let v := w % 2 ^ nbits
  s.ready (nbits == 64) (bytes32 (BitVec.ofNat 32 v) ++ bytes32 (BitVec.ofNat 32 (v / 2 ^ 32)))

end Sys2Proof.Machine
end

