-- ==== Sys2Proof/WellFormed.lean ====
section
/-! DEFINITION. Which instructions are well formed. Every field of an encoded word has the width its format
gives it (R36, R54), so every word the decoder accepts is well formed; what its registers and functions
must be beyond that is checked where the word issues (R35, R92). The operands of the device's own steps
name units that exist and fit the packets that carry them. -/

namespace Sys2Proof

/-- How an instruction comes to the machine. -/
inductive Kind where
  /-- A word of a clause (R30, R36). -/
  | clause
  /-- A word of a matrix stream (R54). -/
  | stream
  /-- A step of the device's own (95_what_each_step_holds.md). -/
  | event
  deriving DecidableEq, Repr

/-- The kind of an instruction. -/
def Instr.kind : Instr → Kind
  | .iadd _ _ _ _ | .isub _ _ _ _ | .imul _ _ _ _ | .imulhs _ _ _ _ | .imulhu _ _ _ _ | .imad _ _ _ _
  | .imin _ _ _ _ | .imax _ _ _ _ | .umin _ _ _ _ | .umax _ _ _ _ | .and _ _ _ _ | .or _ _ _ _ | .xor _ _ _ _
  | .andn _ _ _ _ | .shl _ _ _ _ | .shr _ _ _ _ | .sar _ _ _ _ | .rotl _ _ _ _ | .iun _ _ _ _ | .bfx _ _ _ _
  | .bfi _ _ _ _ | .iaddi _ _ _ _ | .shli _ _ _ _ | .shri _ _ _ _ | .sari _ _ _ _ | .andi _ _ _ _
  | .ori _ _ _ _ | .xori _ _ _ _ | .movi _ _ _ | .movhi _ _ | .mov _ _ _ | .icmp _ _ _ _ _ | .fadd _ _ _ _
  | .fsub _ _ _ _ | .fmul _ _ _ _ | .ffma _ _ _ _ | .fmin _ _ _ _ | .fmax _ _ _ _ | .fun _ _ _ _
  | .fcmp _ _ _ _ _ | .sel _ _ _ _ | .badd2 _ _ _ _ | .bmul2 _ _ _ _ | .bfma2 _ _ _ _ | .hadd2 _ _ _ _
  | .hmul2 _ _ _ _ | .hfma2 _ _ _ _ | .dot4i _ _ _ _ | .dot2b _ _ _ _ | .dot4f8 _ _ _ _ | .ldexp _ _ _ _
  | .cvt _ _ _ _ | .f8pack _ _ _ _ | .f8unpk _ _ _ | .sfu _ _ _ _ | .qamax _ _ | .qscale _ _ _ | .rng _ _ _
  | .shfl _ _ _ _ | .perm _ _ _ _ | .vote _ _ _ _ | .ballot _ _ | .wred _ _ _ | .wscan _ _ _ _ | .v2s _ _ _
  | .s2v _ _ _ | .sadd _ _ _ | .ssub _ _ _ | .smul _ _ _ | .sand _ _ _ | .sor _ _ _ | .sxor _ _ _
  | .sshl _ _ _ | .sshr _ _ _ | .ssar _ _ _ | .smin _ _ _ | .smax _ _ _ | .saddi _ _ _ | .smovi _ _
  | .scmp _ _ _ _ _ | .sadd64 _ _ _ | .ssel _ _ _ | .tld _ _ _ | .tst _ _ _ | .tmma _ _ _ _ | .tmmac _ _ _ _
  | .tzero _ | .tmov _ _ _ | .movl _ _ _ | .smovl _ _ | .ldb _ _ _ _ _ | .ldh _ _ _ _ _ | .ldw _ _ _ _ _
  | .ldd _ _ _ _ _ | .ldq _ _ _ _ _ | .stb _ _ _ _ _ | .sth _ _ _ _ _ | .stw _ _ _ _ _ | .std _ _ _ _ _
  | .stq _ _ _ _ _ | .sldw _ _ _ | .sldd _ _ _ | .atom _ _ _ _ | .atomn _ _ _ _ | .fence _ _ _ | .drain _
  | .copy _ _ | .copyg _ _ _ | .copys _ _ _ | .kstat _ _ | .rayq _ _ _ _ | .ald _ _ _ | .ast _ _ _
  | .csend _ _ | .coll _ _ | .wrecPost _ _ _ | .wrecTake _ _ | .wrecReturn | .bra _ _ _ | .brc _ _ _
  | .call _ _ _ | .rcv _ | .nop | .ret | .exit | .yield | .trap _ | .bkpt _ | .bar _ _ | .gsync _ | .mbar _ _
  | .waitv _ _ _ _ | .step _ | .launch _ _ | .grow _ _ | .chsend _ _ | .chrecv _ _ _ | .chclose _
  | .pref _ _ _ | .cinv _ _ _ | .rdcpurge _ _ _ | .csrr _ _ | .csrw _ _ | .sleep _ | .brx _ _
  | .xp _ _ _ _ _ _ | .xc _ _ _ _ _ _ _ => .clause
  | .mend | .mmac _ _ _ _ _ _ | .mmacb _ _ _ _ _ _ | .mmaci _ _ _ _ _ _ | .mcmac _ _ _ _ _ _
  | .mmace5 _ _ _ _ _ _ | .msa _ _ _ _ _ | .msai _ _ _ | .mclr _ _ _ | .mout _ _ _ _ _ _ | .streamMbar _ _
  | .mset _ _ _ | .madv _ _ _ | .mloop _ _ | .atopk _ _ _ _ _ _ | .asmax _ _ _ _ | .asample _ _ _ _ _ _ _ _ _
  | .mstep _ | .mnop => .stream
  | .clauseSelect _ _ _ | .deferredMove _ _ | .instructionFetchComplete _ _ _ | .wavePromote _ _
  | .resultWriteback _ _ | .storeLeaveCore _ _ | .loadComplete _ _ | .atomReturn _ _ | .abortCompletion _
  | .strikeRollback _ | .strikeUncore _ | .residueReissue _ _ _ _ | .columnRemap _ _ _ | .deadlockDetect _
  | .sleepExpire _ _ | .setPhaseComplete _ _ | .waitvReread _ _ | .fenceComplete _ _ | .drainComplete _ _
  | .copySector _ | .streamOwnerChange _ | .streamFault _ | .rayqComplete _ _ | .launchPacket _ _
  | .resume _ _ | .qownWrite _ _ | .registerWrite _ _ | .launchStart _ | .memoryWaitReread _ | .dispatchBlock
  | .blockStart _ | .stealRequest _ | .blockEnd _ | .launchComplete _ | .pocketFrameGrant _
  | .requestEntryWrite _ | .blockHalt _ | .haltSave _ | .trapRecordWrite _ | .deadlineExpire _ _
  | .cutReport _ | .cutComplete _ | .hostWrite _ _ | .linkTraining _ _ _ | .nullFlit _ _ | .readFlit _ _
  | .writeFlit _ _ | .atomFlit _ _ | .recFlit _ _ | .collFlit _ _ | .rdataFlit _ _ | .wackFlit _ _
  | .arspFlit _ _ | .abortFlit _ _ | .totalsFlit _ _ | .lendFlit _ _ | .linkNak _ _ | .flitForward _ _
  | .lendingRound _ | .lendResend _ | .totalsSend _ _ | .requestTimeout _ _ | .tagQuarantineEnd _ _
  | .staleDrop _ | .targetTick | .collAccept _ _ | .chunkStep | .priorityAgeing _ | .chunkLost _
  | .uetMessage _ _ | .commFree _ | .hbmReadTransfer _ _ | .hbmWriteTransfer _ _ | .throttleStep _ _
  | .firmwareActivate _ | .reset | .mchkEntryFree _ _ | .logEntryFree _ _ _ | .mread _ _ _ | .mwrite _ _ _
  | .ctxwrite _ _ _ | .preempt _ _ | .preemptCut _ _ _ _ | .unpreempt _ _ | .resetctx _ _
  | .invalidate _ _ _ _ | .commcreate _ _ _ | .commretire _ _ | .recarea _ _ _ _ | .uetpeer _ _ _
  | .keyset _ _ _ _ | .keyempty _ _ _ | .mint _ _ _ _ _ _ _ _ | .window _ _ _ | .fenceCommand _ _ _
  | .unfence _ _ _ | .route _ _ _ | .fwupdate _ _ _ | .attest _ _ | .clock _ _ _ | .freeze _ | .repairclr _ _
  | .undefinedOpcode _ | .crcFailure _ _ | .linkDown _ _ | .unlistedCommandCode _ _ | .uetRetransmission _
  | .uetAcknowledgement _ => .event

/-- A core (R441). -/
def coreOk (n : Nat) : Bool := decide (n < 768)
/-- A sub-core of a core (R7). -/
def subOk (n : Nat) : Bool := decide (n < 6)
/-- A wave of a block (R151). -/
def waveOk (n : Nat) : Bool := decide (n < 32)
/-- A context (R322). -/
def ctxOk (n : Nat) : Bool := decide (n < 64)
/-- A launch queue (R296). -/
def queueOk (n : Nat) : Bool := decide (n < 16)
/-- An aperture slot (R295). -/
def apertureOk (n : Nat) : Bool := decide (n < 256)
/-- A set of a launch (R195). -/
def setOk (n : Nat) : Bool := decide (n < 256)
/-- A Svacon port (R359). -/
def portOk (n : Nat) : Bool := decide (n < 32)
/-- A device of the Svacon domain (R357). -/
def deviceOk (n : Nat) : Bool := decide (n < 993)
/-- A message class (R371). -/
def classOk (n : Nat) : Bool := decide (n < 128)
/-- A tag index (R382). -/
def tagOk (n : Nat) : Bool := decide (n < 1024)
/-- A communicator (R386). -/
def commOk (n : Nat) : Bool := decide (n < 64)
/-- A peer endpoint (R409). -/
def endpointOk (n : Nat) : Bool := decide (n < 4096)
/-- A die's counters (R442). -/
def dieOk (n : Nat) : Bool := decide (n < 9)
/-- An HBM4E stack (R442). -/
def stackOk (n : Nat) : Bool := decide (n < 16)
/-- A 64-byte transfer inside the device's memory (R206, R446). -/
def transferOk (pa : Nat) : Bool := decide (pa % 64 = 0) && decide (pa < 2 ^ 40)
/-- The TAG of a management request (R463). -/
def mtagOk (n : Nat) : Bool := decide (n < 2 ^ 16)
/-- A one-word argument of a management request (R463). -/
def argOk (n : Nat) : Bool := decide (n < 2 ^ 32)
/-- A packet of 64 words (R295). -/
def packetOk (ws : List (BitVec 32)) : Bool := decide (ws.length = 64)
/-- A flit's payload fits a data flit (R365). -/
def flitOk (f : Flit) : Bool := decide (f.payload.length ≤ 112)

/-- The parts an uncorrectable SRAM word names exist (R449). -/
def sramOk : SramWord → Bool
  | .l1 core ctx _ word => coreOk core && ctxOk ctx && decide (word < 16)
  | .icache core ctx _ => coreOk core && ctxOk ctx
  | .ray core ctx _ => coreOk core && ctxOk ctx
  | .tlb core die ctx _ _ => (match core with
    | some c => coreOk c
    | none => true) && decide (die < 8) && ctxOk ctx
  | .l2 line word => decide (128 * line < 2 ^ 40) && decide (word < 16)
  | .rdc die _ dev _ => decide (die < 8) && decide (dev < 1024)
  | .lanes kind _ wv _ => [3, 4, 6, 7].contains kind && waveOk wv
  | .scalar _ wv => waveOk wv
  | .stream kind _ => [3, 6, 7].contains kind
  | .mantle id => commOk id

/-- The parts a withheld datum names exist (R437). -/
def siteOk : AbortSite → Bool
  | .lanes _ wv _ _ => waveOk wv
  | .part _ wv part _ => waveOk wv && decide (part < 5)
  | .copy core => coreOk core
  | .stream _ => true
  | .save _ => true
  | .launch _ => true
  | .mantle id => commOk id
  | .corrected die => decide (die ≤ 8)
  | .sram w _ => sramOk w

/-- An instruction whose operands name things that exist. -/
def Instr.wf : Instr → Bool
  | .iadd _ _ _ _ | .isub _ _ _ _ | .imul _ _ _ _ | .imulhs _ _ _ _ | .imulhu _ _ _ _ | .imad _ _ _ _
  | .imin _ _ _ _ | .imax _ _ _ _ | .umin _ _ _ _ | .umax _ _ _ _ | .and _ _ _ _ | .or _ _ _ _ | .xor _ _ _ _
  | .andn _ _ _ _ | .shl _ _ _ _ | .shr _ _ _ _ | .sar _ _ _ _ | .rotl _ _ _ _ | .iun _ _ _ _ | .bfx _ _ _ _
  | .bfi _ _ _ _ | .iaddi _ _ _ _ | .shli _ _ _ _ | .shri _ _ _ _ | .sari _ _ _ _ | .andi _ _ _ _
  | .ori _ _ _ _ | .xori _ _ _ _ | .movi _ _ _ | .movhi _ _ | .mov _ _ _ | .icmp _ _ _ _ _ | .fadd _ _ _ _
  | .fsub _ _ _ _ | .fmul _ _ _ _ | .ffma _ _ _ _ | .fmin _ _ _ _ | .fmax _ _ _ _ | .fun _ _ _ _
  | .fcmp _ _ _ _ _ | .sel _ _ _ _ | .badd2 _ _ _ _ | .bmul2 _ _ _ _ | .bfma2 _ _ _ _ | .hadd2 _ _ _ _
  | .hmul2 _ _ _ _ | .hfma2 _ _ _ _ | .dot4i _ _ _ _ | .dot2b _ _ _ _ | .dot4f8 _ _ _ _ | .ldexp _ _ _ _
  | .cvt _ _ _ _ | .f8pack _ _ _ _ | .f8unpk _ _ _ | .sfu _ _ _ _ | .qamax _ _ | .qscale _ _ _ | .rng _ _ _
  | .shfl _ _ _ _ | .perm _ _ _ _ | .vote _ _ _ _ | .ballot _ _ | .wred _ _ _ | .wscan _ _ _ _ | .v2s _ _ _
  | .s2v _ _ _ | .sadd _ _ _ | .ssub _ _ _ | .smul _ _ _ | .sand _ _ _ | .sor _ _ _ | .sxor _ _ _
  | .sshl _ _ _ | .sshr _ _ _ | .ssar _ _ _ | .smin _ _ _ | .smax _ _ _ | .saddi _ _ _ | .smovi _ _
  | .scmp _ _ _ _ _ | .sadd64 _ _ _ | .ssel _ _ _ | .tld _ _ _ | .tst _ _ _ | .tmma _ _ _ _ | .tmmac _ _ _ _
  | .tzero _ | .tmov _ _ _ | .movl _ _ _ | .smovl _ _ | .ldb _ _ _ _ _ | .ldh _ _ _ _ _ | .ldw _ _ _ _ _
  | .ldd _ _ _ _ _ | .ldq _ _ _ _ _ | .stb _ _ _ _ _ | .sth _ _ _ _ _ | .stw _ _ _ _ _ | .std _ _ _ _ _
  | .stq _ _ _ _ _ | .sldw _ _ _ | .sldd _ _ _ | .atom _ _ _ _ | .atomn _ _ _ _ | .fence _ _ _ | .drain _
  | .copy _ _ | .copyg _ _ _ | .copys _ _ _ | .kstat _ _ | .rayq _ _ _ _ | .ald _ _ _ | .ast _ _ _
  | .csend _ _ | .coll _ _ | .wrecPost _ _ _ | .wrecTake _ _ | .wrecReturn | .bra _ _ _ | .brc _ _ _
  | .call _ _ _ | .rcv _ | .nop | .ret | .exit | .yield | .trap _ | .bkpt _ | .bar _ _ | .gsync _ | .mbar _ _
  | .waitv _ _ _ _ | .step _ | .launch _ _ | .grow _ _ | .chsend _ _ | .chrecv _ _ _ | .chclose _
  | .pref _ _ _ | .cinv _ _ _ | .rdcpurge _ _ _ | .csrr _ _ | .csrw _ _ | .sleep _ | .brx _ _
  | .xp _ _ _ _ _ _ | .xc _ _ _ _ _ _ _ | .mend | .mmac _ _ _ _ _ _ | .mmacb _ _ _ _ _ _ | .mmaci _ _ _ _ _ _
  | .mcmac _ _ _ _ _ _ | .mmace5 _ _ _ _ _ _ | .msa _ _ _ _ _ | .msai _ _ _ | .mclr _ _ _ | .mout _ _ _ _ _ _
  | .streamMbar _ _ | .mset _ _ _ | .madv _ _ _ | .mloop _ _ | .atopk _ _ _ _ _ _ | .asmax _ _ _ _
  | .asample _ _ _ _ _ _ _ _ _ | .mstep _ | .mnop | .deadlockDetect _ | .streamFault _ | .dispatchBlock
  | .blockEnd _ | .launchComplete _ | .blockHalt _ | .haltSave _ | .cutReport _ | .cutComplete _
  | .targetTick | .chunkStep | .firmwareActivate _ | .reset | .undefinedOpcode _ | .linkDown _ _ => true
  | .clauseSelect core sub _ => coreOk core && subOk sub
  | .deferredMove _ wv => waveOk wv
  | .instructionFetchComplete core cx _ => coreOk core && ctxOk cx
  | .wavePromote _ wv => waveOk wv
  | .resultWriteback _ wv => waveOk wv
  | .storeLeaveCore _ wv => waveOk wv
  | .loadComplete _ wv => waveOk wv
  | .atomReturn _ wv => waveOk wv
  | .abortCompletion site => siteOk site
  | .strikeRollback core => coreOk core
  | .strikeUncore die => dieOk die
  | .residueReissue core sub phys _ => coreOk core && subOk sub && decide (phys < 33)
  | .columnRemap core col _ => coreOk core && decide (col < 65)
  | .sleepExpire _ wv => waveOk wv
  | .setPhaseComplete _ set => setOk set
  | .waitvReread _ wv => waveOk wv
  | .fenceComplete _ wv => waveOk wv
  | .drainComplete _ wv => waveOk wv
  | .copySector core => coreOk core
  | .streamOwnerChange core => coreOk core
  | .rayqComplete _ wv => waveOk wv
  | .launchPacket ap ws => apertureOk ap && packetOk ws
  | .resume ap ws => apertureOk ap && packetOk ws
  | .qownWrite q _ => queueOk q
  | .registerWrite off _ => decide (off % 4 = 0)
  | .launchStart q => queueOk q
  | .memoryWaitReread q => queueOk q
  | .blockStart core => coreOk core
  | .stealRequest core => coreOk core
  | .pocketFrameGrant cx => ctxOk cx
  | .requestEntryWrite cx => ctxOk cx
  | .trapRecordWrite cx => ctxOk cx
  | .deadlineExpire core cx => coreOk core && ctxOk cx
  | .hostWrite pa data => decide (pa + data.length ≤ 2 ^ 40)
  | .linkTraining port peer peerPort => portOk port && portOk peerPort && deviceOk peer
  | .nullFlit port f => portOk port && flitOk f
  | .readFlit port f => portOk port && flitOk f
  | .writeFlit port f => portOk port && flitOk f
  | .atomFlit port f => portOk port && flitOk f
  | .recFlit port f => portOk port && flitOk f
  | .collFlit port f => portOk port && flitOk f
  | .rdataFlit port f => portOk port && flitOk f
  | .wackFlit port f => portOk port && flitOk f
  | .arspFlit port f => portOk port && flitOk f
  | .abortFlit port f => portOk port && flitOk f
  | .totalsFlit port f => portOk port && flitOk f
  | .lendFlit port f => portOk port && flitOk f
  | .linkNak port f => portOk port && flitOk f
  | .flitForward port f => portOk port && flitOk f
  | .lendingRound port => portOk port
  | .lendResend port => portOk port
  | .totalsSend peer cls => deviceOk peer && classOk cls
  | .requestTimeout target idx => deviceOk target && tagOk idx
  | .tagQuarantineEnd target idx => deviceOk target && tagOk idx
  | .staleDrop port => portOk port
  | .collAccept _ wv => waveOk wv
  | .priorityAgeing id => commOk id
  | .chunkLost id => commOk id
  | .uetMessage src _ => endpointOk src
  | .commFree id => commOk id
  | .hbmReadTransfer pa _ => transferOk pa
  | .hbmWriteTransfer pa _ => transferOk pa
  | .throttleStep die x => dieOk die && decide (x.power < 2 ^ 32) && decide (x.temp < 2 ^ 16) && decide (x.coolin < 2 ^ 32)
  | .mchkEntryFree core j => coreOk core && decide (j < 4)
  | .logEntryFree stack _ j => stackOk stack && decide (j < 64)
  | .mread tag off n => mtagOk tag && argOk off && argOk n
  | .mwrite tag off ws => mtagOk tag && argOk off && decide (ws.length ≤ 1023)
  | .ctxwrite tag cx desc => mtagOk tag && argOk cx && decide (desc.length = 32)
  | .preempt tag cx => mtagOk tag && argOk cx
  | .preemptCut tag cx q _ => mtagOk tag && argOk cx && argOk q
  | .unpreempt tag cx => mtagOk tag && argOk cx
  | .resetctx tag cx => mtagOk tag && argOk cx
  | .invalidate tag cx _ _ => mtagOk tag && argOk cx
  | .commcreate tag cx _ => mtagOk tag && argOk cx
  | .commretire tag id => mtagOk tag && argOk id
  | .recarea tag cx _ slots => mtagOk tag && argOk cx && argOk slots
  | .uetpeer tag idx entry => mtagOk tag && argOk idx && decide (entry.length = 16)
  | .keyset tag cx slot _ => mtagOk tag && argOk cx && argOk slot
  | .keyempty tag cx slot => mtagOk tag && argOk cx && argOk slot
  | .mint tag dev cx rights win ext sub life => mtagOk tag && argOk dev && argOk cx && argOk rights && argOk win && argOk ext && argOk sub && argOk life
  | .window tag idx _ => mtagOk tag && argOk idx
  | .fenceCommand tag kind part => mtagOk tag && argOk kind && argOk part
  | .unfence tag kind part => mtagOk tag && argOk kind && argOk part
  | .route tag dst _ => mtagOk tag && argOk dst
  | .fwupdate tag _ len => mtagOk tag && argOk len
  | .attest tag nonce => mtagOk tag && decide (nonce.length = 32)
  | .clock tag die mhz => mtagOk tag && argOk die && argOk mhz
  | .freeze tag => mtagOk tag
  | .repairclr tag idx => mtagOk tag && argOk idx
  | .crcFailure port f => portOk port && flitOk f
  | .unlistedCommandCode code tag => decide (code < 256) && mtagOk tag
  | .uetRetransmission peer => endpointOk peer
  | .uetAcknowledgement peer => endpointOk peer

end Sys2Proof
end

