-- ==== Sys2Proof/Safety.lean ====
section
/-! DEFINITION. What a safe run is, the canonical form of the memories, and the terms in which claims are
stated: a word that issues with nothing against it, and what a step leaves alone. -/

namespace Sys2Proof.Machine

open Sys2Proof

/-- The canonical form of a memory: addresses strictly rising, no byte that an unlisted address reads as. -/
abbrev Memory.wf (m : Memory) : Prop := cellsWf 0 m = true

/-- Device memory, HBM4E cells and host memory are canonical. -/
def State.memWf (s : State) : Prop := Memory.wf s.mem ∧ Memory.wf s.dram ∧ Memory.wf s.hostMem

/-- Everything the outside world is about to do is one of the device's own steps: a word of code is never
handed to the machine from outside (log 2). -/
def State.agendaOk (s : State) : Prop := ∀ i ∈ s.agenda, i.kind = .event ∧ ∀ w, i ≠ .undefinedOpcode w

/-- `t` comes after some number of steps of `s`. -/
inductive Reaches (s : State) : State → Prop where
  | refl : Reaches s s
  | step {t u : State} : Reaches s t → step t = .next u → Reaches s u

/-- A run is safe when no step of it stops. -/
def Safe (s : State) : Prop := ∀ t, Reaches s t → ∃ u, step t = .next u

/-- The head clause's word issues: its wave runs, its fields, extensions and operands are legal (R35), and no
register it names is pending (R13). -/
structure Issues (s : State) (c : Cur) (form : Cur → Form) : Prop where
  cur : s.cur? = some c
  running : c.wv.run = .running
  legal : (form c).fault c.iss = none
  ready : (form c).waits c.wv = false

/-- `t` differs from `s` in nothing outside the cores but the clock and the issue slots. -/
structure OutsideKept (s t : State) : Prop where
  agenda : t.agenda = s.agenda
  free : t.free = s.free
  mem : t.mem = s.mem
  dram : t.dram = s.dram
  hostMem : t.hostMem = s.hostMem
  l1 : t.l1 = s.l1
  l2 : t.l2 = s.l2
  reports : t.reports = s.reports
  rdc : t.rdc = s.rdc
  icache : t.icache = s.icache
  raycache : t.raycache = s.raycache
  rayClear : t.rayClear = s.rayClear
  tlb : t.tlb = s.tlb
  ctxs : t.ctxs = s.ctxs
  queues : t.queues = s.queues
  slots : t.slots = s.slots
  msix : t.msix = s.msix
  pba : t.pba = s.pba
  raised : t.raised = s.raised
  launches : t.launches = s.launches
  nextOrder : t.nextOrder = s.nextOrder
  nextUid : t.nextUid = s.nextUid
  sv : t.sv = s.sv
  mantle : t.mantle = s.mantle
  rel : t.rel = s.rel
  mgmt : t.mgmt = s.mgmt

/-- Of the blocks, `t` differs from `s` only in wave `i` of block `b`, which it holds as `w`. -/
structure InWave (s t : State) (b : Block) (i : Nat) (w : Wave) : Prop where
  others : ∀ u, u ≠ b.uid → t.block? u = s.block? u
  block : ∃ ws, t.block? b.uid = some { b with waves := ws }
  waves : ∀ j, j ≠ i → t.wave? b.uid j = b.wave? j
  wave : t.wave? b.uid i = some w

/-- `t` differs from `s` only in wave `i` of block `b`: every byte the machine keeps outside that wave reads as
before. -/
structure OnlyWave (s t : State) (b : Block) (i : Nat) (w : Wave) : Prop where
  outside : OutsideKept s t
  inWave : InWave s t b i w

/-- A wave's registers, flags and special registers are unchanged. -/
structure RegsKept (a w : Wave) : Prop where
  v : w.v = a.v
  s : w.s = a.s
  p : w.p = a.p
  t : w.t = a.t
  flags : w.flags = a.flags
  dead : w.dead = a.dead
  starve : w.starve = a.starve
  lastSeq : w.lastSeq = a.lastSeq
  cycleHi : w.cycleHi = a.cycleHi

/-- A wave's state apart from its V, S, P and T registers, flags, parts and pending bits is unchanged. -/
structure WaveKept (a w : Wave) : Prop where
  idx : w.idx = a.idx
  exitedLanes : w.exitedLanes = a.exitedLanes
  dead : w.dead = a.dead
  starve : w.starve = a.starve
  step : w.step = a.step
  lastSeq : w.lastSeq = a.lastSeq
  cycleHi : w.cycleHi = a.cycleHi
  loads : w.loads = a.loads
  sq : w.sq = a.sq
  atoms : w.atoms = a.atoms
  acks : w.acks = a.acks
  rays : w.rays = a.rays
  colls : w.colls = a.colls
  run : w.run = a.run
  args : w.args = a.args
  service : w.service = a.service

end Sys2Proof.Machine
end

