-- ==== Sys2Proof/Certificates/Slice0/Obligations.lean ====
section
/-! DEFINITION. The statements for the provers, with the terms they share: each says what an instruction or the
machine does by the rules of spec/ it cites. -/

namespace Sys2Proof.Claims

open Sys2Proof Sys2Proof.Machine

/-! ### Words that write registers only -/

/-- Lane l of latch Lm of a slot's latches (R15). -/
def latch (lat : List (List Word)) (m l : Nat) : Word := (lat.getD m []).getD l 0

/-- How an issued word leaves its clause and its wave (R8, R13, R15, R46). The registers `writes` are pending until `lat`
cycles have passed. After the clause's last word the part stands at the next clause and the slot is free. Else the clause
goes behind the other slots' with its next word and no extension; in the latches of the word's slot L0 takes `l0` in the
executing lanes and zero in the others, L1 to L3 take the old L0 to L2, and every other latch stays. -/
structure Moved (s t : State) (c : Cur) (w : Wave) (writes : Regs) (lat words : Nat) (l0 : Option (Bool × (Nat → Word))) : Prop where
  pend : w.pend = c.wv.pend ++ if writes = noRegs then [] else [{ regs := writes, due := s.now + lat }]
  last : headerN c.iss.header < c.iss.k + words →
    t.issues = s.issues.tail ∧ w.part? c.iss.part = some { c.pt with pc := c.nextPc, word := 0 }
  next : c.iss.k + words ≤ headerN c.iss.header → w.part? c.iss.part = some c.pt ∧ ∃ j : Issue, t.issues = s.issues.tail ++ [j] ∧
    j = { c.iss with k := c.iss.k + words, xc := none, xp := none, ext := none, lat0 := j.lat0, lat1 := j.lat1 } ∧
    ∀ slot m l, m < 4 → l < 32 → let old := if slot then c.iss.lat1 else c.iss.lat0
      latch (if slot then j.lat1 else j.lat0) m l = match l0 with
        | none => latch old m l
        | some x => if x.1 = slot then (if m = 0 then (if c.execMask.getLsbD l then x.2 l else 0) else latch old (m - 1) l)
          else latch old m l

/-- A word completes in every state in which it issues: in each executing lane V[d] takes the value of `r`
(nothing is written with nwb), and with or without nwb L0 of the slot does (R88); the lanes' flags are OR-ed into
FP.FLAGS, V[d] is pending, the clause goes on by `words` words, and every other register, byte and special register
stays. -/
def VecWordIn (slot1 : Bool) (words : Nat) (i : Instr) (form : Cur → Form) (n : Bool) (d : Nat)
    (r : Cur → Nat → Word × FlagSet) : Prop :=
  ∀ s c, Issues s c form → ∃ t w, exec i s = .next t ∧ OnlyWave s t c.blk c.iss.wave w ∧ WaveKept c.wv w ∧
    Moved s t c w { noRegs with v := if n then [] else [d] } (form c).lat words (some (slot1, fun l => (r c l).1)) ∧
    (∀ k l, l < 32 → vLane w.v k l =
      if k = d ∧ n = false ∧ c.execMask.getLsbD l = true then (r c l).1 else vLane c.wv.v k l) ∧
    w.s = c.wv.s ∧ w.p = c.wv.p ∧ w.t = c.wv.t ∧
    w.flags = c.wv.flags ||| orFlags c.execMask (fun l => (r c l).2) 32

/-- A vector word of one clause word, with the latches of slot 0. -/
def VecWord (i : Instr) (form : Cur → Form) (n : Bool) (d : Nat) (r : Cur → Nat → Word × FlagSet) : Prop :=
  VecWordIn false 1 i form n d r

/-- Operand A of a vector word in lane l (R38, R41). -/
def opA (c : Cur) (a : BitVec 8) (l : Nat) : Word := c.opnd false 0 a.toNat l
/-- Operand B. -/
def opB (c : Cur) (b : BitVec 8) (l : Nat) : Word := c.opnd false 1 b.toNat l
/-- Operand C: the XC's C field, or the destination (R87). -/
def opC (c : Cur) (d : BitVec 8) (l : Nat) : Word := c.opnd false 2 (c.cCode d.toNat) l

/-- A two-source integer word without flags. -/
def IntWord (i : Instr) (op : Nat) (n : Bool) (d a b : BitVec 8) (g : Word → Word → Word) : Prop :=
  VecWord i (formV3 op xcInt false 4 n d a b) n d.toNat fun c l => (g (opA c a l) (opB c b l), 0)

/-- A word that writes a predicate: in each executing lane P[p] takes the bit of `r`, AND-ed with the old bit where
the word says so; P15 never changes (R99). L0 takes the bit written (R88), and P[p] is pending. -/
def PredWord (i : Instr) (form : Cur → Form) (p : Nat) (old : Bool) (r : Cur → Nat → Bool × FlagSet) : Prop :=
  ∀ s c, Issues s c form → ∃ t w, exec i s = .next t ∧ OnlyWave s t c.blk c.iss.wave w ∧ WaveKept c.wv w ∧
    Moved s t c w { noRegs with p := [p] } (form c).lat 1
      (some (false, fun l => if (r c l).1 && (!old || (c.wv.getP p).getLsbD l) then 1 else 0)) ∧
    (∀ q l, l < 32 → (w.getP q).getLsbD l =
      if q = p ∧ p ≠ 15 ∧ c.execMask.getLsbD l = true then (r c l).1 && (!old || (c.wv.getP p).getLsbD l)
      else (c.wv.getP q).getLsbD l) ∧
    w.v = c.wv.v ∧ w.s = c.wv.s ∧ w.t = c.wv.t ∧
    w.flags = c.wv.flags ||| orFlags c.execMask (fun l => (r c l).2) 32

/-- A word that writes `k` vector registers from V[d] in the lanes of `m`; they are pending, and L0 takes V[d] where the
word shifts the latches (`lat0`; R108, R142). -/
def MultiWord (lat0 : Bool) (i : Instr) (form : Cur → Form) (d k : Nat) (m : Cur → Mask) (r : Cur → Nat → Nat → Word × FlagSet) : Prop :=
  ∀ s c, Issues s c form → ∃ t w, exec i s = .next t ∧ OnlyWave s t c.blk c.iss.wave w ∧ WaveKept c.wv w ∧
    Moved s t c w { noRegs with v := List.range' d k } (form c).lat 1
      (if lat0 then some (false, fun l => (r c 0 l).1) else none) ∧
    (∀ q l, l < 32 → vLane w.v q l =
      if d ≤ q ∧ q < d + k ∧ (m c).getLsbD l = true then (r c (q - d) l).1 else vLane c.wv.v q l) ∧
    w.s = c.wv.s ∧ w.p = c.wv.p ∧ w.t = c.wv.t ∧
    (∀ b, w.flags.getLsbD b = (c.wv.flags.getLsbD b ||
      (List.range k).any fun j => (orFlags (m c) (fun l => (r c j l).2) 32).getLsbD b))

/-- A word that writes the scalar register S[d c] with `r`, with its flags; L0 takes the result in the executing lanes
(R108), and S[d c] is pending. -/
def ScalarResult (i : Instr) (form : Cur → Form) (d : Cur → Nat) (r : Cur → Word × FlagSet) : Prop :=
  ∀ s c, Issues s c form → ∃ t w, exec i s = .next t ∧ OnlyWave s t c.blk c.iss.wave w ∧ WaveKept c.wv w ∧
    Moved s t c w { noRegs with s := [d c] } (form c).lat 1 (some (false, fun _ => (r c).1)) ∧
    (∀ k, w.getS k = if k = d c then (r c).1 else c.wv.getS k) ∧
    w.v = c.wv.v ∧ w.p = c.wv.p ∧ w.t = c.wv.t ∧ w.flags = c.wv.flags ||| (r c).2

/-- A scalar word (R130, R131) of `words` clause words: S[d] takes `r` where its predicate lets it take effect, and is
then pending; no flag changes and no latch shifts. -/
def ScalarWordOf (words : Nat) (i : Instr) (form : Cur → Form) (d : Cur → Nat) (r : Cur → Word) : Prop :=
  ∀ s c, Issues s c form → ∃ t w, exec i s = .next t ∧ OnlyWave s t c.blk c.iss.wave w ∧ WaveKept c.wv w ∧
    Moved s t c w (if c.scalarTakes then { noRegs with s := [d c] } else noRegs) 2 words none ∧
    (∀ k, w.getS k = if k = d c ∧ c.scalarTakes = true then r c else c.wv.getS k) ∧
    w.v = c.wv.v ∧ w.p = c.wv.p ∧ w.t = c.wv.t ∧ w.flags = c.wv.flags

/-- A scalar word of one clause word. -/
def ScalarWord (i : Instr) (form : Cur → Form) (d : Cur → Nat) (r : Cur → Word) : Prop := ScalarWordOf 1 i form d r

end Sys2Proof.Claims

open Sys2Proof Sys2Proof.Machine Sys2Proof.Claims

/-- R93, R94: the integer sums and products; with SAT the exact signed sum is clamped and SA is set.
Rests on the model's choices of log 5, which are no rules of the spec (the model's choice). -/
def Obligations.IntegerArithmetic : Prop := ∀ n d a b,
  VecWord (.iadd n d a b) (formV3 0x00 xcIntSat false 4 n d a b) n d.toNat (fun c l =>
    let x := (opA c a l).toInt + (opB c b l).toInt
    if c.sat = true ∧ x > 2 ^ 31 - 1 then (0x7FFFFFFF, flSA) else if c.sat = true ∧ x < -2 ^ 31 then (0x80000000, flSA)
    else (BitVec.ofInt 32 x, 0)) ∧
  VecWord (.isub n d a b) (formV3 0x01 xcIntSat false 4 n d a b) n d.toNat (fun c l =>
    let x := (opA c a l).toInt - (opB c b l).toInt
    if c.sat = true ∧ x > 2 ^ 31 - 1 then (0x7FFFFFFF, flSA) else if c.sat = true ∧ x < -2 ^ 31 then (0x80000000, flSA)
    else (BitVec.ofInt 32 x, 0)) ∧
  IntWord (.imul n d a b) 0x02 n d a b (fun x y => BitVec.ofInt 32 (x.toInt * y.toInt)) ∧
  IntWord (.imulhs n d a b) 0x03 n d a b (fun x y => BitVec.ofInt 32 (x.toInt * y.toInt / 2 ^ 32)) ∧
  IntWord (.imulhu n d a b) 0x04 n d a b (fun x y => BitVec.ofNat 32 (x.toNat * y.toNat / 2 ^ 32)) ∧
  VecWord (.imad n d a b) (formV3 0x05 xcIntC true 4 n d a b) n d.toNat (fun c l =>
    (BitVec.ofInt 32 ((opA c a l).toInt * (opB c b l).toInt + (opC c d l).toInt), 0)) ∧
  IntWord (.imin n d a b) 0x06 n d a b (fun x y => BitVec.ofInt 32 (min x.toInt y.toInt)) ∧
  IntWord (.imax n d a b) 0x07 n d a b (fun x y => BitVec.ofInt 32 (max x.toInt y.toInt)) ∧
  IntWord (.umin n d a b) 0x08 n d a b (fun x y => BitVec.ofNat 32 (min x.toNat y.toNat)) ∧
  IntWord (.umax n d a b) 0x09 n d a b (fun x y => BitVec.ofNat 32 (max x.toNat y.toNat))

/-- R93, R97, R106: logic, shifts by B[4:0], bit fields and DOT4I.
Rests on the model's choices of log 5, which are no rules of the spec (the model's choice). -/
def Obligations.IntegerLogicAndShifts : Prop := ∀ n d a b,
  IntWord (.and n d a b) 0x0A n d a b (fun x y => x &&& y) ∧
  IntWord (.or n d a b) 0x0B n d a b (fun x y => x ||| y) ∧
  IntWord (.xor n d a b) 0x0C n d a b (fun x y => x ^^^ y) ∧
  IntWord (.andn n d a b) 0x0D n d a b (fun x y => x &&& ~~~y) ∧
  IntWord (.shl n d a b) 0x0E n d a b (fun x y => BitVec.ofNat 32 (x.toNat * 2 ^ (y.toNat % 32))) ∧
  IntWord (.shr n d a b) 0x0F n d a b (fun x y => BitVec.ofNat 32 (x.toNat / 2 ^ (y.toNat % 32))) ∧
  IntWord (.sar n d a b) 0x10 n d a b (fun x y => BitVec.ofInt 32 (x.toInt / 2 ^ (y.toNat % 32))) ∧
  IntWord (.rotl n d a b) 0x11 n d a b (fun x y => x <<< (y.toNat % 32) ||| x >>> (32 - y.toNat % 32)) ∧
  IntWord (.bfx n d a b) 0x13 n d a b (fun x y =>
    let w := y.toNat / 32 % 32
    BitVec.ofNat 32 (x.toNat / 2 ^ (y.toNat % 32) % 2 ^ (if w = 0 then 32 else w))) ∧
  VecWord (.bfi n d a b) (formV3 0x14 xcIntC true 4 n d a b) n d.toNat (fun c l =>
    let m := fieldMask (opB c b l)
    (opC c d l &&& ~~~m ||| opA c a l <<< ((opB c b l).toNat % 32) &&& m, 0)) ∧
  VecWord (.dot4i n d a b) (formV3 0x2F xcIntC true 6 n d a b) n d.toNat (fun c l =>
    let p (j : Nat) : Int := ((opA c a l).extractLsb' (8 * j) 8).toInt * ((opB c b l).extractLsb' (8 * j) 8).toInt
    (BitVec.ofInt 32 (p 0 + p 1 + p 2 + p 3 + (opC c d l).toInt), 0))

/-- R95, R96, R98, R103: the one-source and immediate words; MOVHI keeps the low half.
R96: what each function of IUN delivers. R103: what each function of FUN delivers: ABS and NEG touch the sign alone;
FLOOR, CEIL, TRUNC and RINT deliver the FP32 number of the integer j, a zero with the operand's sign, and only RINT sets
NX; FRACT stays below 1; CLASS sets one bit.
Rests on the model's choices of log 5, which are no rules of the spec (the model's choice). -/
def Obligations.UnaryAndImmediate : Prop := (∀ (n : Bool) (d a : BitVec 8),
  (∀ f, VecWord (.iun n d a f) (formU 0x12 xcUn (decide (f.toNat ≤ 10)) 4 n d a) n d.toNat
    (fun c l => (iunWord f.toNat (opA c a l), 0))) ∧
  (∀ i, VecWord (.iaddi n d a i) (formU 0x15 xcImmHi true 4 n d a) n d.toNat (fun c l => (opA c a l + c.imm8 i, 0))) ∧
  (∀ i, VecWord (.shli n d a i) (formU 0x16 xcUn true 4 n d a) n d.toNat (fun c l => (opA c a l <<< i.toNat, 0))) ∧
  (∀ i, VecWord (.shri n d a i) (formU 0x17 xcUn true 4 n d a) n d.toNat (fun c l => (opA c a l >>> i.toNat, 0))) ∧
  (∀ i, VecWord (.sari n d a i) (formU 0x18 xcUn true 4 n d a) n d.toNat
    (fun c l => (BitVec.ofInt 32 ((opA c a l).toInt / 2 ^ i.toNat), 0))) ∧
  (∀ i, VecWord (.andi n d a i) (formU 0x19 xcImmHi true 4 n d a) n d.toNat (fun c l => (opA c a l &&& c.imm8 i, 0))) ∧
  (∀ i, VecWord (.ori n d a i) (formU 0x1A xcImmHi true 4 n d a) n d.toNat (fun c l => (opA c a l ||| c.imm8 i, 0))) ∧
  (∀ i, VecWord (.xori n d a i) (formU 0x1B xcImmHi true 4 n d a) n d.toNat (fun c l => (opA c a l ^^^ c.imm8 i, 0))) ∧
  (∀ i, VecWord (.movi n d i) (formVm 0x1C true false true n d) n d.toNat (fun c _ => (c.imm16 i, 0))) ∧
  (∀ i, VecWord (.movhi d i) (formVm 0x1D false true true false d) false d.toNat
    (fun c l => (i ++ (vLane c.wv.v d.toNat l).extractLsb' 0 16, 0))) ∧
  VecWord (.mov n d a) (formU 0x1E xcUn true 4 n d a) n d.toNat (fun c l => (opA c a l, 0)) ∧
  (∀ lit, VecWordIn false 2 (.movl n d lit) (formVm 0x5E false false false n d) n d.toNat (fun _ _ => (lit, 0))) ∧
  (∀ f, VecWord (.fun n d a f) (formU 0x26 { xcUn with rnd := f == 5 } (decide (f.toNat ≤ 7)) 4 n d a) n d.toNat
    (fun c l => funWord f.toNat (c.mode 0) (opA c a l)))) ∧
  (∀ x : Word, iunWord 0 x = ~~~x ∧ iunWord 1 x = BitVec.ofInt 32 (-x.toInt) ∧
    iunWord 2 x = BitVec.ofNat 32 x.toInt.natAbs ∧
    (iunWord 3 x).toNat = ((List.range 32).filter fun i => x.getLsbD i).length ∧
    (x = 0 → iunWord 4 x = 32 ∧ iunWord 5 x = 32) ∧
    (∀ k, x.getLsbD k = true → ((∀ j, k < j → x.getLsbD j = false) → (iunWord 4 x).toNat = 31 - k) ∧
      ((∀ j, j < k → x.getLsbD j = false) → (iunWord 5 x).toNat = k)) ∧
    (∀ i, i < 32 → (iunWord 6 x).getLsbD i = x.getLsbD (31 - i)) ∧
    (iunWord 7 x).toInt = (x.extractLsb' 0 8).toInt ∧ (iunWord 8 x).toInt = (x.extractLsb' 0 16).toInt ∧
    (iunWord 9 x).toNat = x.toNat % 2 ^ 8 ∧ (iunWord 10 x).toNat = x.toNat % 2 ^ 16) ∧
  (∀ (mode : Mode) (x : Word),
    let mag := x.toNat % 2 ^ 31
    let pick (k : Nat) : Word × FlagSet := (BitVec.ofNat 32 (2 ^ k), 0)
    (∀ f, f < 2 → ((funWord f mode x).2 = 0 ∧ ∀ i, i < 31 → (funWord f mode x).1.getLsbD i = x.getLsbD i)) ∧
    (funWord 0 mode x).1.getLsbD 31 = false ∧ (funWord 1 mode x).1.getLsbD 31 = !x.getLsbD 31 ∧
    (∀ f s, 2 ≤ f → f ≤ 6 → f32 x = .nan s → funWord f mode x = (0x7FC00000, if s then flNV else 0)) ∧
    (∀ f n, 2 ≤ f → f ≤ 5 → f32 x = .inf n → funWord f mode x = (x, 0)) ∧
    (∀ n, f32 x = .inf n → funWord 6 mode x = (0x7FC00000, flNV)) ∧
    (mag = 0 → (∀ f, 2 ≤ f → f ≤ 5 → funWord f mode x = (x, 0)) ∧ funWord 6 mode x = (0, 0)) ∧
    (∀ neg m e, f32 x = .fin neg m e →
      let v : Int := (if neg then -(m : Int) else m) * 2 ^ e.toNat
      let u : Int := 2 ^ (-e).toNat
      let word (j : Int) : Word := if j = 0 then (if neg then 0x80000000 else 0) else (sum32 .rn [numOfInt j]).1
      funWord 2 mode x = (word (v / u), 0) ∧ funWord 3 mode x = (word (-(-v / u)), 0) ∧
      funWord 4 mode x = (word (v.tdiv u), 0) ∧
      (∃ j, funWord 5 mode x = (word j, if j * u = v then 0 else flNX) ∧ (mode = .rd → j = v / u) ∧
        (mode = .ru → j = -(-v / u)) ∧ (mode = .rz → j = v.tdiv u) ∧
        (mode = .rn → 2 * (j * u - v).natAbs ≤ u.natAbs ∧ (2 * (j * u - v).natAbs = u.natAbs → j % 2 = 0))) ∧
      (m ≠ 0 → let d := sum32 .rn [f32 x, (numOfInt (v / u)).negate]
        funWord 6 mode x = (if d.1.toNat ≤ 0x3F7FFFFF then d.1 else 0x3F7FFFFF, d.2))) ∧
    (mag > 0x7F800000 → funWord 7 mode x = pick (if x.getLsbD 22 then 1 else 0)) ∧
    (mag = 0x7F800000 → funWord 7 mode x = pick (if x.msb then 2 else 9)) ∧
    (0x00800000 ≤ mag → mag < 0x7F800000 → funWord 7 mode x = pick (if x.msb then 3 else 8)) ∧
    (0 < mag → mag < 0x00800000 → funWord 7 mode x = pick (if x.msb then 4 else 7)) ∧
    (mag = 0 → funWord 7 mode x = pick (if x.msb then 5 else 6)))

/-- R101, R102, R104: the FP32 words, each with one rounding of the exact value (R67, R74).
R102, R66: FMIN and FMAX deliver the bits of the lesser and the greater operand, −0 below +0; of a NaN and a number the
number; of two NaNs the canonical one; NV for a signalling NaN.
Rests on the model's choices of log 5, which are no rules of the spec (the model's choice). -/
def Obligations.FloatingPoint : Prop := (∀ n d a b,
  VecWord (.fadd n d a b) (formV3 0x20 xcFp false 4 n d a b) n d.toNat
    (fun c l => sum32 (c.mode 0) [f32 (opA c a l), f32 (opB c b l)]) ∧
  VecWord (.fsub n d a b) (formV3 0x21 xcFp false 4 n d a b) n d.toNat
    (fun c l => sum32 (c.mode 0) [f32 (opA c a l), (f32 (opB c b l)).negate]) ∧
  VecWord (.fmul n d a b) (formV3 0x22 xcFp false 4 n d a b) n d.toNat
    (fun c l => sum32 (c.mode 0) [(f32 (opA c a l)).mul (f32 (opB c b l))]) ∧
  VecWord (.ffma n d a b) (formV3 0x23 xcFpC true 4 n d a b) n d.toNat
    (fun c l => sum32 (c.mode 0) [(f32 (opA c a l)).mul (f32 (opB c b l)), f32 (opC c d l)]) ∧
  VecWord (.fmin n d a b) (formV3 0x24 xcInt false 4 n d a b) n d.toNat
    (fun c l => fminmax false (opA c a l) (opB c b l)) ∧
  VecWord (.fmax n d a b) (formV3 0x25 xcInt false 4 n d a b) n d.toNat
    (fun c l => fminmax true (opA c a l) (opB c b l)) ∧
  VecWord (.ldexp n d a b) (formV3 0x32 xcFp false 6 n d a b) n d.toNat
    (fun c l => ldexpWord (c.mode 0) (opA c a l) (opB c b l))) ∧
  (∀ x y : Word,
    let nan (w : Word) : Prop := w.toNat % 2 ^ 31 > 0x7F800000
    let sig (w : Word) : Prop := nan w ∧ w.getLsbD 22 = false
    let ord (w : Word) : Int := if w.msb then -(w.toNat % 2 ^ 31 : Nat) - 1 else (w.toNat % 2 ^ 31 : Nat)
    (¬ nan x → ¬ nan y → fminmax false x y = (if ord x ≤ ord y then x else y, 0) ∧
      fminmax true x y = (if ord x ≤ ord y then y else x, 0)) ∧
    (∀ k, (nan x → nan y → (fminmax k x y).1 = 0x7FC00000) ∧ (nan x → ¬ nan y → (fminmax k x y).1 = y) ∧
      (¬ nan x → nan y → (fminmax k x y).1 = x) ∧ (sig x ∨ sig y → (fminmax k x y).2 = flNV) ∧
      (¬ sig x → ¬ sig y → (fminmax k x y).2 = 0)))

/-- R105, R106: the packed pairs and the dot products: each element, or the sum with C, is rounded once.
Rests on the model's choices of log 5, which are no rules of the spec (the model's choice). -/
def Obligations.PackedAndDot : Prop := ∀ n d a b,
  VecWord (.badd2 n d a b) (formV3 0x29 xcFp false 4 n d a b) n d.toNat
    (fun c l => packedPair fmtBF16 (c.mode 0) (fun v => [v 0, v 1]) (opA c a l) (opB c b l) 0) ∧
  VecWord (.bmul2 n d a b) (formV3 0x2A xcFp false 4 n d a b) n d.toNat
    (fun c l => packedPair fmtBF16 (c.mode 0) (fun v => [(v 0).mul (v 1)]) (opA c a l) (opB c b l) 0) ∧
  VecWord (.bfma2 n d a b) (formV3 0x2B xcFpC true 4 n d a b) n d.toNat
    (fun c l => packedPair fmtBF16 (c.mode 0) (fun v => [(v 0).mul (v 1), v 2]) (opA c a l) (opB c b l) (opC c d l)) ∧
  VecWord (.hadd2 n d a b) (formV3 0x2C xcFp false 4 n d a b) n d.toNat
    (fun c l => packedPair fmtFP16 (c.mode 0) (fun v => [v 0, v 1]) (opA c a l) (opB c b l) 0) ∧
  VecWord (.hmul2 n d a b) (formV3 0x2D xcFp false 4 n d a b) n d.toNat
    (fun c l => packedPair fmtFP16 (c.mode 0) (fun v => [(v 0).mul (v 1)]) (opA c a l) (opB c b l) 0) ∧
  VecWord (.hfma2 n d a b) (formV3 0x2E xcFpC true 4 n d a b) n d.toNat
    (fun c l => packedPair fmtFP16 (c.mode 0) (fun v => [(v 0).mul (v 1), v 2]) (opA c a l) (opB c b l) (opC c d l)) ∧
  VecWord (.dot2b n d a b) (formV3 0x30 xcFpC true 6 n d a b) n d.toNat (fun c l =>
    let p (j : Nat) := (unpack fmtBF16 (half (opA c a l) j)).mul (unpack fmtBF16 (half (opB c b l) j))
    sum32 (c.mode 0) [p 0, p 1, f32 (opC c d l)]) ∧
  VecWord (.dot4f8 n d a b) (formV3 0x31 xcFpC true 6 n d a b) n d.toNat (fun c l =>
    let p (j : Nat) := (unpack fmtE4M3 (byteOf (opA c a l) j).toNat).mul (unpack fmtE4M3 (byteOf (opB c b l) j).toNat)
    sum32 (c.mode 0) [p 0, p 1, p 2, p 3, f32 (opC c d l)])

/-- R99, R100, R124: compares and votes write a predicate, SEL chooses by one.
R49: what each condition of an integer compare says. R124: what each condition of a vote says of the lanes that execute.
Rests on the model's choices of log 5, which are no rules of the spec (the model's choice). -/
def Obligations.ComparesAndSelect : Prop :=
  ((∀ k p old a b, PredWord (.icmp k p old a b) (formCmp 0x1F (decide (k.toNat ≤ 9)) p old a b) p.toNat old
    (fun c l => (icond k.toNat (opA c a l) (opB c b l), 0))) ∧
  (∀ k p old a b, PredWord (.fcmp k p old a b) (formCmp 0x27 (decide (k.toNat ≤ 7)) p old a b) p.toNat old
    (fun c l => fcmpBit k.toNat (opA c a l) (opB c b l))) ∧
  (∀ k p old q, PredWord (.vote k p old q) (formVote k p old q) p.toNat old
    (fun c _ => (voteBit k.toNat c.execMask (c.wv.getP q.toNat), 0))) ∧
  (∀ n d a b, VecWord (.sel n d a b) (formSel n d a b) n d.toNat (fun c l =>
    (if (c.wv.getP (c.cCode 0 % 16)).getLsbD l then opA c a l else opB c b l, 0)))) ∧
  (∀ a b : Word,
  icond 0 a b = decide (a = b) ∧ icond 1 a b = decide (a ≠ b) ∧
  icond 2 a b = decide (a.toInt < b.toInt) ∧ icond 3 a b = decide (a.toInt ≤ b.toInt) ∧
  icond 4 a b = icond 2 b a ∧ icond 5 a b = icond 3 b a ∧
  icond 6 a b = decide (a.toNat < b.toNat) ∧ icond 7 a b = decide (a.toNat ≤ b.toNat) ∧
  icond 8 a b = icond 6 b a ∧ icond 9 a b = icond 7 b a ∧
  (∀ k, k < 10 → icond k a b ≠ icond (if k < 2 then 1 - k else if k < 6 then 7 - k else 15 - k) a b)) ∧
  (∀ e q : Mask, (voteBit 0 e q = true ↔ ∃ l : Nat, e.getLsbD l = true ∧ q.getLsbD l = true) ∧
    (voteBit 1 e q = true ↔ ∀ l : Nat, e.getLsbD l = true → q.getLsbD l = true) ∧
    (voteBit 2 e q = true ↔ ∀ j l : Nat, e.getLsbD j = true → e.getLsbD l = true → q.getLsbD j = q.getLsbD l))

/-- R112-R121: conversions, transcendentals, quantisation and random numbers.
R81: what QSCALE delivers: in native mode the least FP32 number that is not below |a| / 448 (both sides in units of
2^−200), in compatibility mode a power of 2.
Rests on the model's choices of log 5 and, for the flags of F2I and F2U of an operand out of range, of log 49, which are no
rules of the spec (the model's choice). -/
def Obligations.ConversionsAndQuantisation : Prop := (∀ (n : Bool) (d a b : BitVec 8),
  VecWord (.cvt n d a b) (formCvt n d a b) n d.toNat (fun c l =>
    cvtWord b.toNat (fun j => c.mode (c.srBits 0 j l)) c.sat (opA c a l) (c.opnd false 0 (a.toNat + 1) l)) ∧
  VecWord (.f8pack n d a b) (formF8pack n d a b) n d.toNat (fun c l =>
    let e (j : Nat) := packE4M3 (c.mode (c.srBits 0 j l)) c.sat (f32 (c.opnd false 0 (a.toNat + j) l))
      (f32 (c.wv.getS (c.sNum 0 b)))
    (BitVec.ofNat 8 (e 3).1 ++ BitVec.ofNat 8 (e 2).1 ++ BitVec.ofNat 8 (e 1).1 ++ BitVec.ofNat 8 (e 0).1,
      (e 0).2 ||| (e 1).2 ||| (e 2).2 ||| (e 3).2)) ∧
  MultiWord true (.f8unpk d a b) (formF8unpk d a b) d.toNat 4 Cur.execMask (fun c j l =>
    sum32 .rn [(unpack fmtE4M3 (byteOf (opA c a l) j).toNat).mul (f32 (c.wv.getS (c.sNum 0 b)))]) ∧
  VecWordIn true 1 (.sfu n d a b) (formSfu n d a b) n d.toNat (fun c l => sfuWord b.toNat (c.opnd true 0 a.toNat l)) ∧
  ScalarResult (.qamax d a) (formQamax d a) (fun c => c.sNum 2 d) (fun c =>
    amax ((lanesOf c.execMask).flatMap fun l => (List.range 4).map fun j => c.opnd false 0 (a.toNat + j) l)) ∧
  (∀ m, ScalarResult (.qscale d a m) (formQscale d a) (fun c => c.sNum 2 d)
    (fun c => qscaleWord m (c.wv.getS (c.sNum 1 a)))) ∧
  MultiWord true (.rng d a b) (formRng d a b) d.toNat 4 Cur.execMask (fun c j l =>
    ((rngWords (c.wv.getS (c.sNum 0 b)) (c.wv.getS (c.sNum 0 b + 1)) (opA c a l)
      (BitVec.ofNat 32 (32 * c.wv.idx + l + 32 * c.blk.index)) (c.wv.getS (c.sNum 0 b + 2))).getD j 0, 0))) ∧
  (∀ (k : Bool) (x : Word), (∀ s, f32 x = .nan s → qscaleWord k x = (0x7FC00000, flNV)) ∧
    (∀ neg, f32 x = .inf neg → qscaleWord k x = (0x7F800000, 0)) ∧
    (x.toNat % 2 ^ 31 = 0 → qscaleWord k x = (0x3F800000, 0)) ∧
    (∀ neg m e, f32 x = .fin neg m e → m ≠ 0 →
      (k = true → qscaleWord k x = sum32 .rn [.fin false 1 (max ((m.log2 : Int) + e - 8) (-127))]) ∧
      (k = false → ∃ mq eq mp ep, f32 (qscaleWord k x).1 = .fin false mq eq ∧
        f32 ((qscaleWord k x).1 - 1) = .fin false mp ep ∧
        448 * mp * 2 ^ (ep + 200).toNat < m * 2 ^ (e + 200).toNat ∧
        m * 2 ^ (e + 200).toNat ≤ 448 * mq * 2 ^ (eq + 200).toNat ∧
        ((qscaleWord k x).2 &&& flNX = 0 ↔ m * 2 ^ (e + 200).toNat = 448 * mq * 2 ^ (eq + 200).toNat))))

/-- R122, R123, R125-R128: words that pass values between lanes, and between lanes and S registers.
R123: PERM's sender of a lane is the highest executing lane whose B names it, if any.
Rests on the model's choices of log 5, which are no rules of the spec (the model's choice). -/
def Obligations.LaneExchange : Prop :=
  (∀ (n : Bool) (d a b : BitVec 8),
  VecWord (.shfl n d a b) (formV3 0x40 xcInt false 6 n d a b) n d.toNat (fun c l =>
    (if (opB c b l).toNat < 32 then c.fromLane a.toNat (opB c b l).toNat else opA c a l, 0)) ∧
  VecWord (.perm n d a b) (formV3 0x41 xcInt false 6 n d a b) n d.toNat (fun c l =>
    (match permSender c b.toNat l 32 with
      | some j => opA c a j
      | none => vLane c.wv.v d.toNat l, 0)) ∧
  (∀ p, ScalarResult (.ballot d p) (formBallot d p) (fun c => c.sNum 2 d)
    (fun c => (c.execMask &&& c.wv.getP p.toNat, 0))) ∧
  ScalarResult (.wred d a b) (formWred d a b) (fun c => c.sNum 2 d) (fun c =>
    let r := combTree b.toNat 5 (c.present a.toNat)
    (match r.1 with
      | some w => canonWord b.toNat w
      | none => combIdentity b.toNat, r.2 ||| sigFlags b.toNat (c.present a.toNat))) ∧
  VecWord (.wscan n d a b) (formU 0x45 xcUn (decide (b.toNat ≤ 10)) 12 n d a) n d.toNat (fun c l =>
    let r := scanAll b.toNat 5 1 (c.present a.toNat)
    (canonWord b.toNat ((r.1.getD l none).getD 0), r.2 ||| sigFlags b.toNat (c.present a.toNat))) ∧
  (∀ l, ScalarResult (.v2s d a l) (formV2s d a) (fun c => c.sNum 2 d) (fun c => (c.fromLane a.toNat l.toNat, 0))) ∧
  VecWord (.s2v n d a) (formS2v n d a) n d.toNat (fun c _ => (c.wv.getS (c.sNum 1 a), 0))) ∧
  (∀ (c : Cur) (b l : Nat),
  (∀ j, permSender c b l 32 = some j → j < 32 ∧ c.execMask.getLsbD j = true ∧ (c.opnd false 1 b j).toNat = l ∧
    ∀ k, j < k → k < 32 → c.execMask.getLsbD k = true → (c.opnd false 1 b k).toNat ≠ l) ∧
  (permSender c b l 32 = none → ∀ k, k < 32 → c.execMask.getLsbD k = true → (c.opnd false 1 b k).toNat ≠ l))

/-- R80: QAMAX delivers the largest |x| over the four registers in the lanes that execute it, its sign bit clear: no
element's magnitude is above it, and it is some element's magnitude. It is +0 when no lane executes. A NaN among the
elements makes it the canonical NaN, and a signalling one also sets NV. (The bits of the magnitude of a number that
is no NaN are in the order of the magnitudes.) -/
def Obligations.QamaxDeliversTheLargest : Prop := ∀ d a s c, Issues s c (formQamax d a) →
  let mag (x : Word) : Nat := x.toNat % 2 ^ 31
  let nan (x : Word) : Prop := mag x > 0x7F800000
  let sig (x : Word) : Prop := nan x ∧ x.getLsbD 22 = false
  let elem (x : Word) : Prop := ∃ l j, l < 32 ∧ j < 4 ∧ c.execMask.getLsbD l = true ∧ x = c.opnd false 0 (a.toNat + j) l
  ∃ t w, exec (.qamax d a) s = .next t ∧ t.wave? c.blk.uid c.iss.wave = some w ∧
    ((∃ x, elem x ∧ nan x) → w.getS (c.sNum 2 d) = 0x7FC00000) ∧
    ((∀ x, elem x → ¬ nan x) → (w.getS (c.sNum 2 d)).getLsbD 31 = false ∧
      (∀ x, elem x → mag x ≤ (w.getS (c.sNum 2 d)).toNat) ∧
      (c.execMask ≠ 0 → ∃ x, elem x ∧ mag x = (w.getS (c.sNum 2 d)).toNat)) ∧
    (c.execMask = 0 → w.getS (c.sNum 2 d) = 0) ∧
    ((∃ x, elem x ∧ sig x) → w.flags = c.wv.flags ||| flNV) ∧
    ((∀ x, elem x → ¬ sig x) → w.flags = c.wv.flags)

/-- R78: when WRED finds no lane present, it delivers the identity of its operator: the operators in the order of
their codes, IADD, IMIN, IMAX, UMIN, UMAX, AND, OR, XOR, FADD, FMIN, FMAX. -/
def Obligations.WredDeliversTheIdentity : Prop := ∀ d a b s c, Issues s c (formWred d a b) → c.execMask = 0 →
  ∃ t w, exec (.wred d a b) s = .next t ∧ t.wave? c.blk.uid c.iss.wave = some w ∧ w.flags = c.wv.flags ∧
    some (w.getS (c.sNum 2 d)) = ([0, 0x7FFFFFFF, 0x80000000, 0xFFFFFFFF, 0, 0xFFFFFFFF, 0, 0, 0x80000000, 0x7F800000,
      0xFF800000] : List Word)[b.toNat]?

/-- R130, R131, R134, R136, R137, R139: the scalar words.
R135, R138: SADD64 writes a pair, SCMP all 32 lanes of a predicate.
Rests on the model's choices of log 5, which are no rules of the spec (the model's choice). -/
def Obligations.ScalarWords : Prop :=
  (∀ d a b : BitVec 8,
  let f (op : Nat) := formS3 op 1 d a b
  let x (c : Cur) := c.wv.getS (c.sNum 1 a)
  let y (c : Cur) := c.wv.getS (c.sNum 0 b)
  let dst (c : Cur) := c.sNum 2 d
  ScalarWord (.sadd d a b) (f 0x48) dst (fun c => x c + y c) ∧
  ScalarWord (.ssub d a b) (f 0x49) dst (fun c => x c - y c) ∧
  ScalarWord (.smul d a b) (f 0x4A) dst (fun c => x c * y c) ∧
  ScalarWord (.sand d a b) (f 0x4B) dst (fun c => x c &&& y c) ∧
  ScalarWord (.sor d a b) (f 0x4C) dst (fun c => x c ||| y c) ∧
  ScalarWord (.sxor d a b) (f 0x4D) dst (fun c => x c ^^^ y c) ∧
  ScalarWord (.sshl d a b) (f 0x4E) dst (fun c => BitVec.ofNat 32 ((x c).toNat * 2 ^ ((y c).toNat % 32))) ∧
  ScalarWord (.sshr d a b) (f 0x4F) dst (fun c => BitVec.ofNat 32 ((x c).toNat / 2 ^ ((y c).toNat % 32))) ∧
  ScalarWord (.ssar d a b) (f 0x50) dst (fun c => BitVec.ofInt 32 ((x c).toInt / 2 ^ ((y c).toNat % 32))) ∧
  ScalarWord (.smin d a b) (f 0x51) dst (fun c => BitVec.ofInt 32 (min (x c).toInt (y c).toInt)) ∧
  ScalarWord (.smax d a b) (f 0x52) dst (fun c => BitVec.ofInt 32 (max (x c).toInt (y c).toInt)) ∧
  (∀ i, ScalarWord (.saddi d a i) (formSaddi d a) dst (fun c => x c + c.imm8 i)) ∧
  (∀ i, ScalarWord (.smovi d i) (formSmov 0x54 true d) dst (fun c => c.imm16 i)) ∧
  (∀ lit, ScalarWordOf 2 (.smovl d lit) (formSmov 0x5F false d) dst (fun _ => lit)) ∧
  ScalarWord (.ssel d a b) (formSsel d a b) dst
    (fun c => if (c.wv.getP (c.cCode 0 % 16)).getLsbD c.lead then x c else y c)) ∧
  ((∀ d a b s c, Issues s c (formS3 0x56 2 d a b) → ∃ t w, exec (.sadd64 d a b) s = .next t ∧
    OnlyWave s t c.blk c.iss.wave w ∧ WaveKept c.wv w ∧
    Moved s t c w (if c.scalarTakes then { noRegs with s := [c.sNum 2 d, c.sNum 2 d + 1] } else noRegs) 2 1 none ∧
    (c.scalarTakes = true → w.getS64 (c.sNum 2 d) = c.wv.getS64 (c.sNum 1 a) + c.wv.getS64 (c.sNum 0 b)) ∧
    (∀ k, (k ≠ c.sNum 2 d ∧ k ≠ c.sNum 2 d + 1) ∨ c.scalarTakes = false → w.getS k = c.wv.getS k) ∧
    w.v = c.wv.v ∧ w.p = c.wv.p ∧ w.t = c.wv.t ∧ w.flags = c.wv.flags) ∧
  (∀ k p old a b s c, Issues s c (formScmp k p old a b) → ∃ t w, exec (.scmp k p old a b) s = .next t ∧
    OnlyWave s t c.blk c.iss.wave w ∧ WaveKept c.wv w ∧
    Moved s t c w (if c.scalarTakes then { noRegs with p := [p.toNat] } else noRegs) 2 1 none ∧
    (∀ q l, l < 32 → (w.getP q).getLsbD l = if q = p.toNat ∧ p.toNat ≠ 15 ∧ c.scalarTakes = true then
      icond k.toNat (c.wv.getS (c.sNum 1 a)) (c.wv.getS (c.sNum 0 b)) && (!old || (c.wv.getP q).getLsbD l)
      else (c.wv.getP q).getLsbD l) ∧
    w.v = c.wv.v ∧ w.s = c.wv.s ∧ w.t = c.wv.t ∧ w.flags = c.wv.flags))

/-- R142, R144, R145, R147, R148: the tile words.
R147: element i of lane l of a TMMA is the sum over k of row 2 i + l div 16 of A times column l mod 16 of B and the old
element: exact in INT32 modulo 2^32, else rounded once; a dead or exited lane's 16 bytes of a tile are zero (R142).
Rests on the model's choices of log 5, which are no rules of the spec (the model's choice). -/
def Obligations.TileWords : Prop :=
  (∀ d a b ty, MultiWord false (.tmma d a b ty) (formFrag 0x5A (decide (ty.toNat ≤ 4)) true 40 d a b false) d.toNat 8
    Cur.liveMask (fun c j l => tmmaElem c ty.toNat d.toNat a.toNat b.toNat j l)) ∧
  (∀ d a b ty, MultiWord false (.tmmac d a b ty) (formFrag 0x5B (ty == 3 || ty == 4) (decide (b.toNat % 2 = 0)) 72 d a b true)
    d.toNat 8 Cur.liveMask (fun c j l => tmmacElem c ty.toNat d.toNat a.toNat b.toNat j l)) ∧
  (∀ v t', MultiWord false (.tmov true v t') (formTmov true v t') v.toNat 4 Cur.liveMask (fun c j l =>
    let g (i : Nat) := tileByte c.wv.t t'.toNat (16 * l + 4 * j + i)
    (g 3 ++ g 2 ++ g 1 ++ g 0, 0))) ∧
  (∀ v t' s c, Issues s c (formTmov false v t') → ∃ t w, exec (.tmov false v t') s = .next t ∧
    OnlyWave s t c.blk c.iss.wave w ∧ WaveKept c.wv w ∧ Moved s t c w { noRegs with t := [t'.toNat] } 4 1 none ∧
    w.v = c.wv.v ∧ w.s = c.wv.s ∧ w.p = c.wv.p ∧ w.flags = c.wv.flags ∧
    ∀ k b, b < 512 → tileByte w.t k b = if k = t'.toNat ∧ c.liveMask.getLsbD (b / 16) = true then
      byteOf (vLane c.wv.v (v.toNat + b % 16 / 4) (b / 16)) (b % 4) else tileByte c.wv.t k b) ∧
  (∀ t' s c, Issues s c (formTzero t') → ∃ t w, exec (.tzero t') s = .next t ∧
    OnlyWave s t c.blk c.iss.wave w ∧ WaveKept c.wv w ∧ Moved s t c w { noRegs with t := [t'.toNat] } 4 1 none ∧
    w.v = c.wv.v ∧ w.s = c.wv.s ∧ w.p = c.wv.p ∧ w.flags = c.wv.flags ∧ ∀ k b, b < 512 → tileByte w.t k b = if k = t'.toNat then 0 else tileByte c.wv.t k b) ∧
  (∀ (c : Cur) (d a b i l : Nat),
    let row := 2 * i + l / 16
    let col := l % 16
    let old := vLane c.wv.v (d + i) l
    let byte (x o : Nat) : Byte := if c.wv.dead.getLsbD (o / 16) || c.wv.exitedLanes.getLsbD (o / 16) then 0 else tileByte c.wv.t x o
    let wide (x o : Nat) : Nat := (byte x (o + 1)).toNat * 256 + (byte x o).toNat
    let dot (kt : Nat) (f : Fmt) (ea eb : Nat → Nat) : Word × FlagSet :=
      sum32 .rn (((List.range kt).map fun k => (unpack f (ea k)).mul (unpack f (eb k))) ++ [f32 old])
    let bytes (f : Fmt) := dot 32 f (fun k => (byte a (32 * row + k)).toNat) (fun k => (byte b (32 * col + k)).toNat)
    let halves (f : Fmt) := dot 16 f (fun k => wide a (2 * (16 * row + k))) (fun k => wide b (2 * (16 * col + k)))
    tmmaElem c 0 d a b i l = bytes fmtE4M3 ∧ tmmaElem c 1 d a b i l = bytes fmtE5M2 ∧
    tmmaElem c 2 d a b i l = (BitVec.ofInt 32 (old.toInt +
      ((List.range 32).map fun k => (byte a (32 * row + k)).toInt * (byte b (32 * col + k)).toInt).sum), 0) ∧
    tmmaElem c 3 d a b i l = halves fmtBF16 ∧ tmmaElem c 4 d a b i l = halves fmtFP16)

namespace Sys2Proof.Claims

open Sys2Proof Sys2Proof.Machine

/-! ### Memory words -/

/-- The memories and caches of `t` are those of `s`. -/
structure MemKept (s t : State) : Prop where
  mem : t.mem = s.mem
  dram : t.dram = s.dram
  hostMem : t.hostMem = s.hostMem
  l1 : t.l1 = s.l1
  l2 : t.l2 = s.l2
  rdc : t.rdc = s.rdc

/-- The cells of the HBM4E hold what they held in `s`, or what the point of coherence held there (R470): a line that
leaves an L2 for want of room is written to them. -/
def CellsKept (s t : State) : Prop := ∀ a, getAt 0 t.dram a = getAt 0 s.dram a ∨ getAt 0 t.dram a = getAt 0 s.mem a

/-- `t` differs from `s` in no byte that software can read at its point of coherence. -/
structure CohKept (s t : State) : Prop where
  mem : t.mem = s.mem
  hostMem : t.hostMem = s.hostMem
  cells : CellsKept s t

/-- A memory word may go ahead: its addresses pass the checks of R205, nothing earlier stands against it, and no
lane's walk aborts. -/
structure Goes (s : State) (c : Cur) (op : Nat) (need : Need) (m : Mask) (addr : Nat → Addr) (size : Nat) (reads : Bool) : Prop where
  checks : addrFault s c.iss.core c.blk.ctx c.blk.decl.bmem op need size m addr = none
  clear : memHolds s c m addr size reads = false
  walks : walkAborts s c.iss.core c.blk.ctx need m addr = 0

/-- A load issues (R205, R208, R234): no register changes, one load is under way with the destination, which is pending
(R13), and, of each lane in block memory, the bytes there; block memory stays, and every byte at its point of coherence
stays where no L1 line holds a dirty byte that could be evicted. The other lanes are read one after another, each from the
state that the lanes before it leave (their lines are then in the caches), as `loadLane` gives; for the first of them,
where its page is uncached, the bytes are those that `State.loadByte` answers where the word issues. -/
def LoadWord (i : Instr) (form : Cur → Form) (m : Cur → Mask) (addr : Cur → Nat → Addr) (size : Nat)
    (dest : Cur → LoadDest) : Prop :=
  ∀ s c, Issues s c form → Goes s c (form c).opcode { r := true } (m c) (addr c) size true →
    ∃ t w, exec i s = .next t ∧ InWave s t c.blk c.iss.wave w ∧ RegsKept c.wv w ∧ w.sq = c.wv.sq ∧
      Moved s t c w noRegs 0 1 none ∧
      (m c = 0 → w.loads = c.wv.loads) ∧
      (m c ≠ 0 → ∃ op : LoadOp, w.loads = c.wv.loads ++ [op] ∧ op.part = c.iss.part ∧ op.dest = dest c ∧
        op.acqScope = c.acquires ∧ loadRegs (dest c) ∈ w.pending ∧
        (∃ x : Loading, x.st = (match c.acquires with
            | some sc => s.acquireCaches c.iss.core c.blk.ctx sc.toNat
            | none => s) ∧ x.data = [] ∧ x.waits = [] ∧ x.asked = [] ∧
          op.data = ((lanesOf (m c)).foldl (loadLane c size (addr c)) x).data) ∧
        (∀ l tg bs, c.acquires = none → l < 32 → (m c).getLsbD l = true → inAperture (addr c l) = false →
          (∀ j, j < l → (m c).getLsbD j = true → inAperture (addr c j) = true) →
          s.translate c.iss.core c.blk.ctx { r := true } (addr c l) = .ok tg → tg.policy = 2 →
          (tg.space = .here ∨ tg.space = .host) → bs.length = size →
          (∀ i, i < size → s.loadByte c.iss.core c.blk.ctx c.wv (addr c l + BitVec.ofNat 64 i)
            { tg with pa := tg.pa + i } = some (bs.getD i 0)) → (l, bs) ∈ op.data) ∧
        (∀ l, l < 32 → (m c).getLsbD l = true → inAperture (addr c l) = true →
          (l, c.blk.bmemRun (apOffset (addr c l)) size) ∈ op.data) ∧
        (∀ e ∈ op.data, (m c).getLsbD e.1 = true ∧ e.2.length = size)) ∧
      ((∀ x ∈ s.l1, x.dirty = 0) → CohKept s t) ∧
      ((∀ l, (m c).getLsbD l = true → inAperture (addr c l) = true) → c.acquires = none → OutsideKept s t)

/-- A store issues (R208, R213, R234), and its clause goes on: a lane in block memory writes its bytes there at once, the others enter the
wave's store queue; a byte that several lanes cover takes one of their bytes. `s0` is the state after the cache action
of a release whose lanes are performed at issue, with nothing of it left to be acknowledged by another device. -/
def StoreWord (i : Instr) (form : Cur → Form) (m : Cur → Mask) (addr : Cur → Nat → Addr) (size : Nat)
    (data : Cur → Nat → List Byte) : Prop :=
  ∀ s s0 c near, Issues s c form → Goes s c (form c).opcode { w := true } (m c) (addr c) size false →
    near = ((lanesOf (m c)).any fun l => inAperture (addr c l)) →
    (near = true → (c.releases.isSome = true → c.wv.storesQueued = false) ∧ c.wv.releaseReady (c.releases.getD 0) = true) →
    (if near && cacheRelease c.releases then s.releaseL1 c.iss.core c.blk.ctx else .ok s) = .ok s0 →
    (near = true → s0.releaseWaits c.iss.core c.blk.ctx c.releases = false) →
    ∃ t b w, exec i s = .next t ∧ MemKept s0 t ∧ RegsKept c.wv w ∧ w.loads = c.wv.loads ∧
      Moved s t c w noRegs 0 1 none ∧ t.block? c.blk.uid = some b ∧ b.wave? c.iss.wave = some w ∧ b = { c.blk with bmem := b.bmem, waves := b.waves } ∧
      (∀ j, j ≠ c.iss.wave → b.wave? j = c.blk.wave? j) ∧ (∀ u, u ≠ c.blk.uid → t.block? u = s.block? u) ∧
      (∀ o, (∀ l, l < 32 → (m c).getLsbD l = true → inAperture (addr c l) = true →
          ¬ (apOffset (addr c l) ≤ o ∧ o < apOffset (addr c l) + size)) → getAt 0 b.bmem o = getAt 0 c.blk.bmem o) ∧
      (∀ l o, l < 32 → (m c).getLsbD l = true → inAperture (addr c l) = true → apOffset (addr c l) ≤ o →
        o < apOffset (addr c l) + size → ∃ k, k < 32 ∧ (m c).getLsbD k = true ∧ inAperture (addr c k) = true ∧
          apOffset (addr c k) ≤ o ∧ o < apOffset (addr c k) + size ∧
          getAt 0 b.bmem o = (data c k).getD (o - apOffset (addr c k)) 0) ∧
      ((∀ l, l < 32 → (m c).getLsbD l = true → inAperture (addr c l) = true) → w.sq = c.wv.sq) ∧
      ((∃ l, l < 32 ∧ (m c).getLsbD l = true ∧ inAperture (addr c l) = false) → ∃ out,
        w.sq = c.wv.sq ++ [(s.now, .store c.iss.part out c.releases (position c.iss.pc c.startWord))] ∧
        ∀ e, e ∈ out ↔ ∃ l, l < 32 ∧ (m c).getLsbD l = true ∧ inAperture (addr c l) = false ∧
          e = (l, addr c l, data c l))

/-- The bytes that a lane stores of the vector registers from V[d]. -/
def storeBytes (d : BitVec 8) (size : Nat) (c : Cur) (l : Nat) : List Byte :=
  if size < 4 then leBytes size (c.vec false d.toNat l).toNat
  else (List.range (size / 4)).flatMap fun j => leBytes 4 (c.vec false (d.toNat + j) l).toNat

/-- The address of a scalar load. -/
def scalarAddr (n : BitVec 5) (i : BitVec 3) (size : Nat) (c : Cur) (_ : Nat) : Addr :=
  c.wv.getS64 (2 * n.toNat) + BitVec.ofInt 64 (size * c.memImm i)

end Sys2Proof.Claims

/-- R205, R233, R234, R143: the loads issue.
R207, R208, R234: one lane of a load from this device's memory or the host's: its line comes into the caches, and its
bytes are those that `State.loadByte` then answers; a byte that cannot be had withholds the lane (R437).
Rests on the model's choices of log 1, which are no rules of the spec (the model's choice). -/
def Obligations.LoadsIssue : Prop := (
  (∀ d v n i z, LoadWord (.ldb d v n i z) (formM 0x60 1 false d v n z) Cur.execMask
    (fun c => c.laneAddr n.toNat v.toNat 1 z (c.memImm i)) 1 (fun _ => .vec d.toNat 1)) ∧
  (∀ d v n i z, LoadWord (.ldh d v n i z) (formM 0x61 2 false d v n z) Cur.execMask
    (fun c => c.laneAddr n.toNat v.toNat 2 z (c.memImm i)) 2 (fun _ => .vec d.toNat 1)) ∧
  (∀ d v n i z, LoadWord (.ldw d v n i z) (formM 0x62 4 false d v n z) Cur.execMask
    (fun c => c.laneAddr n.toNat v.toNat 4 z (c.memImm i)) 4 (fun _ => .vec d.toNat 1)) ∧
  (∀ d v n i z, LoadWord (.ldd d v n i z) (formM 0x63 8 false d v n z) Cur.execMask
    (fun c => c.laneAddr n.toNat v.toNat 8 z (c.memImm i)) 8 (fun _ => .vec d.toNat 2)) ∧
  (∀ d v n i z, LoadWord (.ldq d v n i z) (formM 0x64 16 false d v n z) Cur.execMask
    (fun c => c.laneAddr n.toNat v.toNat 16 z (c.memImm i)) 16 (fun _ => .vec d.toNat 4)) ∧
  (∀ d n i, LoadWord (.sldw d n i) (formSload 0x6A 4 d n) (fun c => if c.scalarTakes then (1 : Mask) <<< c.lead else 0)
    (scalarAddr n i 4) 4 (fun c => .scalar (c.sNum 2 d) 1)) ∧
  (∀ d n i, LoadWord (.sldd d n i) (formSload 0x6B 8 d n) (fun c => if c.scalarTakes then (1 : Mask) <<< c.lead else 0)
    (scalarAddr n i 8) 8 (fun c => .scalar (c.sNum 2 d) 2)) ∧
  (∀ t v n, LoadWord (.tld t v n) (formTile 0x58 false t v n) Cur.liveMask
    (fun c => c.laneAddr n.toNat v.toNat 16 false 0) 16 (fun _ => .tile t.toNat))) ∧
  (∀ (c : Cur) (size l : Nat) (addr : Nat → Addr) (x : Loading) (tg : Target),
    (inAperture (addr l) = true → loadLane c size addr x l =
      { x with data := x.data ++ [(l, c.blk.bmemRun (apOffset (addr l)) size)] }) ∧
    (inAperture (addr l) = false → x.st.translate c.iss.core c.blk.ctx { r := true } (addr l) = .ok tg →
      (tg.space = .here ∨ tg.space = .host) →
      let y := loadLane c size addr x l
      let s1 := ((x.st.fillTlb c.iss.core c.blk.ctx (addr l)).fillRdc c.iss.core tg).fillLine c.iss.core c.blk.ctx (addr l) tg
      let byte (i : Nat) := s1.loadByte c.iss.core c.blk.ctx c.wv (addr l + BitVec.ofNat 64 i) { tg with pa := tg.pa + i }
      y.waits = x.waits ∧ y.asked = x.asked ∧
      (∀ bs : List Byte, bs.length = size → (∀ i, i < size → byte i = some (bs.getD i 0)) →
        y.data = x.data ++ [(l, bs)] ∧ y.killed = x.killed ∧ y.st = s1) ∧
      ((∃ i, i < size ∧ byte i = none) → y.data = x.data ∧ y.killed = x.killed ||| (1 : Mask) <<< l ∧
        y.st = s1.withhold (some c.blk.ctx))))

/-- R13, R234, R235: the oldest load whose data have come writes its destination registers in the lanes whose data
came and that are neither dead nor exited, and leaves the wave's list; nothing else of the wave changes.
R207, R208: a lane's byte from a page of this device is the newest queued store of its wave that covers it, else
the L1's valid byte, else the byte below (the RDC copy, or the point of coherence); a bad byte withholds the lane.
R449: so does a dirty byte of the L1 that was found uncorrectable. -/
def Obligations.LoadsComplete : Prop :=
  (∀ (s : State) (u i : Nat) (b : Block) (w : Wave) (l : LoadOp),
  s.block? u = some b → b.wave? i = some w → w.loadDone s.now = some l → l.killed = 0 →
  ∃ t w', exec (.loadComplete u i) s = .next t ∧ t.wave? u i = some w' ∧ w'.loads = w.loads.erase l ∧ w'.run = w.run ∧
    w'.p = w.p ∧ w'.flags = w.flags ∧ w'.dead = w.dead ∧ t.mem = s.mem ∧ t.hostMem = s.hostMem ∧ t.dram = s.dram ∧
    (∀ j, j ≠ i → t.wave? u j = b.wave? j) ∧ (∀ x, x ≠ u → t.block? x = s.block? x) ∧
    (l.acqScope = none → OutsideKept s t) ∧
    (∀ d n, l.dest = .vec d n → w'.s = w.s ∧ w'.t = w.t ∧ ∀ q k, k < 32 → vLane w'.v q k =
      match l.data.find? (fun e => e.1 == k) with
      | some e => if d ≤ q ∧ q < d + n ∧ w.gone.getLsbD k = false then dataWord e.2 (q - d) else vLane w.v q k
      | none => vLane w.v q k) ∧
    (∀ d n e, l.dest = .scalar d n → l.data.head? = some e → w'.v = w.v ∧ w'.t = w.t ∧ ∀ q, w'.getS q =
      if d ≤ q ∧ q < d + n then dataWord e.2 (q - d) else w.getS q) ∧
    (∀ x, l.dest = .tile x → w'.v = w.v ∧ w'.s = w.s ∧ ∀ q o, o < 512 → tileByte w'.t q o =
      match l.data.find? (fun e => e.1 == o / 16) with
      | some e => if q = x ∧ w.gone.getLsbD (o / 16) = false then e.2.getD (o % 16) 0 else tileByte w.t q o
      | none => tileByte w.t q o)) ∧
  (∀ (s : State) (core ctx : Nat) (w : Wave) (va : Addr) (t : Target),
  (∀ b, sqByte w va = some b → s.loadByte core ctx w va t = some b) ∧
  (∀ ln, sqByte w va = none → s.l1Line core ctx (va.toNat / 128) = some ln → ln.valid.getLsbD (va.toNat % 128) = true →
    s.loadByte core ctx w va t =
      if ln.bad.getLsbD (va.toNat % 128) then none else some (getAt 0 ln.data (va.toNat % 128))) ∧
  (sqByte w va = none → (∀ ln, s.l1Line core ctx (va.toNat / 128) = some ln → ln.valid.getLsbD (va.toNat % 128) = false ∧
    ln.bad.getLsbD (va.toNat % 128) = false) →
    s.loadByte core ctx w va t = s.belowByte core ctx t) ∧
  (t.space = .here → (∀ r ∈ s.rdc, r.ctx ≠ none ∨ r.die ≠ dieOf core) →
    s.belowByte core ctx t = if s.isBad t.pa 1 then none else some (s.memByte t.pa)) ∧
  (t.space = .host → s.belowByte core ctx t = some (getAt 0 s.hostMem t.pa)) ∧
  (∀ q e, w.sq = q ++ [e] → ∀ p lane bs rel pos, e.2 = .store p [(lane, va, bs)] rel pos → bs ≠ [] →
    sqByte w va = some (bs.getD 0 0)))

/-- R208, R213, R234, R143: the stores issue.
Rests on the model's choices of log 11, 23, which are no rules of the spec (the model's choice). -/
def Obligations.StoresIssue : Prop :=
  (∀ d v n i z, StoreWord (.stb d v n i z) (formM 0x65 1 true d v n z) Cur.execMask
    (fun c => c.laneAddr n.toNat v.toNat 1 z (c.memImm i)) 1 (storeBytes d 1)) ∧
  (∀ d v n i z, StoreWord (.sth d v n i z) (formM 0x66 2 true d v n z) Cur.execMask
    (fun c => c.laneAddr n.toNat v.toNat 2 z (c.memImm i)) 2 (storeBytes d 2)) ∧
  (∀ d v n i z, StoreWord (.stw d v n i z) (formM 0x67 4 true d v n z) Cur.execMask
    (fun c => c.laneAddr n.toNat v.toNat 4 z (c.memImm i)) 4 (storeBytes d 4)) ∧
  (∀ d v n i z, StoreWord (.std d v n i z) (formM 0x68 8 true d v n z) Cur.execMask
    (fun c => c.laneAddr n.toNat v.toNat 8 z (c.memImm i)) 8 (storeBytes d 8)) ∧
  (∀ d v n i z, StoreWord (.stq d v n i z) (formM 0x69 16 true d v n z) Cur.execMask
    (fun c => c.laneAddr n.toNat v.toNat 16 z (c.memImm i)) 16 (storeBytes d 16)) ∧
  (∀ x v n, StoreWord (.tst x v n) (formTile 0x59 true x v n) Cur.liveMask
    (fun c => c.laneAddr n.toNat v.toNat 16 false 0) 16 (fun c l => (List.range 16).map fun i => c.tile x.toNat (16 * l + i)))

/-- R236: what each atomic function leaves in memory; UMIN and UMAX compare unsigned, MIN and MAX signed, CAS stores
its new value only where the old one is the operand.
R237: the lanes of an atomic on block memory take effect one after another: the first lane reads what stands
there, each later lane what the lanes before it have left, and bytes that no lane names stay. -/
def Obligations.AtomicFunctions : Prop :=
  (∀ old d new : Word,
  atomOp 0 old d new = old + d ∧ atomOp 1 old d new = BitVec.ofInt 32 (min old.toInt d.toInt) ∧
  atomOp 2 old d new = BitVec.ofInt 32 (max old.toInt d.toInt) ∧
  atomOp 3 old d new = BitVec.ofNat 32 (min old.toNat d.toNat) ∧
  atomOp 4 old d new = BitVec.ofNat 32 (max old.toNat d.toNat) ∧
  atomOp 5 old d new = old &&& d ∧ atomOp 6 old d new = old ||| d ∧ atomOp 7 old d new = old ^^^ d ∧
  atomOp 8 old d new = d ∧ atomOp 9 old old new = new ∧ (old ≠ d → atomOp 9 old d new = old) ∧
  atomOp 10 old d new = (sum32 .rn [f32 old, f32 d]).1 ∧
  atomOp 11 old d new = (packedPair fmtBF16 .rn (fun v => [v 0, v 1]) old d 0).1) ∧
  (∀ (fn : Nat) (b : Block) (x : AtomLane) (r : List AtomLane),
  atomNear fn b [] = ([], b) ∧
  (let old : Word := BitVec.ofNat 32 (leNat (b.bmemRun (apOffset x.2.1) 4))
   ∃ b1 : Block, b1 = { b with bmem := b1.bmem } ∧
    BitVec.ofNat 32 (leNat (b1.bmemRun (apOffset x.2.1) 4)) = atomOp fn old x.2.2.1 x.2.2.2 ∧
    (∀ o, o < apOffset x.2.1 ∨ apOffset x.2.1 + 4 ≤ o → getAt 0 b1.bmem o = getAt 0 b.bmem o) ∧
    atomNear fn b (x :: r) = ((x.1, old) :: (atomNear fn b1 r).1, (atomNear fn b1 r).2)))

namespace Sys2Proof.Claims

open Sys2Proof Sys2Proof.Machine

/-- One lane of an atomic, with its address, its operand and CAS's new value. -/
def atomicLane (fn : BitVec 4) (d v : BitVec 8) (n : BitVec 5) (c : Cur) (l : Nat) : AtomLane :=
  (l, c.laneAddr n.toNat v.toNat 4 false 0 l, c.vec false d.toNat l, if fn = 9 then c.vec false (d.toNat + 1) l else 0)

/-- An atomic issues (R215, R236, R237): its lanes in block memory are performed at once, one after another in some
order; the others enter the store queue in some order. `ret` says that old values are returned: their destination is
pending (R13), for 24 cycles where lanes have been performed, and while lanes are queued. -/
def AtomWord (i : Instr) (op : Nat) (ret : Bool) (fn : BitVec 4) (d v : BitVec 8) (n : BitVec 5) : Prop :=
  ∀ s s0 c near, Issues s c (formAtom op ret fn d v n) →
    Goes s c op { r := true, w := true, a := true } c.execMask (c.laneAddr n.toNat v.toNat 4 false 0) 4 false →
    near = ((lanesOf c.execMask).any fun l => inAperture (c.laneAddr n.toNat v.toNat 4 false 0 l)) →
    (near = true → (c.releases.isSome = true → c.wv.storesQueued = false) ∧ c.wv.releaseReady (c.releases.getD 0) = true) →
    (if near && cacheRelease c.releases then s.releaseL1 c.iss.core c.blk.ctx else .ok s) = .ok s0 →
    (near = true → s0.releaseWaits c.iss.core c.blk.ctx c.releases = false) →
    ∃ (t : State) (b : Block) (w : Wave) (order : List AtomLane), exec i s = .next t ∧ order.Perm ((lanesOf c.execMask).map (atomicLane fn d v n c)) ∧
      let here := order.filter fun x => inAperture x.2.1
      let out := order.filter fun x => !inAperture x.2.1
      let r := atomNear fn.toNat c.blk here
      Moved s t c w (if here = [] then noRegs else (formAtom op ret fn d v n c).writes) 24 1 none ∧
      (ret = true → out ≠ [] → (formAtom op ret fn d v n c).writes ∈ w.pending) ∧
      t.block? c.blk.uid = some b ∧ b.wave? c.iss.wave = some w ∧
      b = { c.blk with bmem := r.2.bmem, waves := b.waves } ∧ (∀ j, j ≠ c.iss.wave → b.wave? j = c.blk.wave? j) ∧
      (∀ u, u ≠ c.blk.uid → t.block? u = s.block? u) ∧
      (∀ q l, l < 32 → vLane w.v q l = match r.1.find? (fun e => e.1 == l) with
        | some e => if ret = true ∧ q = d.toNat then e.2 else vLane c.wv.v q l
        | none => vLane c.wv.v q l) ∧
      w.s = c.wv.s ∧ w.p = c.wv.p ∧ w.t = c.wv.t ∧ w.flags = c.wv.flags ∧ w.dead = c.wv.dead ∧ w.loads = c.wv.loads ∧
      w.sq = c.wv.sq ++ (if out = [] then [] else [(s.now, .atom c.iss.part fn (if ret then some d.toNat else none) out
        c.acquires c.releases (position c.iss.pc c.startWord))]) ∧
      t.mem = s0.mem ∧ t.dram = s0.dram ∧ t.hostMem = s0.hostMem ∧ (c.acquires = none ∨ here = [] → MemKept s0 t)

end Sys2Proof.Claims

/-- R236, R237: ATOM returns the old values, ATOMN none.
Rests on the model's choices of log 10, 23, which are no rules of the spec (the model's choice). -/
def Obligations.AtomicsIssue : Prop := ∀ fn d v n,
  AtomWord (.atom fn d v n) 0x6C true fn d v n ∧ AtomWord (.atomn fn d v n) 0x6D false fn d v n

/-- R214, R224, R226, R238, R239: FENCE and DRAIN hold their wave at the word with their kinds, scope and masks;
no register and no byte changes. -/
def Obligations.FenceAndDrainHold : Prop :=
  (∀ sc k m s c, Issues s c (formHold 0x6E (m != 0)) → ∃ t w h, exec (.fence sc k m) s = .next t ∧
    OnlyWave s t c.blk c.iss.wave w ∧ RegsKept c.wv w ∧ w.run = .fence h ∧ h.part = c.iss.part ∧ h.scope = sc ∧ h.mask = m ∧
    (h.acq = true ↔ k = 0 ∨ k = 2 ∨ k = 3) ∧ (h.rel = true ↔ k = 1 ∨ k = 2 ∨ k = 3) ∧ h.mark = s.nextUid ∧ h.since = s.now ∧
    h.inval = none ∧ w.sq = c.wv.sq ∧ w.loads = c.wv.loads ∧ w.atoms = c.wv.atoms ∧ w.acks = c.wv.acks) ∧
  (∀ p s c, Issues s c (formHold 0x6F (p != 0)) → ∃ t w h, exec (.drain p) s = .next t ∧
    OnlyWave s t c.blk c.iss.wave w ∧ RegsKept c.wv w ∧ w.run = .drain h ∧ h.part = c.iss.part ∧ h.mask = p ∧
    h.mark = s.nextUid ∧ w.sq = c.wv.sq ∧ w.loads = c.wv.loads ∧ w.atoms = c.wv.atoms ∧ w.acks = c.wv.acks)

/-- R213, R224, R226: a FENCE that is satisfied does its cache actions and its wave runs again, once what its release sent
to other devices is acknowledged; an acquire that names COLL acts as one at fabric scope (the model's choice, log 51); a
release that names MEM and RAY leaves no line of the context in the core's ray node cache (R290). A DRAIN ends once no copy
that the engine had accepted, 4 cycles after it issued (R244), writes a path it names.
Rests on the model's choices of log 1, 51, which are no rules of the spec (the model's choice). -/
def Obligations.FenceAndDrainComplete : Prop := ∀ (s : State) (u i : Nat) (b : Block) (w : Wave) (h : Hold),
  s.block? u = some b → b.wave? i = some w →
  (∀ s1, w.run = .fence h → h.inval = none → fenceReady s b w h = true →
    (if h.rel && cacheRelease (some h.scope) then s.releaseL1 b.core b.ctx else .ok s) = .ok s1 →
    (h.rel = true → s1.releaseWaits b.core b.ctx (some h.scope) = true → exec (.fenceComplete u i) s = .next s1) ∧
    ((h.rel = true → s1.releaseWaits b.core b.ctx (some h.scope) = false) →
    ∃ t, exec (.fenceComplete u i) s = .next t ∧ t.wave? u i = some { w with run := .running } ∧
      t.mem = s1.mem ∧ t.hostMem = s1.hostMem ∧ t.dram = s1.dram ∧ (∀ j, j ≠ i → t.wave? u j = b.wave? j) ∧
      (∀ x, x ≠ u → t.block? x = s.block? x) ∧ (h.acq = false → t.l1 = s1.l1 ∧ t.rdc = s1.rdc) ∧
      (h.acq = true → 2 ≤ h.scope.toNat ∨ h.mask.getLsbD 4 = true → ∀ x ∈ t.l1, x.core = b.core → x.ctx = b.ctx → x.valid = x.dirty) ∧
      (h.acq = true → h.scope = 3 ∨ h.mask.getLsbD 4 = true → ∀ r ∈ t.rdc, r.die = dieOf b.core → r.ctx ≠ some b.ctx) ∧
      (h.rel = true → 2 ≤ h.scope.toNat → h.mask.getLsbD 0 = true → h.mask.getLsbD 3 = true →
        ∀ x ∈ t.raycache, x.core = b.core → x.ctx ≠ b.ctx))) ∧
  (w.run = .drain h → (∀ j ∈ (s.core b.core).copies, h.since ≤ j.issued + 4 ∨ h.mask.getLsbD j.path = false) →
    ∃ t, exec (.drainComplete u i) s = .next t ∧ OutsideKept s t ∧ t.wave? u i = some { w with run := .running } ∧
      (∀ j, j ≠ i → t.wave? u j = b.wave? j) ∧ (∀ x, x ≠ u → t.block? x = s.block? x))

/-- R213: a release leaves no dirty byte of its context in the core's L1, and touches no other core's or context's
line; an acquire at device or fabric scope leaves only dirty bytes valid. -/
def Obligations.ReleaseAndAcquire : Prop := ∀ (s : State) (core ctx : Nat),
  (∀ t, s.releaseL1 core ctx = .ok t → (∀ x ∈ t.l1, x.core = core → x.ctx = ctx → x.dirty = 0) ∧
    (∀ x, (x.core ≠ core ∨ x.ctx ≠ ctx) → (x ∈ t.l1 ↔ x ∈ s.l1))) ∧
  (∀ sc, 2 ≤ sc → (∀ x ∈ (s.acquireCaches core ctx sc).l1, x.core = core → x.ctx = ctx → x.valid = x.dirty ∧ x.dirty ≠ 0) ∧
    (∀ x, (x.core ≠ core ∨ x.ctx ≠ ctx) → (x ∈ (s.acquireCaches core ctx sc).l1 ↔ x ∈ s.l1)) ∧
    (s.acquireCaches core ctx sc).mem = s.mem) ∧
  (∀ sc, sc < 2 → s.acquireCaches core ctx sc = s)

/-- R240-R243: PREF and RDCPURGE change no register and go on to the next clause; CINV holds its wave with the lines
it names; RDCPURGE.ALL leaves no borrowed line of the context in the die's RDC.
R242: a CINV that completes writes the dirty bytes of its lines back and drops the lines, and, once what went to other
devices is acknowledged, its part goes on. That it acts more than 256 cycles after it issued rests on the count of time of
log 1, which is no rule of the spec (the model's choice): the age is in the model's time, by the core's own clock. -/
def Obligations.CacheWords : Prop :=
  (∀ (n : BitVec 5) (o : BitVec 8),
  (∀ l s c, Issues s c (formCache (l != 3) false n o) → ∃ t w, exec (.pref n o l) s = .next t ∧
    InWave s t c.blk c.iss.wave w ∧ RegsKept c.wv w ∧ w.part? c.iss.part = some { c.pt with pc := c.nextPc, word := 0, wait := .none } ∧
    w.run = .running ∧ w.loads = c.wv.loads ∧ w.sq = c.wv.sq ∧ ((∀ x ∈ s.l1, x.dirty = 0) → CohKept s t)) ∧
  (∀ a s c, Issues s c (formCache true a n o) → ∃ t w h, exec (.cinv n o a) s = .next t ∧
    OnlyWave s t c.blk c.iss.wave w ∧ RegsKept c.wv w ∧ w.run = .fence h ∧ h.part = c.iss.part ∧ h.acq = false ∧
    (a = true → h.inval = some none) ∧
    (a = false → ∃ ls, h.inval = some (some ls) ∧ ∀ x, x ∈ ls ↔ ∃ l, l < 32 ∧ c.liveMask.getLsbD l = true ∧
      (cacheTarget s c (c.cacheAddr n.toNat o.toNat l)).isSome = true ∧ x = (c.cacheAddr n.toNat o.toNat l).toNat / 128)) ∧
  (∀ a s c, Issues s c (formCache true a n o) → ∃ t w, exec (.rdcpurge n o a) s = .next t ∧
    InWave s t c.blk c.iss.wave w ∧ RegsKept c.wv w ∧ w.part? c.iss.part = some { c.pt with pc := c.nextPc, word := 0, wait := .none } ∧
    w.run = .running ∧ t.mem = s.mem ∧ t.hostMem = s.hostMem ∧ t.dram = s.dram ∧ t.l1 = s.l1 ∧ (∀ r ∈ t.rdc, r ∈ s.rdc) ∧
    (a = true → ∀ r ∈ t.rdc, r.die = dieOf c.iss.core → r.ctx ≠ some c.blk.ctx))) ∧
  (∀ (s s1 : State) (u i : Nat) (b : Block) (w : Wave) (h : Hold) (all : Option (List Nat))
    (lines : List Nat),
  s.block? u = some b → b.wave? i = some w → w.run = .fence h → h.inval = some all → h.acq = false →
  s.aged b.core h.since = true → lines = all.getD ((s.l1Of b.core b.ctx).map L1Line.line) →
  cinvLines b.core b.ctx lines s = .ok s1 →
  (s1.evicting b.core b.ctx = true → exec (.fenceComplete u i) s = .next s1) ∧
  (s1.evicting b.core b.ctx = false → ∃ t, exec (.fenceComplete u i) s = .next t ∧ t.mem = s1.mem ∧ t.hostMem = s1.hostMem ∧ t.dram = s1.dram ∧
    t.wave? u i = some ({ w with run := .running }.pastPart h.part) ∧
    (∀ x, x ∈ t.l1 ↔ x ∈ s.l1 ∧ ¬ (x.core = b.core ∧ x.ctx = b.ctx ∧ x.line ∈ lines)) ∧
    (∀ j, j ≠ i → t.wave? u j = b.wave? j) ∧ (∀ x, x ≠ u → t.block? x = s.block? x)))

/-- R252, R267: ALD puts a load of window elements under way, 28 cycles long; AST writes each lane's element, the
highest lane last. An offset of 4,096 is the window's saturation count.
R267, R232: a window offset beyond 4,096 traps with protection, reason 2, and the lanes at fault.
That 28 cycles are 28 of `State.now` rests on log 1, which is no rule of the spec (the model's choice). -/
def Obligations.WindowWords : Prop :=
  (∀ v o k : BitVec 8,
  (∀ s c, Issues s c (formAcc 0x75 false v o k) → c.badOffsets o.toNat = 0 → c.wv.acqPending = false →
    ∃ t w op, exec (.ald v o k) s = .next t ∧ OnlyWave s t c.blk c.iss.wave w ∧ RegsKept c.wv w ∧
      w.loads = c.wv.loads ++ [op] ∧ op.dest = .vec v.toNat 1 ∧ op.due = s.now + 28 ∧ op.waits = [] ∧ op.killed = 0 ∧
      ∀ e, e ∈ op.data ↔ ∃ l, l < 32 ∧ c.execMask.getLsbD l = true ∧
        e = (l, leBytes 4 (c.blk.winElem k.toNat (c.vec false o.toNat l).toNat).toNat)) ∧
  (∀ s c, Issues s c (formAcc 0x76 true v o k) → c.badOffsets o.toNat = 0 → c.wv.acqPending = false →
    ∃ t b w, exec (.ast v o k) s = .next t ∧ OutsideKept s t ∧ t.block? c.blk.uid = some b ∧ b.wave? c.iss.wave = some w ∧
      RegsKept c.wv w ∧ w.loads = c.wv.loads ∧ w.sq = c.wv.sq ∧
      b = { c.blk with win := b.win, satCount := b.satCount, waves := b.waves } ∧
      (∀ u, u ≠ c.blk.uid → t.block? u = s.block? u) ∧
      (∀ x e, e ≤ 4096 → (x = k.toNat → ∀ l, l < 32 → c.execMask.getLsbD l = true → (c.vec false o.toNat l).toNat ≠ e) →
        b.winElem x e = c.blk.winElem x e) ∧
      (∀ l, l < 32 → c.execMask.getLsbD l = true → (∀ j, l < j → j < 32 → c.execMask.getLsbD j = true →
          (c.vec false o.toNat j).toNat ≠ (c.vec false o.toNat l).toNat) →
        b.winElem k.toNat (c.vec false o.toNat l).toNat = c.vec false v.toNat l))) ∧
  (∀ (v o k : BitVec 8) (s : State) (c : Cur), c.badOffsets o.toNat ≠ 0 →
  (Issues s c (formAcc 0x75 false v o k) → exec (.ald v o k) s =
    .next (takeTrap s c { cause := 6, reason := 2, opcode := 0x75, mask := c.badOffsets o.toNat })) ∧
  (Issues s c (formAcc 0x76 true v o k) → exec (.ast v o k) s =
    .next (takeTrap s c { cause := 6, reason := 2, opcode := 0x76, mask := c.badOffsets o.toNat })))

/-- R215, R236, R237: the oldest atomic of a wave returns: its lanes are performed at the point of coherence, and the
old values are written to its destination in lanes that are neither dead nor exited; then the block goes on as its waiting
parts allow (`State.settle`).
R215, R236: one lane of an atomic at the point of coherence of this device, its line not in the L1: the old word is
read and the new one written, and no other byte of memory changes. -/
def Obligations.AtomicsReturn : Prop :=
  (∀ (s : State) (u i : Nat) (b : Block) (w : Wave) (p : Nat) (fn : BitVec 4)
    (d : Option Nat) (lanes : List AtomLane) (rl : Option (BitVec 2)) (pos : Addr) (rest : List Effect),
  s.block? u = some b → b.wave? i = some w → w.atoms = .atom p fn d lanes none rl pos :: rest →
  (atomLanes b fn.toNat lanes s).2.1 = 0 →
  ∃ (t : State) (w' : Wave), exec (.atomReturn u i) s = .next (t.settle u) ∧ t.wave? u i = some w' ∧ w'.atoms = rest ∧ w'.s = w.s ∧ w'.p = w.p ∧
    w'.t = w.t ∧ w'.flags = w.flags ∧ w'.sq = w.sq ∧ w'.loads = w.loads ∧ w'.run = w.run ∧
    t.mem = (atomLanes b fn.toNat lanes s).2.2.mem ∧ t.hostMem = (atomLanes b fn.toNat lanes s).2.2.hostMem ∧
    (∀ q k, k < 32 → vLane w'.v q k =
      match (atomLanes b fn.toNat lanes s).1.find? (fun e => e.1 == k) with
      | some e => if d = some q ∧ w.gone.getLsbD k = false then e.2 else vLane w.v q k
      | none => vLane w.v q k)) ∧
  (∀ (s : State) (b : Block) (fn : Nat) (x : AtomLane) (pa pol : Nat),
  s.l1Line b.core b.ctx (x.2.1.toNat / 128) = none →
  s.translate b.core b.ctx { r := true, w := true, a := true } x.2.1 = .ok { space := .here, pa := pa, policy := pol } →
  s.isBad pa 4 = false →
  ∃ t, atomLane b fn s x = (some (s.mem32 pa), t) ∧ t.mem32 pa = atomOp fn (s.mem32 pa) x.2.2.1 x.2.2.2 ∧
    (∀ a, a < pa ∨ pa + 4 ≤ a → t.memByte a = s.memByte a) ∧ t.hostMem = s.hostMem ∧ t.blocks = s.blocks ∧
    ∀ a, getAt 0 t.dram a = getAt 0 s.dram a ∨ getAt 0 t.dram a = getAt 0 s.mem a ∨ getAt 0 t.dram a = getAt 0 t.mem a)

/-- R21, R208, R212: a store of one lane that is over 256 cycles old leaves its wave: its bytes go to its core's L1,
or through to the point of coherence where the page is uncached; the queue loses the entry and the block's side-effect
bit is set; then the block goes on as its waiting parts allow (`State.settle`).
Rests on the model's choices of log 1, which are no rules of the spec (the model's choice). -/
def Obligations.StoresLeave : Prop := ∀ (s : State) (u i : Nat) (b : Block) (w : Wave) (k p l pa pol : Nat) (va : Addr)
    (bs : List Byte) (pos : Addr) (rest : List (Nat × Effect)),
  s.block? u = some b → b.wave? i = some w → w.sq = (k, .store p [(l, va, bs)] none pos) :: rest → s.aged b.core k = true →
  w.atoms = [] → s.translate b.core b.ctx { w := true } va = .ok { space := .here, pa := pa, policy := pol } →
  ∃ (t : State) (b' : Block) (w' : Wave), exec (.storeLeaveCore u i) s = .next (t.settle u) ∧ t.block? u = some b' ∧ b'.wave? i = some w' ∧ w' = { w with sq := rest } ∧
    b'.sideEffect = true ∧ (∀ j, j ≠ i → t.wave? u j = b.wave? j) ∧
    (∀ x, x ≠ u → t.block? x = s.block? x) ∧
    (pol = 2 → s.groupFenced pa = false → t.hostMem = s.hostMem ∧ getRun 0 t.mem pa bs.length = bs ∧
      ∀ a, a < pa ∨ pa + bs.length ≤ a → t.memByte a = s.memByte a) ∧
    (pol ≠ 2 → ∀ ln, s.l1Line b.core b.ctx (va.toNat / 128) = some ln → t.mem = s.mem ∧ t.hostMem = s.hostMem ∧ t.dram = s.dram ∧
      ∃ ln', t.l1Line b.core b.ctx (va.toNat / 128) = some ln' ∧
        ∀ o, o < 128 → getAt 0 ln'.data o = (if va.toNat % 128 ≤ o ∧ o < va.toNat % 128 + bs.length
          then bs.getD (o - va.toNat % 128) 0 else getAt 0 ln.data o) ∧
          ln'.dirty.getLsbD o = (ln.dirty.getLsbD o || decide (va.toNat % 128 ≤ o ∧ o < va.toNat % 128 + bs.length)) ∧
          ln'.bad.getLsbD o = (ln.bad.getLsbD o && !decide (va.toNat % 128 ≤ o ∧ o < va.toNat % 128 + bs.length)))

namespace Sys2Proof.Claims

open Sys2Proof Sys2Proof.Machine

/-! ### Control words -/

/-- The address after a clause: its header and its N words (R30). -/
def afterClause (c : Cur) : Addr := c.iss.pc + BitVec.ofNat 64 (4 * (c.iss.header.toNat % 16 + 1))

/-- A branch target: the header's address and four times the offset (R37, R179). -/
def branchTo (c : Cur) (off : BitVec 18) : Addr := c.iss.pc + BitVec.ofInt 64 (4 * off.toInt)

/-- A part that goes on at an address. -/
def goesTo (p : Part) (pc : Addr) : Part := { p with pc := pc, word := 0, wait := .none }

/-- The registers, lists and other parts of the issuing wave are as they were. -/
structure CtlKept (c : Cur) (w : Wave) : Prop where
  regs : RegsKept c.wv w
  others : ∀ k, k ≠ c.iss.part → w.part? k = c.wv.part? k
  loads : w.loads = c.wv.loads
  sq : w.sq = c.wv.sq
  atoms : w.atoms = c.wv.atoms
  acks : w.acks = c.wv.acks
  rays : w.rays = c.wv.rays
  colls : w.colls = c.wv.colls
  exitedLanes : w.exitedLanes = c.wv.exitedLanes

/-- A control word under `cond` ends its clause and its part becomes `p`; its wave runs on, and nothing else
changes (R177). -/
def CtlWord (i : Instr) (form : Cur → Form) (cond : Cur → Prop) (p : Cur → Part) : Prop :=
  ∀ s c, Issues s c form → cond c → ∃ t w, exec i s = .next t ∧ OnlyWave s t c.blk c.iss.wave w ∧ CtlKept c w ∧
    w.part? c.iss.part = some (p c) ∧ w.run = .running ∧ w.step = c.wv.step

end Sys2Proof.Claims

/-- R156, R175, R179, R180, R183, R184, R186: the words that move their part. A CALL pushes the address after its clause,
an RCV the part's ρ with KIND 1 in bit 63; RET pops; BRX clears the two low bits of its target.
R156, R183, R184: a push on a full stack, a RET without a return entry, and a BRX to an address that is not
canonical trap. That the record's mask of the last of these is the live lanes of the split rests on log 35, which is no rule
of the spec (the model's choice). -/
def Obligations.BranchWords : Prop :=
  ((∀ p g off, CtlWord (.bra p g off) (formCtl 0x7C true true { noRegs with p := [p.toNat] }) (fun _ => True)
    (fun c => goesTo c.pt (if (c.wv.getP p.toNat).getLsbD c.lead != g then branchTo c off else afterClause c))) ∧
  (∀ p g off, CtlWord (.call p g off) (formCtl 0x7C true true { noRegs with p := [p.toNat] })
    (fun c => (c.wv.getP p.toNat).getLsbD c.lead = g) (fun c => goesTo c.pt (afterClause c))) ∧
  (∀ p g off, CtlWord (.call p g off) (formCtl 0x7C true true { noRegs with p := [p.toNat] })
    (fun c => (c.wv.getP p.toNat).getLsbD c.lead ≠ g ∧ c.pt.stack.length < 16)
    (fun c => { goesTo c.pt (branchTo c off) with
      stack := ((afterClause c).extractLsb' 0 55).zeroExtend 64 :: c.pt.stack })) ∧
  (∀ off, CtlWord (.rcv off) (formCtl 0x7C true true noRegs) (fun c => c.pt.stack.length < 16)
    (fun c => { goesTo c.pt (afterClause c) with
      stack := ((c.pt.rho.extractLsb' 0 55).zeroExtend 64 ||| 0x8000000000000000#64) :: c.pt.stack, rho := branchTo c off })) ∧
  CtlWord .nop (formCtl 0x7D true true noRegs) (fun _ => True) (fun c => goesTo c.pt (afterClause c)) ∧
  (∀ e r, CtlWord .ret (formCtl 0x7D true true noRegs) (fun c => c.pt.stack = e :: r ∧ e.getLsbD 63 = false)
    (fun c => { goesTo c.pt ((e.extractLsb' 0 55).signExtend 64) with stack := r })) ∧
  (∀ n call, CtlWord (.brx n call) (formBrx n)
    (fun c => canonical (c.wv.getS64 (2 * n.toNat)) = true ∧ (call = true → c.pt.stack.length < 16))
    (fun c => { goesTo c.pt (c.wv.getS64 (2 * n.toNat) &&& ~~~3#64) with
      stack := if call then ((afterClause c).extractLsb' 0 55).zeroExtend 64 :: c.pt.stack else c.pt.stack })) ∧
  CtlWord .yield (formCtl 0x7D true true noRegs) (fun _ => True) (fun c => goesTo c.pt (afterClause c)) ∧
  (∀ s c, Issues s c (formCtl 0x7D true true noRegs) → c.iss.slot1 = true ∨ c.iss.mix = true →
    ∃ t w, exec .yield s = .next t ∧ t.wave? c.blk.uid c.iss.wave = some w ∧ w.yielded.getLsbD 1 = true)) ∧
  (∀ (s : State) (c : Cur),
  (∀ p g off, Issues s c (formCtl 0x7C true true { noRegs with p := [p.toNat] }) →
    (c.wv.getP p.toNat).getLsbD c.lead ≠ g → 16 ≤ c.pt.stack.length →
    exec (.call p g off) s = .next (takeTrap s c { cause := 1, opcode := 0x7C })) ∧
  (∀ off, Issues s c (formCtl 0x7C true true noRegs) → 16 ≤ c.pt.stack.length →
    exec (.rcv off) s = .next (takeTrap s c { cause := 1, opcode := 0x7C })) ∧
  (Issues s c (formCtl 0x7D true true noRegs) → (∀ e ∈ c.pt.stack.head?, e.getLsbD 63 = true) →
    exec .ret s = .next (takeTrap s c { cause := 1, opcode := 0x7D })) ∧
  (∀ n, Issues s c (formBrx n) → 16 ≤ c.pt.stack.length →
    exec (.brx n true) s = .next (takeTrap s c { cause := 1, opcode := 0x7D })) ∧
  (∀ n, Issues s c (formBrx n) → canonical (c.wv.getS64 (2 * n.toNat)) = false →
    exec (.brx n false) s = .next (takeTrap s c
      { cause := 6, reason := 11, opcode := 0x7D, addr := c.wv.getS64 (2 * n.toNat), mask := c.liveMask })))

namespace Sys2Proof.Claims

open Sys2Proof Sys2Proof.Machine

/-- Part `e`, which is `r`, is one that lanes of a divergent BRC join (R182): the branch or the next clause leads to the
split's own reconvergence address, whose header has RECONV set, and the part waits there with the same stack. -/
structure Joins (s : State) (c : Cur) (off : BitVec 18) (e : Nat) (r : Part) : Prop where
  bound : c.pt.rho ≠ 0
  leads : branchTo c off = c.pt.rho ∨ afterClause c = c.pt.rho
  reconv : ∃ h, s.fetch32 c.iss.core c.blk.ctx c.pt.rho = .ok h ∧ h.getLsbD 17 = true
  other : e ≠ c.iss.part
  part : c.wv.part? e = some r
  waits : r.wait = .reconv
  rho : r.rho = c.pt.rho
  stack : r.stack = c.pt.stack

end Sys2Proof.Claims

/-- R156, R181, R182: a uniform BRC moves its part. Of a divergent one, the lanes that go to the split's reconvergence
address join the first part that waits there with the same stack, and the others go on in their split; where no part can be
joined, the lanes that take the branch get a free entry, or, with none free, the others are left on the deferred path, or,
with that in use too, the split waits at the word for room. That the taken lanes are the ones that join where both ways lead
to the reconvergence address is the model's choice (log 50), which is no rule of the spec. -/
def Obligations.BranchesDiverge : Prop := ∀ (p : BitVec 4) (g : Bool) (off : BitVec 18),
  let form := formCtl 0x7C true true { noRegs with p := [p.toNat] }
  let taken (c : Cur) : Mask := c.liveMask &&& (if g then ~~~(c.wv.getP p.toNat) else c.wv.getP p.toNat)
  CtlWord (.brc p g off) form (fun c => taken c = 0) (fun c => goesTo c.pt (afterClause c)) ∧
  CtlWord (.brc p g off) form (fun c => taken c ≠ 0 ∧ c.liveMask &&& ~~~(taken c) = 0) (fun c => goesTo c.pt (branchTo c off)) ∧
  (∀ s c e r, Issues s c form → taken c ≠ 0 → c.liveMask &&& ~~~(taken c) ≠ 0 → Joins s c off e r →
    (∀ j x, j < e → ¬ Joins s c off j x) →
    let toTarget : Bool := branchTo c off == c.pt.rho
    let joining := if toTarget then taken c else c.liveMask &&& ~~~(taken c)
    ∃ t w, exec (.brc p g off) s = .next t ∧ OnlyWave s t c.blk c.iss.wave w ∧ RegsKept c.wv w ∧
      w.part? e = some { r with mask := r.mask ||| joining } ∧
      w.part? c.iss.part = some { goesTo c.pt (if toTarget then afterClause c else branchTo c off) with
        mask := c.liveMask &&& ~~~joining } ∧
      ∀ k, k ≠ e → k ≠ c.iss.part → w.part? k = c.wv.part? k) ∧
  (∀ s c, Issues s c form → taken c ≠ 0 → c.liveMask &&& ~~~(taken c) ≠ 0 → (∀ e r, ¬ Joins s c off e r) →
    (c.wv.freeEntry = none → c.wv.deferred ≠ none → exec (.brc p g off) s = .next ((endClause s c (c.wv.setPart c.iss.part
      (some { c.pt with pc := c.iss.pc, word := c.startWord, wait := .room }))).settle c.blk.uid)) ∧
    (∀ e, c.wv.freeEntry = some e → ∃ t w, exec (.brc p g off) s = .next t ∧ OnlyWave s t c.blk c.iss.wave w ∧
      RegsKept c.wv w ∧ w.part? e = some { goesTo c.pt (branchTo c off) with mask := taken c } ∧
      w.part? c.iss.part = some { goesTo c.pt (afterClause c) with mask := c.pt.mask &&& ~~~(taken c) } ∧
      ∀ k, k ≠ e → k ≠ c.iss.part → w.part? k = c.wv.part? k) ∧
    (c.wv.freeEntry = none → c.wv.deferred = none → ∃ t w, exec (.brc p g off) s = .next t ∧
      OnlyWave s t c.blk c.iss.wave w ∧ RegsKept c.wv w ∧
      w.part? c.iss.part = some { goesTo c.pt (branchTo c off) with mask := taken c } ∧
      w.deferred = some { goesTo c.pt (afterClause c) with mask := c.pt.mask &&& ~~~(taken c) } ∧
      ∀ k, k < 4 → k ≠ c.iss.part → w.part? k = c.wv.part? k))

/-- R188, R189, R192, R187, R344, R345: SLEEP, STEP, TRAP, BKPT and EXIT. A STEP whose launch is being cut holds its wave;
a TRAP waits with its part at the word until it is parked, and goes on, then, past it (`Wave.pastPart`, as the park does);
BKPT halts its block with its code, at the next clause; EXIT ends its lanes.
Rests on the model's choices of log 1 (a SLEEP counts its core's own cycles), which are no rules of the spec (the model's
choice). -/
def Obligations.WaveStateWords : Prop :=
  (∀ n s c, Issues s c (formCtl 0x7D true true noRegs) → ∃ t w, exec (.sleep n) s = .next t ∧
    OnlyWave s t c.blk c.iss.wave w ∧ CtlKept c w ∧ w.part? c.iss.part = some (goesTo c.pt (afterClause c)) ∧
    w.run = if n = 0 then .running else .sleeping (s.coreCycles c.iss.core + n.toNat)) ∧
  (∀ n s c, Issues s c (formStep n) → ∃ t w, exec (.step n) s = .next t ∧
    OnlyWave s t c.blk c.iss.wave w ∧ CtlKept c w ∧ w.part? c.iss.part = some (goesTo c.pt (afterClause c)) ∧
    w.step = n.zeroExtend 32 ∧ ((∀ l, s.launch? c.blk.launch = some l → l.cut = none) → w.run = .running) ∧
    (∀ l, s.launch? c.blk.launch = some l → l.cut ≠ none → w.run = .held s.now)) ∧
  (∀ code s c x, Issues s c (formCtl 0x7D true true noRegs) → s.ctx? c.blk.ctx = some x → x.frames ≠ 0 →
    ∃ t w, exec (.trap code) s = .next t ∧ OnlyWave s t c.blk c.iss.wave w ∧ CtlKept c w ∧
      w.run = .trapping c.iss.part code c.liveMask c.wv.dead s.now false ∧
      w.part? c.iss.part = some { c.pt with pc := c.iss.pc, word := c.startWord, wait := .none } ∧
      (c.startWord = c.iss.header.toNat % 16 →
        (w.pastPart c.iss.part).part? c.iss.part = some (goesTo c.pt (afterClause c)))) ∧
  (∀ code s c x, Issues s c (formCtl 0x7D true true noRegs) → s.ctx? c.blk.ctx = some x → x.frames = 0 →
    exec (.trap code) s = .next (takeTrap s c { cause := 6, reason := 12, opcode := 0x7D })) ∧
  (∀ code s c, Issues s c (formCtl 0x7D true true noRegs) → c.blk.halt = none → ∃ t b w h, exec (.bkpt code) s = .next t ∧
    OutsideKept s t ∧ t.block? c.blk.uid = some b ∧ b.halt = some h ∧ h.cause = 12 ∧ h.code = code ∧ h.wave = c.iss.wave ∧
    h.pos = position c.iss.pc c.startWord ∧ h.signalled = false ∧ b.wave? c.iss.wave = some w ∧ RegsKept c.wv w ∧
    w.part? c.iss.part = some (goesTo c.pt (afterClause c))) ∧
  (∀ s c, Issues s c (formCtl 0x7D true true noRegs) → ∃ w, exec .exit s = .next ((endClause s c w).settle c.blk.uid) ∧
    w.exitedLanes = c.wv.exitedLanes ||| c.liveMask ∧ RegsKept c.wv w ∧ w.part? c.iss.part = none ∧
    ((∀ k, k ≠ c.iss.part → c.wv.part? k = none) → w.run = .exited))

/-- R160, R177, R193, R195, R196, R198: the words at which a part waits: it stays at the word with what it waits for,
then everything the block's waiting parts allow takes place. R194, R196, R198, R213: a BAR, an MBAR that arrives and a CHSEND
hold while a store or atomic of their wave is queued, or an acquire of it outstanding. R174: a CHSEND on a closed channel
traps. R196: so does an MBAR of mode 3.
That an MBAR holds its part, not its wave, rests on log 26, and the time from which a channel wait counts on log 36, which
are no rules of the spec (the model's choice). -/
def Obligations.WaitingWords : Prop := ∀ (s : State) (c : Cur),
  let ctl := formCtl 0x7D true true noRegs
  let waits (x : PartWait) : State := (endClause s c (c.wv.setPart c.iss.part
    (some { c.pt with pc := c.iss.pc, word := c.startWord, wait := x }))).settle c.blk.uid
  (∀ b ao, Issues s c ctl → c.wv.storesQueued = false → c.wv.acqPending = false →
    exec (.bar b ao) s = .next (waits (.bar b.toNat ao))) ∧
  (∀ b ao m ch d, c.wv.storesQueued = true ∨ c.wv.acqPending = true →
    (Issues s c ctl → exec (.bar b ao) s = .next (holdSlot s) ∧ (m = 1 ∨ m = 2 → exec (.mbar b m) s = .next (holdSlot s))) ∧
    (Issues s c (formChsend d) → exec (.chsend ch d) s = .next (holdSlot s))) ∧
  (∀ ch d, Issues s c (formChsend d) → c.wv.storesQueued = false → c.wv.acqPending = false →
    (c.blk.chan ch.toNat).closed = true → exec (.chsend ch d) s = .next (takeTrap s c { cause := 1, opcode := 0x7D })) ∧
  (∀ b, s.cur? = some c → c.wv.run = .running → exec (.mbar b 3) s = .next (takeTrap s c { cause := 1, opcode := 0x7D })) ∧
  (∀ x l, Issues s c ctl → s.launch? c.blk.launch = some l → c.blk.decl.cls = 0 → x.toNat < l.sets.length →
    setMember l x.toNat c.blk.index = true → exec (.gsync x) s = .next (waits (.gsync x.toNat))) ∧
  (∀ x l, Issues s c ctl → s.launch? c.blk.launch = some l →
    c.blk.decl.cls ≠ 0 ∨ l.sets.length ≤ x.toNat ∨ setMember l x.toNat c.blk.index = false →
    exec (.gsync x) s = .next (takeTrap s c { cause := 7, opcode := 0x7D })) ∧
  (∀ b, Issues s c ctl → exec (.mbar b 0) s = .next (waits (.mbar b.toNat (c.blk.mbar b.toNat).phase))) ∧
  (∀ b m, Issues s c ctl → m = 1 ∨ m = 2 → c.wv.storesQueued = false → c.wv.acqPending = false →
    exec (.mbar b m) s = .next (((endClause s c (c.wv.setPart c.iss.part
      (some { c.pt with pc := c.iss.pc, word := c.startWord, wait := .none }))).updBlock c.blk.uid fun x =>
        x.waveArrive b.toNat c.iss.wave c.iss.part (m == 2)).settle c.blk.uid)) ∧
  (∀ ch d, Issues s c (formChsend d) → c.wv.storesQueued = false → c.wv.acqPending = false →
    (c.blk.chan ch.toNat).closed = false → exec (.chsend ch d) s = .next (waits (.chsend ch.toNat d s.now))) ∧
  (∀ ch d p, Issues s c (formChrecv d p) → exec (.chrecv ch d p) s = .next (waits (.chrecv ch.toNat d p s.now))) ∧
  (∀ ch, Issues s c formChclose → exec (.chclose ch) s = .next ((endClause (s.updBlock c.blk.uid fun x =>
      x.setChan ch.toNat { x.chan ch.toNat with closed := true }) c (c.wv.setPart c.iss.part
      (some (goesTo c.pt (afterClause c))))).settle c.blk.uid))

/-- R193, R196: a wave all of whose parts wait at a barrier arrives once, its own stores and atomics done (R194, R213); the
barrier completes, and its phase goes on, only when every wave that has not exited has arrived and is back in its slot
(R172). R201: a parked wave is left as its save area has it. -/
def Obligations.Barriers : Prop := ∀ (b : Block) (n : Nat) (w : Wave),
  ((w.parts = [] ∨ ∃ e ∈ w.parts, ∀ ao, e.2.wait ≠ .bar n ao) → b.arriveBar n w = b) ∧
  (w.idx ∈ (b.bar n).arrived → b.arriveBar n w = b) ∧ (w.storesQueued = true → b.arriveBar n w = b) ∧
  (w.parts ≠ [] → (∀ e ∈ w.parts, ∃ ao, e.2.wait = .bar n ao) → w.idx ∉ (b.bar n).arrived → w.storesQueued = false →
    ((b.arriveBar n w).bar n).arrived = w.idx :: (b.bar n).arrived ∧ ((b.arriveBar n w).bar n).phase = (b.bar n).phase) ∧
  ((∃ v ∈ b.waves, v.live = true ∧ (v.idx ∉ (b.bar n).arrived ∨ v.present = false)) → b.completeBar n = b) ∧
  ((b.bar n).arrived ≠ [] → (∀ v ∈ b.waves, v.live = true → v.idx ∈ (b.bar n).arrived ∧ v.present = true) →
    ((b.completeBar n).bar n).phase = (b.bar n).phase + 1 ∧ ((b.completeBar n).bar n).arrived = [] ∧
    ∀ m, m ≠ n → (b.completeBar n).bar m = b.bar m) ∧
  (∀ now, (b.mbar n).waveSide = true → (b.mbar n).streamSide = true →
    (b.completeMbar n now).mbar n = { phase := (b.mbar n).phase + 1, waveSide := false, streamSide := false }) ∧
  (∀ now, (b.mbar n).waveSide = false → b.liveWaves ≠ [] → (b.completeMbar n now).mbar n = b.mbar n) ∧
  (∀ now w, w ∈ b.waves → w.present = false → w ∈ (b.completeMbar n now).waves) ∧
  (∀ now m, m ≠ n → (b.completeMbar n now).mbar m = b.mbar m)

/-- R51, R169, R197: WAITV reads at once. Of a word in block memory: where its compare holds, the part goes on; else the
wave waits and reads again 4,096 cycles on. A wait that its class forbids traps.
Rests on the model's choices of log 36, which are no rules of the spec (the model's choice). -/
def Obligations.WaitvReads : Prop := ∀ (n : BitVec 5) (k w : BitVec 3) (v : BitVec 8) (s : State) (c : Cur) (a : Addr) (m : Word),
  Issues s c (formWaitv n k w v) → a = c.wv.getS64 (2 * n.toNat) →
  (waitForbidden c.blk.decl.cls w.toNat = true →
    exec (.waitv n k w v) s = .next (takeTrap s c { cause := 7, opcode := 0x7D })) ∧
  (waitForbidden c.blk.decl.cls w.toNat = false → c.wv.acqPending = false → inAperture a = true →
    addrFault s c.iss.core c.blk.ctx c.blk.decl.bmem 0x7D { r := true } 4 c.liveMask (fun _ => a) = none →
    m = BitVec.ofNat 32 (leNat (c.blk.bmemRun (apOffset a) 4)) →
    ∃ t x, exec (.waitv n k w v) s = .next t ∧ InWave s t c.blk c.iss.wave x ∧ CtlKept c x ∧ t.mem = s.mem ∧
      (waitCmp k.toNat m (c.wv.getS v.toNat) = true →
        x.run = .running ∧ x.part? c.iss.part = some (goesTo c.pt (afterClause c))) ∧
      (waitCmp k.toNat m (c.wv.getS v.toNat) = false → ∃ y, x.run = .waitv y ∧ y.part = c.iss.part ∧ y.addr = a ∧
        y.cmp = k ∧ y.val = c.wv.getS v.toNat ∧ y.pos = position c.iss.pc c.startWord ∧ y.next = s.coreCycles c.iss.core + 4096 ∧ y.line = none ∧
        y.asked = none)) ∧
  (waitForbidden c.blk.decl.cls w.toNat = decide ((c.blk.decl.cls ≤ 1 ∧ w = 2) ∨ (2 ≤ c.blk.decl.cls ∧ (w = 0 ∨ w = 1))))

/-- R315-R317: CSRR writes its scalar register with the CSR's value and goes on; reading CYCLE latches its high half.
CSRW writes FP.FLAGS and WAVE.STARVE and ignores every other register.
What CYCLE counts, and from where, rests on logs 1 and 18, which are no rules of the spec (the model's choice). -/
def Obligations.ControlRegisters : Prop :=
  (∀ n d s c, Issues s c (formCsrr n d) → ∃ t w x, exec (.csrr n d) s = .next t ∧ OnlyWave s t c.blk c.iss.wave w ∧
    (∀ k, w.getS k = if k = d.toNat then x else c.wv.getS k) ∧ w.v = c.wv.v ∧ w.p = c.wv.p ∧ w.t = c.wv.t ∧
    w.flags = c.wv.flags ∧ w.dead = c.wv.dead ∧ w.starve = c.wv.starve ∧ w.lastSeq = c.wv.lastSeq ∧
    w.cycleHi = (if n = 8 then BitVec.ofNat 32 (s.cycleOf c.iss.core / 2 ^ 32) else c.wv.cycleHi) ∧
    w.part? c.iss.part = some (goesTo c.pt (afterClause c)) ∧
    (n = 0 → x = c.wv.flags.zeroExtend 32) ∧ (n = 1 → x = c.wv.dead) ∧ (n = 2 → x = c.wv.starve) ∧
    (n = 4 → x = c.wv.lastSeq) ∧ (n = 8 → x = BitVec.ofNat 32 (s.cycleOf c.iss.core)) ∧ (n = 9 → x = c.wv.cycleHi) ∧
    (∀ l, s.launch? c.blk.launch = some l → (n = 5 → x = BitVec.ofNat 32 l.live) ∧
      (n = 6 → x.toNat = c.blk.decl.prio % 8 * 32 + c.blk.decl.cls % 4 * 8 + c.blk.decl.idem.toNat * 4 +
        c.blk.decl.filler.toNat * 2 + (pktRsv l.packet).toNat) ∧
      (n = 7 → x = if pktRsv l.packet then pktRstep l.packet else 0)) ∧
    (∀ m, c.blk.stream = some m → ∀ j, j < 8 →
      (n.toNat = 16 + 2 * j → x = (m.x.getD j 0).extractLsb' 0 32) ∧ (n.toNat = 17 + 2 * j → x = (m.x.getD j 0).extractLsb' 32 32)) ∧
    (n = 3 → x.toNat / 2 ^ 16 % 2 ^ 10 = c.iss.core % 1024 ∧ x.toNat / 2 ^ 13 % 2 ^ 3 = c.wv.sub % 8 ∧
      x.toNat / 2 ^ 9 % 2 ^ 4 = c.wv.slot % 16 ∧ x.toNat % 32 = c.wv.idx % 32)) ∧
  (∀ n r s c, Issues s c (formCsrw n r) → ∃ t w, exec (.csrw n r) s = .next t ∧ OnlyWave s t c.blk c.iss.wave w ∧
    w.v = c.wv.v ∧ w.s = c.wv.s ∧ w.p = c.wv.p ∧ w.t = c.wv.t ∧ w.dead = c.wv.dead ∧ w.lastSeq = c.wv.lastSeq ∧
    w.cycleHi = c.wv.cycleHi ∧ w.part? c.iss.part = some (goesTo c.pt (afterClause c)) ∧
    w.flags = (if n = 0 then (c.wv.getS r.toNat).extractLsb' 0 6 else c.wv.flags) ∧
    (n ≠ 2 → w.starve = c.wv.starve) ∧ (n = 2 → w.starve = BitVec.ofNat 32 (max 256 (min 65536 (c.wv.getS r.toNat).toNat))))

/-- R41, R43, R46: an extension word is kept, with its fields, for the word it extends, whose position it becomes; before a
word that accepts none it traps. R33, R35: bits that are no instruction trap with illegal-instruction. That such a trap
names the extension word's own opcode rests on log 40, which is no rule of the spec (the model's choice). -/
def Obligations.ExtensionWords : Prop := ∀ (s : State) (c : Cur), s.cur? = some c → c.wv.run = .running →
  (∀ a ka b kb d kd o, extended s c 2 (c.iss.k + 1) = some o → noExtension o = false →
    ∃ t x, exec (.xp a ka b kb d kd) s = .next t ∧ OutsideKept s t ∧
      t.issues = s.issues.tail ++ [{ c.iss with k := c.iss.k + 1, xp := some x, ext := some (c.iss.ext.getD c.iss.k) }] ∧
      xpField (some x) 0 = (a.toNat, ka.toNat) ∧ xpField (some x) 1 = (b.toNat, kb.toNat) ∧ xpField (some x) 2 = (d.toNat, kd.toNat) ∧
      ∃ w, t.wave? c.blk.uid c.iss.wave = some w ∧ RegsKept c.wv w ∧ w.splits = c.wv.splits) ∧
  (∀ p g cc r sat nine im o, extended s c 2 (c.iss.k + 1) = some o → noExtension o = false →
    ∃ t x, exec (.xc p g cc r sat nine im) s = .next t ∧ OutsideKept s t ∧
      t.issues = s.issues.tail ++ [{ c.iss with k := c.iss.k + 1, xc := some x, ext := some (c.iss.ext.getD c.iss.k) }] ∧
      xcPred x = p.toNat ∧ xcNeg x = g ∧ xcC x = cc.toNat ∧ xcRnd x = r.toNat ∧ xcSat x = sat ∧ xcNine x = nine ∧ xcImm x = im ∧
      ∃ w, t.wave? c.blk.uid c.iss.wave = some w ∧ RegsKept c.wv w ∧ w.splits = c.wv.splits) ∧
  (∀ a ka b kb d kd o, extended s c 2 (c.iss.k + 1) = some o → noExtension o = true →
    exec (.xp a ka b kb d kd) s = .next (takeTrap s c { cause := 1, opcode := 0x7E })) ∧
  (∀ p g cc r sat nine im o, extended s c 2 (c.iss.k + 1) = some o → noExtension o = true →
    exec (.xc p g cc r sat nine im) s = .next (takeTrap s c { cause := 1, opcode := 0x7F })) ∧
  (∀ w, exec (.undefinedOpcode w) s = .next (takeTrap s c { cause := 1, opcode := w.toNat / 2 ^ 25 }))

/-- R330, R334, R337: a trap halts its block and takes no other effect: every register of its wave stays, the part's
position is the word or its first extension, and the clause leaves its slot. A block that is halted already keeps its
first halt, and the wave its first cause; but where the halt began in this very cycle by a wave of a higher number, or by
the stream, the record names this fault and the other wave is the one marked (R331). The record names the word, or the clause of a TRAP that can have no frame
(R332). -/
def Obligations.TrapsHaltTheBlock : Prop := ∀ (s : State) (c : Cur) (x : TrapInfo), s.cur? = some c →
  let first (h : Halt) : Prop := h.born = s.now ∧ c.iss.wave < h.wave ∧ h.wave ≤ 0xFE
  ∃ b w, OutsideKept s (takeTrap s c x) ∧ (takeTrap s c x).issues = s.issues.tail ∧
    (takeTrap s c x).block? c.blk.uid = some b ∧ b.wave? c.iss.wave = some w ∧ RegsKept c.wv w ∧
    w.part? c.iss.part = some { c.pt with pc := c.iss.pc, word := c.iss.ext.getD c.iss.k } ∧
    b = { c.blk with waves := b.waves, halt := b.halt } ∧ (∀ j, j ≠ c.iss.wave → (∀ h, c.blk.halt = some h → first h → j ≠ h.wave) → b.wave? j = c.blk.wave? j) ∧
    (∀ u, u ≠ c.blk.uid → (takeTrap s c x).block? u = s.block? u) ∧
    (c.blk.halt = none ∨ (∃ h, c.blk.halt = some h ∧ first h) → ∃ h, b.halt = some h ∧ h.cause = x.cause ∧ h.reason = x.reason ∧ h.addr = x.addr ∧ h.mask = x.mask ∧
      h.opcode = x.opcode ∧ h.wave = c.iss.wave ∧ 
      h.pos = position c.iss.pc (if x.reason = 12 then 0 else c.iss.ext.getD c.iss.k) ∧ h.signalled = false ∧ h.born = s.now) ∧
    (∀ h, c.blk.halt = some h → (first h → ∀ v, c.blk.wave? h.wave = some v →
        b.wave? h.wave = some { v with faulted := some (v.faulted.getD h.cause) }) ∧
      (¬ first h → b.halt = c.blk.halt ∧ w.faulted = some (c.wv.faulted.getD x.cause)))

/-- R35, R330: a word whose fields or extensions are not legal traps with illegal-instruction, one whose operands are not
with illegal-operand, in that order; nothing of it takes effect.
R13: a word that names a pending register waits: it stays in its slot and nothing of its block changes.
That a ninth bit for an immediate or a function code is an illegal field, and for a V, P or T operand an illegal operand, rests
on log 30, which decides between R44 and R90 (the model's choice). -/
def Obligations.IllegalWordsTrap : Prop :=
  (∀ (s : State) (c : Cur), s.cur? = some c → c.wv.run = .running →
  let traps (i : Instr) (form : Cur → Form) : Prop :=
    (((form c).fieldsOk = false ∨ xpOk (form c).takesXp (form c).xc c.iss.xp = false ∨
        (∃ x, c.iss.xc = some x ∧ xcOk (form c).xc x = false) ∨ (c.iss.xc = none ∧ (form c).xc.needXc = true)) →
      exec i s = .next (takeTrap s c { cause := 1, opcode := (form c).opcode })) ∧
    ((form c).fault c.iss ≠ some 1 →
      ((form c).operandsOk = false ∨ ∃ x, c.iss.xc = some x ∧ nineOperand (form c).xc x = true) →
      exec i s = .next (takeTrap s c { cause := 3, opcode := (form c).opcode }))
  (∀ n d a b, traps (.iadd n d a b) (formV3 0x00 xcIntSat false 4 n d a b)) ∧
  (∀ n d a f, traps (.iun n d a f) (formU 0x12 xcUn (decide (f.toNat ≤ 10)) 4 n d a)) ∧
  (∀ n d a b, traps (.ffma n d a b) (formV3 0x23 xcFpC true 4 n d a b)) ∧
  (∀ d a b, traps (.sadd d a b) (formS3 0x48 1 d a b)) ∧
  (∀ d a b ty, traps (.tmma d a b ty) (formFrag 0x5A (decide (ty.toNat ≤ 4)) true 40 d a b false)) ∧
  (∀ d v n i z, traps (.ldw d v n i z) (formM 0x62 4 false d v n z)) ∧
  (∀ fn d v n, traps (.atom fn d v n) (formAtom 0x6C true fn d v n)) ∧
  (∀ b k, traps (.copy b k) (formCopy 0x70 b none)) ∧
  (∀ p g off, traps (.bra p g off) (formCtl 0x7C true true { noRegs with p := [p.toNat] })) ∧
  (∀ n d, traps (.csrr n d) (formCsrr n d))) ∧
  (∀ (s : State) (c : Cur), s.cur? = some c → c.wv.run = .running →
  let waits (i : Instr) (form : Cur → Form) : Prop := (form c).fault c.iss = none → (form c).waits c.wv = true →
    ∃ t, exec i s = .next t ∧ OutsideKept s t ∧ t.blocks = s.blocks ∧ t.cores = s.cores ∧ t.issues = s.issues.tail ++ [c.iss]
  (∀ n d a b, waits (.iadd n d a b) (formV3 0x00 xcIntSat false 4 n d a b)) ∧
  (∀ d a b, waits (.sadd d a b) (formS3 0x48 1 d a b)) ∧
  (∀ d v n i z, waits (.stw d v n i z) (formM 0x67 4 true d v n z)) ∧
  (∀ p g off, waits (.bra p g off) (formCtl 0x7C true true { noRegs with p := [p.toNat] })))


namespace Sys2Proof.Claims

open Sys2Proof Sys2Proof.Machine

/-- A row of `len` bytes at `a` lies where its kind allows (R245): a global run in canonical addresses outside the
block-memory aperture, another within the block's allocation; a send queue takes any. -/
def ExtentOk (m : Decl) (kind len a : Nat) : Prop :=
  (kind = 0 → ∀ x, x = BitVec.ofNat 64 a ∨ x = BitVec.ofNat 64 (a + len - 1) → canonical x = true ∧ inAperture x = false) ∧
  (kind = 1 → a + len ≤ m.bmem) ∧ (kind = 2 → a + len ≤ 8192 * m.btiles) ∧ (kind = 3 → a + len ≤ 16384 * m.awin)

/-- A completion-record address of R390: not zero, canonical, bits [4:1] zero. -/
def crecLegal (d : List Word) : Prop :=
  let a : Addr := (d.getD 7 0 ++ d.getD 6 0) &&& ~~~31#64
  a ≠ 0 ∧ canonical a = true ∧ (d.getD 6 0).toNat / 2 % 16 = 0

end Sys2Proof.Claims

/-- R244-R247, R251: a copy word whose wave is its block's producer, with room in the copy queue and on the token and a
legal descriptor, puts one copy at the end of the core's queue, outstanding on its token; the index register and the
eight descriptor registers are pending for 4 cycles. Another wave's copy word, and a bad descriptor, trap; with no room it
holds. R245: what a legal descriptor is. R251: KSTAT reads a token; of a complete token after a COLL or CSEND the read is an
acquire at fabric scope (R396; log 51).
That no XC may stand before these words rests on log 24, that a send-queue handle above 15 bits fails the checks on log 35,
and that a token's observation acts as an acquire on log 51, which are no rules of the spec (the model's choice). -/
def Obligations.CopyWords : Prop :=
  let copies (i : Instr) (form : Cur → Form) (op : Nat) (b : BitVec 9) (k : BitVec 3) (lanes : Bool)
      (rows : Cur → List (Nat × Nat)) (index : List Nat) : Prop := ∀ s c, Issues s c form →
    (c.iss.wave ≠ c.blk.decl.producer → exec i s = .next (takeTrap s c { cause := 9, opcode := op })) ∧
    (c.iss.wave = c.blk.decl.producer → 64 ≤ (s.core c.iss.core).copies.length ∨ 64 ≤ (c.blk.token k.toNat).outst.length ∨
      c.wv.acqPending = true → exec i s = .next (holdSlot s)) ∧
    (c.iss.wave = c.blk.decl.producer → (s.core c.iss.core).copies.length < 64 → (c.blk.token k.toNat).outst.length < 64 →
      c.wv.acqPending = false → copyOk c.blk.decl (c.copyDesc b.toNat) lanes (rows c) = false →
      exec i s = .next (takeTrap s c { cause := 11, opcode := op })) ∧
    (c.iss.wave = c.blk.decl.producer → (s.core c.iss.core).copies.length < 64 → (c.blk.token k.toNat).outst.length < 64 →
      c.wv.acqPending = false → copyOk c.blk.decl (c.copyDesc b.toNat) lanes (rows c) = true →
      ∃ t x w j, exec i s = .next t ∧ MemKept s t ∧ t.block? c.blk.uid = some x ∧ x.wave? c.iss.wave = some w ∧
        RegsKept c.wv w ∧ Moved s t c w { noRegs with v := index, s := List.range' b.toNat 8 } 4 1 none ∧
        x = { c.blk with tokens := x.tokens, waves := x.waves } ∧
        (t.core c.iss.core).copies = (s.core c.iss.core).copies ++ [j] ∧ j.seq = s.nextUid ∧ j.block = c.blk.uid ∧
        j.wave = c.iss.wave ∧ j.token = k.toNat ∧ j.len = (c.wv.getS (b.toNat + 4)).toNat ∧ j.srcKind = (c.wv.getS (b.toNat + 7)).toNat / 2 ^ 16 % 16 ∧
        j.dstKind = (c.wv.getS (b.toNat + 7)).toNat / 2 ^ 12 % 16 ∧ j.issued = s.now ∧ j.halted = false ∧ j.row = 0 ∧ j.sector = 0 ∧
        j.rows = (rows c).map (fun r => (r.1 % 2 ^ 64, r.2 % 2 ^ 64)) ∧
        (x.token k.toNat).outst = (c.blk.token k.toNat).outst ++ [s.nextUid] ∧
        (∀ q, q ≠ k.toNat → x.token q = c.blk.token q) ∧ (∀ u, u ≠ c.blk.uid → t.block? u = s.block? u))
  (∀ b k, copies (.copy b k) (formCopy 0x70 b none) 0x70 b k false
    (fun c => (List.range ((c.copyDesc b.toNat).rows + 1)).map fun i => (c.copyDesc b.toNat).row i i) []) ∧
  (∀ b k i, copies (.copyg b k i) (formCopy 0x71 b (some i)) 0x71 b k true
    (fun c => (lanesOf c.liveMask).map fun l => (c.copyDesc b.toNat).row (c.vec false i.toNat l).toNat l) [i.toNat]) ∧
  (∀ b k i, copies (.copys b k i) (formCopy 0x72 b (some i)) 0x72 b k true
    (fun c => (lanesOf c.liveMask).map fun l => (c.copyDesc b.toNat).row l (c.vec false i.toNat l).toNat) [i.toNat]) ∧
  (∀ (c : Cur) (b i j : Nat), (c.copyDesc b).src = c.wv.getS (b + 1) ++ c.wv.getS b ∧
    (c.copyDesc b).dst = c.wv.getS (b + 3) ++ c.wv.getS (b + 2) ∧ (c.copyDesc b).len = (c.wv.getS (b + 4)).toNat ∧
    (c.copyDesc b).ctl = c.wv.getS (b + 7) ∧ (c.copyDesc b).rows = (c.wv.getS (b + 7)).toNat / 2 ^ 20 ∧
    (c.copyDesc b).row i j = ((c.copyDesc b).src.toNat + i * (c.wv.getS (b + 5)).toNat,
      (c.copyDesc b).dst.toNat + j * (c.wv.getS (b + 6)).toNat)) ∧
  (∀ (m : Decl) (d : CopyDesc) (lanes : Bool) (rows : List (Nat × Nat)),
    let sk := d.ctl.toNat / 2 ^ 16 % 16
    let dk := d.ctl.toNat / 2 ^ 12 % 16
    copyOk m d lanes rows = true ↔ ((sk = 0 ∨ sk = 1 ∨ sk = 3) ∧ dk ≤ 4 ∧ ¬ (sk = 3 ∧ dk = 3) ∧
      d.src.toNat % 16 = 0 ∧ (dk ≠ 4 → d.dst.toNat % 16 = 0) ∧ d.len % 16 = 0 ∧ 16 ≤ d.len ∧ d.len ≤ 16777216 ∧
      d.sstride % 16 = 0 ∧ d.dstride % 16 = 0 ∧ (sk ≠ 0 → d.src.toNat < 2 ^ 32) ∧ (1 ≤ dk → d.dst.toNat < 2 ^ 32) ∧
      (dk = 4 → d.dst.toNat < 2 ^ 16 ∧ d.dstride = 0) ∧ (lanes = true → d.ctl.toNat / 2 ^ 20 = 0) ∧ d.ctl.toNat % 2 ^ 12 = 0 ∧
      ∀ r ∈ rows, ExtentOk m sk d.len r.1 ∧ ExtentOk m dk d.len r.2)) ∧
  (∀ d k s c, Issues s c (formKstat d) → ∃ t w, exec (.kstat d k) s = .next t ∧ InWave s t c.blk c.iss.wave w ∧
    WaveKept c.wv w ∧ Moved s t c w { noRegs with s := [d.toNat] } 6 1 none ∧ t.mem = s.mem ∧ t.hostMem = s.hostMem ∧
    t.dram = s.dram ∧ ((c.blk.token k.toNat).outst ≠ [] ∨ (c.blk.token k.toNat).coll = false → OutsideKept s t) ∧
    ((c.blk.token k.toNat).outst = [] → (c.blk.token k.toNat).coll = true →
      ∀ x ∈ t.l1, x.core = c.blk.core → x.ctx = c.blk.ctx → x.valid = x.dirty) ∧ w.v = c.wv.v ∧ w.p = c.wv.p ∧ w.t = c.wv.t ∧ w.flags = c.wv.flags ∧
    (∀ q, q ≠ d.toNat → w.getS q = c.wv.getS q) ∧
    (w.getS d.toNat).getLsbD 31 = !(c.blk.token k.toNat).outst.isEmpty ∧ (w.getS d.toNat).getLsbD 30 = (c.blk.token k.toNat).abort ∧
    (w.getS d.toNat).toNat / 2 ^ 16 % 128 = (c.blk.token k.toNat).outst.length % 128 ∧
    (w.getS d.toNat).toNat % 2 ^ 16 = (c.blk.token k.toNat).failed % 2 ^ 16)

/-- R21, R279, R280, R313, R314, R389-R392, R416: words whose effect lies elsewhere. RAYQ puts a query of the live lanes' ray
blocks under way; COLL and CSEND count on their token and wait in the store queue, as the WREC words do; LAUNCH and GROW
hold their wave. No register changes. R390-R392: what legal descriptors of COLL and CSEND are.
That the SRC alignment of a CSEND is not checked, and that the flag bits of CREC do not count for its zero test, rests on log
37, and the mask of the queue trap of LAUNCH on log 35, which are no rules of the spec (the model's choice). -/
def Obligations.QueuedWords : Prop :=
  (∀ q r n f s c, Issues s c (formRayq q r n) → c.wv.rays.length < 4 → c.wv.acqPending = false →
    ∃ t w op, exec (.rayq q r n f) s = .next t ∧ InWave s t c.blk c.iss.wave w ∧ MemKept s t ∧ RegsKept c.wv w ∧
      w.rays = c.wv.rays ++ [op] ∧ op.res = r.toNat ∧ op.root = c.wv.getS64 (2 * n.toNat) ∧ op.flags = f ∧
      ∀ e, e ∈ op.rays ↔ ∃ l, l < 32 ∧ c.liveMask.getLsbD l = true ∧
        e = (l, (List.range 8).map fun j => c.vec false (q.toNat + j) l)) ∧
  (∀ (csend : Bool) (b : BitVec 9) (k : BitVec 3) s c d, Issues s c (formColl (if csend then 0x78 else 0x79) b) →
    d = (List.range 8).map (fun j => c.wv.getS (b.toNat + j)) → (c.blk.token k.toNat).outst.length < 64 →
    ((s.comm? (collComm d)).isSome = true → s.opsQueued (collComm d) < 16) → (if csend then csendOk d else collOk d) = true →
    ∃ t x w, exec (if csend then .csend b k else .coll b k) s = .next t ∧ MemKept s t ∧ t.block? c.blk.uid = some x ∧
      x.wave? c.iss.wave = some w ∧ RegsKept c.wv w ∧ x = { c.blk with tokens := x.tokens, waves := x.waves } ∧
      w.sq = c.wv.sq ++ [(s.now, .coll csend s.nextUid k.toNat d)] ∧ w.colls = c.wv.colls ++ [s.nextUid] ∧
      (x.token k.toNat).outst = (c.blk.token k.toNat).outst ++ [s.nextUid]) ∧
  (∀ (csend : Bool) (b : BitVec 9) (k : BitVec 3) s c d, Issues s c (formColl (if csend then 0x78 else 0x79) b) →
    d = (List.range 8).map (fun j => c.wv.getS (b.toNat + j)) → (c.blk.token k.toNat).outst.length < 64 →
    ((s.comm? (collComm d)).isSome = true → s.opsQueued (collComm d) < 16) → (if csend then csendOk d else collOk d) = false →
    exec (if csend then .csend b k else .coll b k) s =
      .next (takeTrap s c { cause := 11, opcode := if csend then 0x78 else 0x79 })) ∧
  (∀ d : List Word,
    let word (j : Nat) : Nat := (d.getD j 0).toNat
    let src : Addr := d.getD 1 0 ++ d.getD 0 0
    let dst : Addr := d.getD 3 0 ++ d.getD 2 0
    let op := word 5 / 2 ^ 28
    let fmt := word 5 / 2 ^ 26 % 4
    let mode := word 5 / 2 ^ 24 % 4
    let size := if op = 5 ∨ fmt = 0 then 4 else if fmt = 1 then 2 else 1
    (collOk d = true ↔ (word 5 % 16 = 0 ∧ crecLegal d ∧ (op ≠ 3 → word 5 / 2 ^ 14 % 2 ^ 10 = 0) ∧
      ((op ≤ 1 ∧ fmt ≤ 1 ∧ mode = 0) ∨ ((op = 2 ∨ op = 3) ∧ fmt ≤ 2 ∧ mode = 0) ∨ (op = 4 ∧ fmt = 0 ∧ mode = 0) ∨
        (op = 5 ∧ fmt = 0 ∧ mode ≤ 2)) ∧
      (op = 4 → src = 0 ∧ dst = 0 ∧ word 4 = 0) ∧
      (op ≠ 4 → ∀ a, a = src ∨ a = dst → canonical a = true ∧ a.toNat % size = 0))) ∧
    (csendOk d = true ↔ (word 3 = 0 ∧ word 4 = 0 ∧ word 5 / 2 ^ 24 = 0 ∧ word 5 % 16 = 0 ∧ word 2 % 4 = 0 ∧ 4 ≤ word 2 ∧
      word 2 ≤ 16777216 ∧ canonical src = true ∧ crecLegal d))) ∧
  (∀ p v q s c, Issues s c (formWrec (fun c => c.vregsOk v.toNat 16 16 && c.vregsOk q.toNat 1 1)
      { noRegs with v := List.range' v.toNat 16 ++ [q.toNat] } { noRegs with p := predReg p.toNat }) →
    ∃ t w ls, exec (.wrecPost p v q) s = .next t ∧ OnlyWave s t c.blk c.iss.wave w ∧ RegsKept c.wv w ∧
      w.sq = c.wv.sq ++ [(s.now, .post c.iss.part p.toNat ls)] ∧ ∀ e, e ∈ ls ↔ ∃ l, l < 32 ∧ c.liveMask.getLsbD l = true ∧
        e = (l, (c.vec false q.toNat l).toNat, (List.range 16).map fun j => c.vec false (v.toNat + j) l)) ∧
  (∀ p v s c, Issues s c (formWrec (fun c => c.vregsOk v.toNat 16 16) noRegs
      { noRegs with v := List.range' v.toNat 16, p := predReg p.toNat }) →
    ∃ t w, exec (.wrecTake p v) s = .next t ∧ OnlyWave s t c.blk c.iss.wave w ∧ RegsKept c.wv w ∧
      w.sq = c.wv.sq ++ [(s.now, .take c.iss.part p.toNat v.toNat c.liveMask)]) ∧
  (∀ s c, Issues s c (formWrec (fun _ => true) noRegs noRegs) → ∃ t w, exec .wrecReturn s = .next t ∧
    OnlyWave s t c.blk c.iss.wave w ∧ RegsKept c.wv w ∧ w.sq = c.wv.sq ++ [(s.now, .giveBack)]) ∧
  (∀ n q s c, Issues s c (formLaunchW n) → canonical (c.wv.getS64 (2 * n.toNat)) = true →
    (c.wv.getS64 (2 * n.toNat)).toNat % 256 = 0 → s.owns c.blk.ctx q.toNat = true →
    ∃ t w h, exec (.launch n q) s = .next t ∧ OnlyWave s t c.blk c.iss.wave w ∧ RegsKept c.wv w ∧ w.run = .entering h ∧
      h.part = c.iss.part ∧ h.rel = true ∧ h.scope = 2 ∧ w.sq = c.wv.sq ++ [(s.now, .launch h q.toNat (c.wv.getS64 (2 * n.toNat)))]) ∧
  (∀ n q s c, Issues s c (formLaunchW n) → canonical (c.wv.getS64 (2 * n.toNat)) = true →
    (c.wv.getS64 (2 * n.toNat)).toNat % 256 = 0 → s.owns c.blk.ctx q.toNat = false →
    exec (.launch n q) s = .next (takeTrap s c
      { cause := 6, reason := 8, opcode := 0x7D, addr := c.wv.getS64 (2 * n.toNat), mask := c.liveMask })) ∧
  (∀ i d s c, Issues s c (formGrow i d) → ∃ t w h, exec (.grow i d) s = .next t ∧ OnlyWave s t c.blk c.iss.wave w ∧
    RegsKept c.wv w ∧ w.run = .entering h ∧ h.part = c.iss.part ∧ h.rel = true ∧ h.scope = 2 ∧
    w.sq = c.wv.sq ++ [(s.now, .grow h d.toNat (c.wv.getS i.toNat))])

namespace Sys2Proof.Claims

open Sys2Proof Sys2Proof.Machine

/-! ### Stream words -/

/-- A stream word that passes its checks (R256, R257): the block becomes `r`, and no other block, no memory and no
clause is touched. -/
def StreamWord (i : Instr) (ok : Block → Stream → Prop) (r : Block → Stream → Block → Prop) : Prop :=
  ∀ s b t, s.streamCur? = some (b, t) → ok b t → ∃ s' x, exec i s = .next s' ∧ OutsideKept s s' ∧ s'.issues = s.issues ∧
    s'.block? b.uid = some x ∧ (∀ u, u ≠ b.uid → s'.block? u = s.block? u) ∧ r b t x

/-- A stream word that fails a check halts its block with a stream fault, and takes no effect (R257). -/
def StreamStop (i : Instr) (op : Nat) (bad : Block → Stream → Prop) : Prop :=
  ∀ s b t, s.streamCur? = some (b, t) → bad b t → exec i s = .next (streamTrap s b t { cause := 10, opcode := op })

/-- Only the stream of `x` differs from `b`'s. -/
def OnlyStream (b : Block) (t t' : Stream) (x : Block) : Prop := x = { b with stream := some t' } ∧ t'.pc = t.pc + 8

/-- The words of the MMAC family: `al` tiles from one on a multiple of `al`, rows on 16-byte boundaries within block
memory. -/
def macOk (al : Nat) (m : BitVec 6) (tile : BitVec 7) (x : BitVec 3) (off : BitVec 20) (stride : BitVec 13) (b : Block) (t : Stream) : Prop :=
  tile.toNat % al = 0 ∧ tile.toNat + al ≤ b.decl.btiles ∧ stride.toNat % 16 = 0 ∧
  ∀ i, i ≤ m.toNat → (t.addr x (off.toNat + i * stride.toNat)) % 16 = 0 ∧
    t.addr x (off.toNat + i * stride.toNat) + 128 * al ≤ b.decl.bmem

/-- What a word of the family leaves: the first M rows of the partial buffer are new, all else stays. -/
def macDone (kind : MacKind) (acc : Bool) (m : BitVec 6) (tile : BitVec 7) (x : BitVec 3) (off : BitVec 20) (stride : BitVec 13)
    (b : Block) (t : Stream) (y : Block) : Prop :=
  ∃ p, OnlyStream b t { t with pc := t.pc + 8, partials := p } y ∧
    (∀ k, 64 * (m.toNat + 1) ≤ k → getAt 0 p k = getAt 0 t.partials k) ∧
    ∀ i n, i ≤ m.toNat → n < 64 → getAt 0 p (64 * i + n) =
      macElem b kind acc (t.addr x (off.toNat + i * stride.toNat)) tile.toNat n (getAt 0 t.partials (64 * i + n))

end Sys2Proof.Claims

/-- R253-R262: the words of the matrix datapath.
R260: the saturation count advances by one for each element clamped, and stops at its largest value. R262: what one element
of a MOUT row is in each format.
R74-R76, R253, R258, R273: one element of a matrix product: 128 products of a row of A and a column of a tile, with the
old entry where the word accumulates, rounded once; INT8 sums wrap; the column that the spare has taken reads the spare
slice. -/
def Obligations.MatrixWords : Prop :=
  ((∀ acc m tile x off stride, StreamWord (.mmac acc m tile x off stride) (macOk 1 m tile x off stride)
      (macDone .e4m3 acc m tile x off stride) ∧
    StreamWord (.mmace5 acc m tile x off stride) (macOk 1 m tile x off stride) (macDone .e5m2 acc m tile x off stride) ∧
    StreamWord (.mmaci acc m tile x off stride) (macOk 1 m tile x off stride) (macDone .int8 acc m tile x off stride) ∧
    StreamWord (.mmacb acc m tile x off stride) (macOk 2 m tile x off stride) (macDone .bf16 acc m tile x off stride) ∧
    StreamWord (.mcmac acc m tile x off stride) (macOk 4 m tile x off stride) (macDone .cplx acc m tile x off stride) ∧
    StreamStop (.mmac acc m tile x off stride) 0x01 (fun b t => ¬ macOk 1 m tile x off stride b t) ∧
    StreamStop (.mmace5 acc m tile x off stride) 0x12 (fun b t => ¬ macOk 1 m tile x off stride b t) ∧
    StreamStop (.mmaci acc m tile x off stride) 0x03 (fun b t => ¬ macOk 1 m tile x off stride b t) ∧
    StreamStop (.mmacb acc m tile x off stride) 0x02 (fun b t => ¬ macOk 2 m tile x off stride b t) ∧
    StreamStop (.mcmac acc m tile x off stride) 0x04 (fun b t => ¬ macOk 4 m tile x off stride b t)) ∧
  (∀ w m sx x off, StreamWord (.msa w m sx x off)
    (fun b t => w.toNat < b.decl.awin ∧ t.addr x off.toNat % 4 = 0 ∧ t.addr x off.toNat + 4 * (m.toNat + 1) ≤ b.decl.bmem)
    (fun b t y => ∃ win, y = { b with win := win, stream := some { t with pc := t.pc + 8 } } ∧
      (∀ k, (k < 4096 * w.toNat ∨ 4096 * w.toNat + 64 * (m.toNat + 1) ≤ k) → getAt 0 win k = getAt 0 b.win k) ∧
      ∀ i n, i ≤ m.toNat → n < 64 → getAt 0 win (4096 * w.toNat + (64 * i + n)) =
        add32 (getAt 0 b.win (4096 * w.toNat + (64 * i + n))) (mul32 (getAt 0 t.partials (64 * i + n))
          (mul32 (BitVec.ofNat 32 (leNat (b.bmemRun (t.addr x off.toNat + 4 * i) 4))) ((t.x.getD sx.toNat 0).extractLsb' 0 32))))) ∧
  (∀ w m sat, StreamWord (.msai w m sat) (fun b _ => w.toNat < b.decl.awin)
    (fun b t y => ∃ win cnt, y = { b with win := win, satCount := cnt, stream := some { t with pc := t.pc + 8 } } ∧
      (∀ k, (k < 4096 * w.toNat ∨ 4096 * w.toNat + 64 * (m.toNat + 1) ≤ k) → getAt 0 win k = getAt 0 b.win k) ∧
      (∀ k, k ≠ w.toNat → getAt 0 cnt k = getAt 0 b.satCount k) ∧
      (sat = false → ∀ i n, i ≤ m.toNat → n < 64 → getAt 0 win (4096 * w.toNat + (64 * i + n)) =
        getAt 0 b.win (4096 * w.toNat + (64 * i + n)) + getAt 0 t.partials (64 * i + n)) ∧
      (sat = true → ∀ i n, i ≤ m.toNat → n < 64 → (getAt 0 win (4096 * w.toNat + (64 * i + n))).toInt = max (-2 ^ 31) (min (2 ^ 31 - 1)
        ((getAt 0 b.win (4096 * w.toNat + (64 * i + n))).toInt + (getAt 0 t.partials (64 * i + n)).toInt))) ∧
      (sat = false → getAt 0 cnt w.toNat = getAt 0 b.satCount w.toNat) ∧
      (sat = true → (getAt 0 cnt w.toNat).toNat = min (2 ^ 32 - 1) ((getAt 0 b.satCount w.toNat).toNat +
        ((List.range (64 * (m.toNat + 1))).filter fun k =>
          let x := (getAt 0 b.win (4096 * w.toNat + k)).toInt + (getAt 0 t.partials k).toInt
          decide (x < -2 ^ 31 ∨ 2 ^ 31 ≤ x)).length)))) ∧
  StreamWord (.mclr false 0 0) (fun _ _ => True) (fun b t y => OnlyStream b t { t with pc := t.pc + 8, partials := [] } y) ∧
  (∀ w c, StreamWord (.mclr true w c) (fun b _ => w.toNat + c.toNat + 1 ≤ b.decl.awin)
    (fun b t y => ∃ win cnt, y = { b with win := win, satCount := cnt, stream := some { t with pc := t.pc + 8 } } ∧
      (∀ k, getAt 0 win k = if w.toNat ≤ k / 4096 ∧ k / 4096 ≤ w.toNat + c.toNat then 0 else getAt 0 b.win k) ∧
      ∀ k, getAt 0 cnt k = if w.toNat ≤ k ∧ k ≤ w.toNat + c.toNat then 0 else getAt 0 b.satCount k)) ∧
  (∀ w m fmt x off stride sz, sz = (if fmt = 0 then 4 else if fmt.toNat ≤ 2 then 2 else 1) → StreamWord (.mout w m fmt x off stride)
    (fun b t => w.toNat < b.decl.awin ∧ fmt.toNat ≤ 4 ∧ stride.toNat % 16 = 0 ∧ ∀ i, i ≤ m.toNat →
      t.addr x (off.toNat + i * stride.toNat) % 16 = 0 ∧ t.addr x (off.toNat + i * stride.toNat) + 64 * sz ≤ b.decl.bmem)
    (fun b t y => ∃ mem, y = { b with bmem := mem, stream := some { t with pc := t.pc + 8 } } ∧
      (∀ o, (∀ i, i ≤ m.toNat → o < t.addr x (off.toNat + i * stride.toNat) ∨
        t.addr x (off.toNat + i * stride.toNat) + 64 * sz ≤ o) → getAt 0 mem o = getAt 0 b.bmem o) ∧
      (∀ n, n < 64 → getRun 0 mem (t.addr x (off.toNat + m.toNat * stride.toNat) + sz * n) sz =
        moutBytes fmt.toNat (getAt 0 b.win (4096 * w.toNat + 64 * m.toNat + n))) ∧
      (∀ i n, 64 * sz ≤ stride.toNat → t.addr x (off.toNat + m.toNat * stride.toNat) = t.addr x off.toNat + m.toNat * stride.toNat →
        i ≤ m.toNat → n < 64 → getRun 0 mem (t.addr x (off.toNat + i * stride.toNat) + sz * n) sz =
          moutBytes fmt.toNat (getAt 0 b.win (4096 * w.toNat + 64 * i + n))))) ∧
  (∀ w m sx x off, StreamStop (.msa w m sx x off) 0x05 (fun b t => b.decl.awin ≤ w.toNat ∨ t.addr x off.toNat % 4 ≠ 0 ∨
    b.decl.bmem < t.addr x off.toNat + 4 * (m.toNat + 1))) ∧
  (∀ w m sat, StreamStop (.msai w m sat) 0x06 (fun b _ => b.decl.awin ≤ w.toNat)) ∧
  (∀ w c, StreamStop (.mclr false w c) 0x07 (fun _ _ => w ≠ 0 ∨ c ≠ 0)) ∧
  (∀ w c, StreamStop (.mclr true w c) 0x07 (fun b _ => b.decl.awin < w.toNat + c.toNat + 1)) ∧
  (∀ w m fmt x off stride sz, sz = (if fmt = 0 then 4 else if fmt.toNat ≤ 2 then 2 else 1) →
    StreamStop (.mout w m fmt x off stride) 0x08
      (fun b t => b.decl.awin ≤ w.toNat ∨ 4 < fmt.toNat ∨ stride.toNat % 16 ≠ 0 ∨ ∃ i, i ≤ m.toNat ∧
        (t.addr x (off.toNat + i * stride.toNat) % 16 ≠ 0 ∨ b.decl.bmem < t.addr x (off.toNat + i * stride.toNat) + 64 * sz))) ∧
  (∀ x : Word, moutBytes 0 x = leBytes 4 (if 0x7F800000 < x.toNat % 2 ^ 31 then 0x7FC00000 else x.toNat) ∧
    (∀ k f n bits, (k, f, n, bits) ∈ [(1, fmtBF16, 2, 0x7FC0), (2, fmtFP16, 2, 0x7E00), (3, fmtE4M3, 1, 0x7F), (4, fmtE5M2, 1, 0x7E)] →
      moutBytes k x = leBytes n (if 0x7F800000 < x.toNat % 2 ^ 31 then bits else (deliverSum f .rn false [f32 x]).1)))) ∧
  (∀ (b : Block) (acc : Bool) (a t n : Nat) (old : Word),
  let row (o : Nat) : Nat := (getAt 0 b.bmem (a + o)).toNat
  let tile (o : Nat) : Nat := (match b.spare with
    | some (c, m) => if c = n then getAt 0 m (128 * (t + o / 8192) + o % 128) else getAt 0 b.tiles (8192 * t + 128 * n + o)
    | none => getAt 0 b.tiles (8192 * t + 128 * n + o)).toNat
  let prior : List Machine.Num := if acc then [f32 old] else []
  macElem b .e4m3 acc a t n old =
    (sum32 .rn ((List.range 128).map (fun k => (unpack fmtE4M3 (row k)).mul (unpack fmtE4M3 (tile k))) ++ prior)).1 ∧
  macElem b .e5m2 acc a t n old =
    (sum32 .rn ((List.range 128).map (fun k => (unpack fmtE5M2 (row k)).mul (unpack fmtE5M2 (tile k))) ++ prior)).1 ∧
  macElem b .int8 acc a t n old = BitVec.ofInt 32 (((List.range 128).map fun k =>
      (BitVec.ofNat 8 (row k)).toInt * (BitVec.ofNat 8 (tile k)).toInt).sum + if acc then old.toInt else 0) ∧
  macElem b .bf16 acc a t n old =
    (sum32 .rn ((List.range 128).map (fun k => (unpack fmtBF16 (row (2 * k) + 256 * row (2 * k + 1))).mul
      (unpack fmtBF16 (tile (8192 * (k / 64) + 2 * (k % 64)) + 256 * tile (8192 * (k / 64) + 2 * (k % 64) + 1)))) ++ prior)).1 ∧
  (let re (at_ : Nat → Nat) (o : Nat) : Machine.Num := unpack fmtBF16 (at_ o + 256 * at_ (o + 1))
   let col (k : Nat) : Nat := 8192 * (k / 32) + 4 * (k % 32)
   macElem b .cplx acc a t n old = (sum32 .rn (((List.range 128).flatMap fun k =>
     if n % 2 = 0 then [(re row (4 * k)).mul (re tile (col k)), ((re row (4 * k + 2)).mul (re tile (col k + 2))).negate]
     else [(re row (4 * k)).mul (re tile (col k + 2)), (re row (4 * k + 2)).mul (re tile (col k))]) ++ prior)).1))

/-- R196, R263-R265, R345: the words that move the stream. MLOOP counts X down and branches while it was above 1. -/
def Obligations.StreamControlWords : Prop :=
  (∀ x hi imm, StreamWord (.mset x hi imm) (fun _ _ => hi = true → imm.toNat < 2 ^ 16) (fun b t y => ∃ t', OnlyStream b t t' y ∧
    t'.partials = t.partials ∧ t'.step = t.step ∧ t'.run = t.run ∧ ∀ k, k < 8 → t'.x.getD k 0 = if k = x.toNat then
      (if hi then imm.extractLsb' 0 16 ++ (t.x.getD k 0).extractLsb' 0 48 else imm.signExtend 64) else t.x.getD k 0)) ∧
  (∀ d x imm, StreamWord (.madv d x imm) (fun _ _ => True) (fun b t y => ∃ t', OnlyStream b t t' y ∧
    t'.partials = t.partials ∧ t'.step = t.step ∧ t'.run = t.run ∧ ∀ k, k < 8 → t'.x.getD k 0 =
      if k = d.toNat then t.x.getD x.toNat 0 + imm.signExtend 64 else t.x.getD k 0)) ∧
  (∀ x off, StreamWord (.mloop x off) (fun _ _ => True) (fun b t y => ∃ t', y = { b with stream := some t' } ∧
    t'.partials = t.partials ∧ t'.step = t.step ∧ t'.run = t.run ∧
    t'.pc = (if (t.x.getD x.toNat 0).toNat ≤ 1 then t.pc + 8 else t.pc + BitVec.ofInt 64 (8 * off.toInt)) ∧
    ∀ k, k < 8 → t'.x.getD k 0 = if k = x.toNat then BitVec.ofNat 64 ((t.x.getD k 0).toNat - 1) else t.x.getD k 0)) ∧
  StreamWord .mnop (fun _ _ => True) (fun b t y => OnlyStream b t { t with pc := t.pc + 8 } y) ∧
  (∀ n s b t, s.streamCur? = some (b, t) → t.step ≤ n.toNat → ∃ s' r, exec (.mstep n) s = .next s' ∧ OutsideKept s s' ∧
    s'.block? b.uid = some { b with stream := some { t with pc := t.pc + 8, step := n.toNat, run := r } } ∧
    ((∀ l, s.launch? b.launch = some l → l.cut = none) → r = t.run) ∧
    (∀ l, s.launch? b.launch = some l → l.cut ≠ none → r = .held s.now)) ∧
  (∀ n, StreamStop (.mstep n) 0x10 (fun _ t => n.toNat < t.step)) ∧
  (∀ s b t, s.streamCur? = some (b, t) → ∃ s1 : State, s1 = s.updBlock b.uid (fun x =>
      { x with stream := some { t with run := .ended, pc := t.pc + 8 } }) ∧
    exec .mend s = .next (((s1.settle b.uid).updCore b.core fun k => { k with owner := none }).tick)) ∧
  (∀ n s b t, s.streamCur? = some (b, t) → ∃ s', exec (.streamMbar n 0) s = .next s' ∧
    s'.block? b.uid = some ({ b with stream := some { t with run := .mbar n.toNat (b.mbar n.toNat).phase } }.settle s.now)) ∧
  (∀ n m s b t, s.streamCur? = some (b, t) → m = 1 ∨ m = 2 → ∃ s', exec (.streamMbar n m) s = .next s' ∧
    s'.block? b.uid = some ((b.streamArrive n.toNat (m == 2) s.now).settle s.now)) ∧
  (∀ n, StreamStop (.streamMbar n 3) 0x09 (fun _ _ => True))

namespace Sys2Proof.Claims

open Sys2Proof Sys2Proof.Machine

/-- The order of R270: value `a` at index `i` comes before `b` at `j`. By real value, the two zeros equal, every NaN last,
and equals by the lower index. -/
def ranksAbove (a : Word) (i : Nat) (b : Word) (j : Nat) : Bool :=
  let nan (x : Word) : Bool := decide (0x7F800000 < x.toNat % 2 ^ 31)
  let value (x : Word) : Int := if x.getLsbD 31 then -(x.toNat % 2 ^ 31 : Int) else (x.toNat % 2 ^ 31 : Int)
  if nan a || nan b then (nan b && !nan a) || (nan a && nan b && decide (i < j))
  else decide (value b < value a) || (decide (value a = value b) && decide (i < j))

/-- The draw of R272 over weights `q`: U times their sum T lies between the prefix sums below and up to position `i`. -/
def drawsAt (u : Nat) (q : List Nat) (i : Nat) : Prop :=
  2 ^ 24 * (q.take i).sum ≤ u * q.sum ∧ u * q.sum < 2 ^ 24 * (q.take (i + 1)).sum

/-- U of R272: the counter generator's word 0, with the inputs of R83 of a stream. -/
def drawU (b : Block) (k c : BitVec 64) : Nat :=
  ((rngWords (k.extractLsb' 0 32) (k.extractLsb' 32 32) (c.extractLsb' 0 32) (BitVec.ofNat 32 (32 * b.index))
    (c.extractLsb' 32 32)).getD 0 0).toNat / 256

end Sys2Proof.Claims

/-- R257, R269-R272: ATOPK writes to block memory the elements of its vector that rank highest, in their order; ASMAX
replaces its vector by its softmax; ASAMPLE writes to an X register the position its draw falls on, all ones where the
weights sum to 0. A length beyond the windows, a bad range and a bad constant are stream faults. -/
def Obligations.VocabularyWords : Prop :=
  (∀ w c k len x off n, StreamWord (.atopk w c k len x off)
    (fun b t => vocabLen b t w c len = some n ∧ t.addr x off.toNat % 8 = 0 ∧ t.addr x off.toNat + 8 * (k.toNat + 1) ≤ b.decl.bmem)
    (fun b t y => ∃ mem, y = { b with bmem := mem, stream := some { t with pc := t.pc + 8 } } ∧
      (∀ o, (o < t.addr x off.toNat ∨ t.addr x off.toNat + 8 * (k.toNat + 1) ≤ o) → getAt 0 mem o = getAt 0 b.bmem o) ∧
      let v (i : Nat) : Word := getAt 0 b.win (4096 * w.toNat + i)
      ∀ j, j ≤ k.toNat → ∃ e i : Nat, getRun 0 mem (t.addr x off.toNat + 8 * j) 8 = leBytes 4 e ++ leBytes 4 i ∧
        (n ≤ j → e = 0x7FC00000 ∧ i = 0xFFFFFFFF) ∧
        (j < n → i < n ∧ e = (v i).toNat ∧ ((List.range n).filter fun q => ranksAbove (v q) q (v i) i).length = j))) ∧
  (∀ w c k len x off, StreamStop (.atopk w c k len x off) 0x0D (fun b t => vocabLen b t w c len = none ∨
    t.addr x off.toNat % 8 ≠ 0 ∨ b.decl.bmem < t.addr x off.toNat + 8 * (k.toNat + 1))) ∧
  (∀ w c k len n m e, StreamWord (.asmax w c k len)
    (fun b t => vocabLen b t w c len = some n ∧ f32 ((t.x.getD k.toNat 0).extractLsb' 0 32) = .fin false m e ∧ m ≠ 0)
    (fun b t y => ∃ win, y = { b with win := win, stream := some { t with pc := t.pc + 8 } } ∧
      (∀ q, (q < 4096 * w.toNat ∨ 4096 * w.toNat + n ≤ q) → getAt 0 win q = getAt 0 b.win q) ∧
      ∀ q, q < n → getAt 0 win (4096 * w.toNat + q) =
        (asmaxVec (vocab b w.toNat n) ((t.x.getD k.toNat 0).extractLsb' 0 32)).getD q 0)) ∧
  (∀ w c k len, StreamStop (.asmax w c k len) 0x0E (fun b t => vocabLen b t w c len = none ∨
    ∀ m e, f32 ((t.x.getD k.toNat 0).extractLsb' 0 32) = .fin false m e → m = 0)) ∧
  (∀ (zs : List Word) (c : Word), (zs.any (fun z => (f32 z).isNaN) = true ∨ (∃ z ∈ zs, f32 z = .inf false) ∨
      (zs ≠ [] ∧ ∀ z ∈ zs, f32 z = .inf true)) → asmaxVec zs c = zs.map fun _ => 0x7FC00000) ∧
  (∀ w c key ctr d len n, StreamWord (.asample w c false key ctr d len 0 0) (fun b t => vocabLen b t w c len = some n)
    (fun b t y => ∃ t', OnlyStream b t t' y ∧ t'.partials = t.partials ∧ t'.step = t.step ∧ t'.run = t.run ∧
      (∀ k, k < 8 → k ≠ d.toNat → t'.x.getD k 0 = t.x.getD k 0) ∧
      (((vocab b w.toNat n).map sampleWeight).sum = 0 → t'.x.getD d.toNat 0 = 0xFFFFFFFFFFFFFFFF#64) ∧
      (((vocab b w.toNat n).map sampleWeight).sum ≠ 0 → (t'.x.getD d.toNat 0).toNat < n ∧
        drawsAt (drawU b (t.x.getD key.toNat 0) (t.x.getD ctr.toNat 0)) ((vocab b w.toNat n).map sampleWeight)
          (t'.x.getD d.toNat 0).toNat))) ∧
  (∀ key ctr d len x off n, StreamWord (.asample 0 0 true key ctr d len x off)
    (fun b t => n = ((t.x.getD len.toNat 0).extractLsb' 0 32).toNat ∧ 0 < n ∧ n ≤ 1024 ∧ t.addr x off.toNat % 8 = 0 ∧
      t.addr x off.toNat + 8 * n ≤ b.decl.bmem)
    (fun b t y => ∃ t', OnlyStream b t t' y ∧ t'.partials = t.partials ∧ t'.step = t.step ∧ t'.run = t.run ∧
      (∀ k, k < 8 → k ≠ d.toNat → t'.x.getD k 0 = t.x.getD k 0) ∧
      let entry (j o : Nat) : Word := BitVec.ofNat 32 (leNat (b.bmemRun (t.addr x off.toNat + 8 * j + o) 4))
      (((List.range n).map fun j => sampleWeight (entry j 0)).sum = 0 → t'.x.getD d.toNat 0 = 0xFFFFFFFFFFFFFFFF#64) ∧
      (((List.range n).map fun j => sampleWeight (entry j 0)).sum ≠ 0 → ∃ i, i < n ∧
        drawsAt (drawU b (t.x.getD key.toNat 0) (t.x.getD ctr.toNat 0)) ((List.range n).map fun j => sampleWeight (entry j 0)) i ∧
        t'.x.getD d.toNat 0 = BitVec.ofNat 32 i ++ entry i 4))) ∧
  (∀ w c key ctr d len x off, StreamStop (.asample w c false key ctr d len x off) 0x0F
    (fun b t => vocabLen b t w c len = none ∨ x ≠ 0 ∨ off ≠ 0)) ∧
  (∀ w c key ctr d len x off, w ≠ 0 ∨ c ≠ 0 → StreamStop (.asample w c true key ctr d len x off) 0x0F (fun _ _ => True)) ∧
  (∀ key ctr d len x off, StreamStop (.asample 0 0 true key ctr d len x off) 0x0F (fun b t =>
    let n := ((t.x.getD len.toNat 0).extractLsb' 0 32).toNat
    n = 0 ∨ 1024 < n ∨ t.addr x off.toNat % 8 ≠ 0 ∨ b.decl.bmem < t.addr x off.toNat + 8 * n)) ∧
  (∀ b t w c len, vocabLen b t w c len =
    let n := ((t.x.getD len.toNat 0).extractLsb' 0 32).toNat
    if b.decl.awin < w.toNat + c.toNat + 1 ∨ 4096 * (c.toNat + 1) < n then none
    else some (if n = 0 then 4096 * (c.toNat + 1) else n)) ∧
  (∀ w, sampleWeight w = match f32 w with
    | .inf false => 2 ^ 40
    | .fin false m e => min (2 ^ 40) (if e ≤ -40 then m / 2 ^ (-40 - e).toNat else m * 2 ^ (e + 40).toNat)
    | _ => 0)

/-- R7-R12, R15, R32, R157: CLAUSE_SELECT gives the chosen wave's clause its slot, at its first word and with empty
latches; a malformed clause halts its block with illegal-clause; a part that has come to its ρ waits there.
A complete token that its header names, with a COLL or CSEND completed on it, is observed by the choice, which acts as
an acquire at fabric scope (R225, R396; log 51).
R10, R11: a chosen clause's wave runs, has no clause issuing, and its slot was free; among the clauses offered to the
slot none ranks above it, but for MIX clauses that cannot have both slots.
The order of equal picks and what a MIX clause is held against rest on the model's choices of log 7 and 25 (that a MIX
clause must come first in both slots' orders is log 25's), which are no rules of the spec (the model's choice). -/
def Obligations.ClauseSelection : Prop :=
  (∀ (s : State) (core sub : Nat) (slot1 : Bool) (x : Pick) (p : Part),
  s.choose core sub slot1 = some x → x.wave.part? x.part = some p →
  (∀ cls h, x.offer = .ready cls h → ∃ t i, exec (.clauseSelect core sub slot1) s = .next t ∧ t.issues = i :: s.issues ∧
    i.core = core ∧ i.sub = sub ∧ i.slot1 = slot1 ∧ i.mix = x.isMix ∧ i.block = x.block.uid ∧ i.wave = x.wave.idx ∧
    i.part = x.part ∧ i.pc = p.pc ∧ i.header = h ∧ i.k = max 1 p.word ∧ i.xc = none ∧ i.xp = none ∧ i.ext = none ∧
    i.lat0 = [] ∧ i.lat1 = [] ∧ t.now = s.now ∧ t.mem = s.mem ∧ t.dram = s.dram ∧ t.hostMem = s.hostMem ∧ t.l2 = s.l2 ∧
    ((∀ k, k < 8 → h.getLsbD (7 + k) = true → (x.block.token k).coll = false) → MemKept s t) ∧
    ((∃ k, k < 8 ∧ h.getLsbD (7 + k) = true ∧ (x.block.token k).outst = [] ∧ (x.block.token k).coll = true) →
      ∀ y ∈ t.l1, y.core = x.block.core → y.ctx = x.block.ctx → y.valid = y.dirty)) ∧
  (x.offer = .bad → exec (.clauseSelect core sub slot1) s = .next (s.updBlock x.block.uid fun b =>
    b.takeTrap s.now x.wave.idx (position p.pc 0) { cause := 2, opcode := 0 })) ∧
  (x.offer = .reconv → exec (.clauseSelect core sub slot1) s = .next ((s.updWave x.block.uid x.wave.idx fun w =>
    w.setPart x.part (some { p with wait := .reconv })).settle x.block.uid))) ∧
  (∀ (s : State) (core sub : Nat) (slot1 : Bool) (x : Pick),
  s.choose core sub slot1 = some x → s.slotFree core sub slot1 = true ∧ x ∈ s.picks core sub slot1 ∧
    x.wave.run = .running ∧ (∀ i ∈ s.issues, ¬ (i.block = x.block.uid ∧ i.wave = x.wave.idx)) ∧
    (∀ h, x.block.halt = some h → h.signalled = false) ∧ (x.isMix = true → s.slotFree core sub (!slot1) = true) ∧
    ∀ y ∈ s.picks core sub slot1, lexLt (y.rank slot1) (x.rank slot1) = true → y.isMix = true)

namespace Sys2Proof.Claims

open Sys2Proof Sys2Proof.Machine

/-- Byte `o` of a block's storage of a copy's kind (R245, R252): 1 its memory, 2 its B-store tiles, 3 its windows. -/
def placeByte (b : Block) (kind o : Nat) : Byte :=
  if kind = 1 then getAt 0 b.bmem o else if kind = 2 then getAt 0 b.tiles o
  else BitVec.ofNat 8 ((getAt 0 b.win (o / 4)).toNat / 256 ^ (o % 4))

/-- The next sector of the copy at work of a core: `n` bytes from the sources' byte `a` on to the destination's byte `z`
on; nothing of it has been read, asked for or failed (R247, R248). -/
structure CopyTurn (s : State) (core : Nat) (j : CopyJob) (b : Block) (a z n : Nat) : Prop where
  head : s.copyHead core = some j
  begun : j.issued + 4 ≤ s.now
  block : s.block? j.block = some b
  fresh : j.asked = [] ∧ j.failedNow = false ∧ j.ahead = []
  sixteens : j.len % 16 = 0
  row : ∃ r, j.rows[j.row]? = some r ∧ r.2 % 16 = 0 ∧ a = r.1 + (j.span r.2 j.sector).1 ∧ z = r.2 + (j.span r.2 j.sector).1 ∧
    n = (j.span r.2 j.sector).2

/-- Block `x` holds what `b` held, but for `n` bytes of its storage `kind` from `z` on, which are those of `f` (R247). -/
structure Placed (b x : Block) (kind z n : Nat) (f : Nat → Byte) : Prop where
  waves : x.waves = b.waves
  bytes : ∀ k o, 1 ≤ k → k ≤ 3 → placeByte x k o = if k = kind ∧ z ≤ o ∧ o < z + n then f (o - z) else placeByte b k o

end Sys2Proof.Claims

/-- R8, R12, R13, R158, R171, R188, R195, R197, R255, R280: the core's own events. R244-R249: a sector of a copy within the
core, out of the core to this device's memory or the host's, or into the core, and what 16 bytes of a global source are; a
destination page that is not present halts the block; a row to a send queue takes its place in the stream.
Rests on the model's choices of log 1 and 41; which waiting stream takes the array rests on log 31, and when a WAITV reads
again, and the line it watches, on log 36. These are no rules of the spec (the model's choice). -/
def Obligations.CoreEvents : Prop :=
  (∀ core cx line s pa pol, canonical (BitVec.ofNat 64 (line * 128)) = true →
    s.translate core cx { x := true } (BitVec.ofNat 64 (line * 128)) = .ok { space := .here, pa := pa, policy := pol } →
    s.isBad pa 128 = false → ∃ t, exec (.instructionFetchComplete core cx line) s = .next t ∧ t.icHas core cx line = true ∧
      MemKept s t ∧ t.blocks = s.blocks) ∧
  (∀ u i s b w p k, s.block? u = some b → b.wave? i = some w → (∀ j ∈ s.issues, ¬ (j.block = u ∧ j.wave = i)) →
    w.deferred = some p → w.freeEntry = some k → exec (.deferredMove u i) s =
      .next ((s.updWave u i fun w => ((w.setPart k (some p)).setPart 4 none).renamePart k).settle u)) ∧
  (∀ (w : Wave) (k : Nat) (a : Await) (p : Part), w.run = .waitv a → a.part = 4 → k < 4 → w.deferred = some p →
    (((w.setPart k (some p)).setPart 4 none).renamePart k).run = .waitv { a with part := k } ∧
    (((w.setPart k (some p)).setPart 4 none).renamePart k).part? k = some p) ∧
  (∀ u i s b w, s.block? u = some b → b.wave? i = some w → ∃ t, exec (.wavePromote u i) s = .next t ∧
    t.wave? u i = some (if w.starved (s.since b.core) then { w with promoted := some s.now } else w) ∧
    (w.starved (s.since b.core) = true ↔ w.promoted = none ∧ w.starve.toNat ≤ w.starveCnt + (match w.readySince with
      | some r => s.since b.core r
      | none => 0))) ∧
  (∀ u i s b w, s.block? u = some b → b.wave? i = some w → ∃ t, exec (.resultWriteback u i) s = .next t ∧
    t.wave? u i = some { w with pend := w.pend.filter fun p => decide (s.now < p.due) } ∧ OutsideKept s t) ∧
  (∀ u i s b w n, s.block? u = some b → b.wave? i = some w → w.run = .sleeping n → n ≤ s.coreCycles b.core →
    ∃ t, exec (.sleepExpire u i) s = .next t ∧ t.wave? u i = some { w with run := .running } ∧ OutsideKept s t) ∧
  (∀ u s b n, s.block? u = some b → b.halt = none → b.stuckSince = some n → 4096 ≤ s.since b.core n →
    ∃ t h, exec (.deadlockDetect u) s = .next t ∧ t.block? u = some { b with halt := some h } ∧ h.cause = 8 ∧ h.wave = 0xFF ∧
      h.opcode = 0 ∧ OutsideKept s t) ∧
  (∀ l x s y, s.launch? l = some y → s.setDone y x = true → ∃ t y', exec (.setPhaseComplete l x) s = .next t ∧
    t.launch? l = some y' ∧ y'.phase x = { phase := (y.phase x).phase + 1, arrived := [] } ∧
    (∀ z, z ≠ x → y'.phase z = y.phase z) ∧ ∀ u b, s.block? u = some b → b.launch = l → t.block? u =
      some { b with
        gsync := b.gsync.filter (fun e => e.1 != x)
        waves := if b.halt.isSome then b.waves else b.waves.map fun w => if w.present then w.mapParts (fun p =>
          match p.wait with
          | .gsyncPhase z ph => if z = x ∧ ph ≠ (y.phase x).phase + 1 then p.past else p
          | _ => p) else w }) ∧
  (∀ u i s b w (a : Await) p m, s.block? u = some b → b.wave? i = some w → w.run = .waitv a →
    b.halt = none → w.part? a.part = some p → inAperture a.addr = true →
    addrFault s b.core b.ctx b.decl.bmem 0x7D { r := true } 4 p.mask (fun _ => a.addr) = none →
    m = BitVec.ofNat 32 (leNat (b.bmemRun (apOffset a.addr) 4)) → ∃ t, exec (.waitvReread u i) s = .next t ∧
      t.wave? u i = some (if waitCmp a.cmp.toNat m a.val then { w with run := .running }.pastPart a.part
        else { w with run := .waitv { a with asked := none, next := s.coreCycles b.core + 4096, line := none, seen := s.lineStamp 0 } })) ∧
  (∀ core s b, (s.core core).fencedArray = false → s.nextOwner core = some b → s.ownerYields core b = true →
    ∃ t, exec (.streamOwnerChange core) s = .next t ∧ (t.core core).owner = some b.uid ∧ MemKept s t) ∧
  (∀ u s b m, s.block? u = some b → b.stream = some m → exec (.streamFault u) s =
    .next (streamTrap s b m { cause := 10, opcode := s.streamOpcode b m })) ∧
  (∀ u i s b w op rest (res : Nat → List Word), s.block? u = some b → b.wave? i = some w → w.rays = op :: rest → op.due ≤ s.now → op.asked = [] →
    op.killed = 0 → (∀ e ∈ op.rays, (s.rayLane b op e.2).1 = .ok (res e.1)) →
    ∃ t w', exec (.rayqComplete u i) s = .next t ∧ t.wave? u i = some w' ∧ CohKept s t ∧ w'.rays = rest ∧ w'.s = w.s ∧
      w'.p = w.p ∧ w'.t = w.t ∧ w'.flags = w.flags ∧ ∀ q l, l < 32 → vLane w'.v q l =
        if op.res ≤ q ∧ q < op.res + 4 ∧ op.rays.any (fun e => e.1 == l) = true ∧ w.gone.getLsbD l = false
        then (res l).getD (q - op.res) 0 else vLane w.v q l) ∧
  (∀ core s j b a z n, CopyTurn s core j b a z n → s.sv.egress = [] → (j.srcKind = 1 ∨ j.srcKind = 3) → 1 ≤ j.dstKind →
    j.dstKind ≤ 3 → j.srcKind ≠ j.dstKind → ∃ t x, exec (.copySector core) s = .next t ∧ t.block? j.block = some x ∧
      Placed b x j.dstKind z n (fun o => placeByte b j.srcKind (a + o)) ∧ MemKept s t) ∧
  (∀ core s j b a z n (f : Nat → List Byte), CopyTurn s core j b a z n → s.sv.egress = [] → j.srcKind = 0 → 1 ≤ j.dstKind →
    j.dstKind ≤ 3 → (∀ o, 16 * o < n → s.copyGrain b j (BitVec.ofNat 64 (a + 16 * o)) = .bytes (f o) ∧ (f o).length = 16) →
    ∃ t x, exec (.copySector core) s = .next t ∧ t.block? j.block = some x ∧
      Placed b x j.dstKind z n (fun o => (f (o / 16)).getD (o % 16) 0) ∧ CohKept s t) ∧
  (∀ core s j b a z n (u : Target), CopyTurn s core j b a z n → s.sv.egress = [] → (j.srcKind = 1 ∨ j.srcKind = 3) →
    j.dstKind = 0 → s.aged core j.issued = true → s.translate b.core b.ctx { w := true } (BitVec.ofNat 64 z) = .ok u →
    (u.space = .here → s.groupFenced u.pa = false) → u.space = .here ∨ u.space = .host →
    ∃ t x, exec (.copySector core) s = .next t ∧ t.block? j.block = some x ∧ x.waves = b.waves ∧ x.sideEffect = true ∧
      (∀ k o, 1 ≤ k → k ≤ 3 → placeByte x k o = placeByte b k o) ∧
      (∀ o, getAt 0 t.mem o = if u.space = .here ∧ u.pa ≤ o ∧ o < u.pa + n then placeByte b j.srcKind (a + (o - u.pa))
        else getAt 0 s.mem o) ∧
      ∀ o, getAt 0 t.hostMem o = if u.space = .host ∧ u.pa ≤ o ∧ o < u.pa + n then placeByte b j.srcKind (a + (o - u.pa))
        else getAt 0 s.hostMem o) ∧
  (∀ core s j b a z n, CopyTurn s core j b a z n → s.sv.egress = [] → (j.srcKind = 1 ∨ j.srcKind = 3) → j.dstKind = 0 →
    s.aged core j.issued = true → s.translate b.core b.ctx { w := true } (BitVec.ofNat 64 z) = .pageFault → b.halt = none →
    ∃ t x h, exec (.copySector core) s = .next t ∧ t.block? j.block = some x ∧ x = { b with waves := x.waves, halt := some h } ∧ h.cause = 5 ∧
      h.wave = j.wave ∧ h.opcode = j.opcode ∧ h.pos = j.pos ∧ h.addr = BitVec.ofNat 64 z ∧ MemKept s t ∧
      (t.core core).copies.find? (fun y => y.seq == j.seq) = ((s.core core).copies.find? fun y => y.seq == j.seq).map
        fun y => { y with halted := true }) ∧
  (∀ core s j b r (c : Comm), s.copyHead core = some j → j.issued + 4 ≤ s.now → s.block? j.block = some b → j.ahead = [] →
    j.rows[j.row]? = some r → j.srcKind = 1 → j.dstKind = 4 → j.sector = 0 → j.failedNow = false → s.aged core j.issued = true →
    s.sendComm b r.2 = some c → s.streamBusy (r.2 % 64) (r.2 / 64) = false → ∃ (u : State) (c' : Comm), exec (.copySector core) s = .next u.noteMantle.pump ∧
      u.comm? c.id = some c' ∧ ∀ p, getAt 0 c'.sendPos p = if p = r.2 / 64 then getAt 0 c.sendPos p + j.len else getAt 0 c.sendPos p) ∧
  (∀ (s : State) (b : Block) (j : CopyJob) va (t : Target) (f g : Nat → Byte), s.translate b.core b.ctx { r := true } va = .ok t →
    (∀ i, i < 16 → s.belowByte b.core b.ctx { t with pa := t.pa + i } = some (f i) ∧
      s.ownByte b.core b.ctx (va + BitVec.ofNat 64 i) (f i) = some (g i)) →
    s.copyGrain b j va = .bytes ((List.range 16).map g)) ∧
  (∀ (s : State) (b : Block) (j : CopyJob) va, s.translate b.core b.ctx { r := true } va = .pageFault →
    s.copyGrain b j va = .fault { cause := 5, opcode := j.opcode, addr := va })

/-- R19, R22, R24, R26, R273, R439-R443: strikes, residues and the column remap. A strike report counts, is logged, and takes
the core's clauses out of their slots; a block that ran at the rollback cycle has its waves' registers as its checkpoint
has them, those of a wave in the middle of a clause as they were at that clause's start (R19, R20), with the lanes dead that
are dead now (R439), and one that had not started is pending again. A residue that goes away counts and changes nothing else;
one that recurs on an unspared part puts the spare in the place of the lane or column, whose slice of every block's tiles is
then in the spare slice. The lane whose result fails for good is in WAVE.DEAD, and its result is discarded: the word issues
again without it, or the registers the word may write are in that lane as they were before (R24, R28, R150).
Rests on the model's choices of log 8, 17, 41, which are no rules of the spec (the model's choice). -/
def Obligations.StrikesAndResidues : Prop :=
  (∀ core s, ∃ t, exec (.strikeRollback core) s = .next t ∧ (t.core core).strike = satInc (s.core core).strike ∧
    (∀ i ∈ t.issues, i.core ≠ core) ∧ MemKept s t ∧ t.rel.errNext = s.rel.errNext + 1 ∧
    (∀ u b, s.block? u = some b → b.core ≠ core → (∀ x ∈ s.blocks, x.uid = u → x = b) → t.block? u = some b) ∧
    (∀ b ∈ s.blocks, b.core = core → b.unstarts (s.windowStart core) = true → (∃ x, s.ctx? b.ctx = some x ∧ x.phase = .active) →
      (b.launch, b.index) ∈ (t.core core).pending)) ∧
  (∀ core s, ∃ t y, exec (.strikeRollback core) s = .next t ∧
    t.blocks = ((s.blocks.filter fun b => b.core == core && !b.unstarts (s.windowStart core)).foldl
      (fun (z : State) b => z.settle b.uid) y).blocks ∧
    ∀ u b x old, s.block? u = some b → b.core = core → b.unstarts (s.windowStart core) = false →
      (s.core core).baseOf (s.windowStart core) u = some x → x.blocks.find? (fun z => z.uid == u) = some old →
      ∃ n, y.block? u = some n ∧ n.tiles = old.tiles ∧
        ((∀ w ∈ old.waves, (s.core core).midClause x u w.idx = none) → n.bmem = old.bmem ∧ n.win = old.win) ∧
        ∀ i v, ((s.core core).midClause x u i = none ∧ old.wave? i = some v) ∨ (∃ m z, (s.core core).midClause x u i = some m ∧
            m.blocks.find? (fun z => z.uid == u) = some z ∧ z.wave? i = some v ∧ (old.wave? i).isSome = true) →
          ∃ w, n.wave? i = some w ∧ w.v = v.v ∧ w.s = v.s ∧ w.p = v.p ∧ w.t = v.t ∧ w.flags = v.flags ∧ w.step = v.step ∧
            ∀ now, b.wave? i = some now → w.dead = v.dead ||| (now.dead &&& ~~~v.exitedLanes)) ∧
  (∀ die s, die ≤ 8 → ∃ t, exec (.strikeUncore die) s = .next t ∧ getAt 0 t.rel.die (4 * die) = satInc (getAt 0 s.rel.die (4 * die)) ∧
    t.rel.errNext = s.rel.errNext + 1 ∧ t.blocks = s.blocks ∧ t.issues = s.issues ∧ MemKept s t) ∧
  (∀ core sub phys rec s x b lane p, (s.core core).lastWord.find? (fun x => x.sub == sub) = some x → s.block? x.block = some b →
    logicalOf ((s.core core).repairByte sub) 32 phys = some lane → x.before.part? x.issue.part = some p →
    p.mask.getLsbD lane = true → s.slotKept x = true → x.issue.core = core → ∃ t, exec (.residueReissue core sub phys rec) s = .next t ∧
      (t.core core).replay = satInc (s.core core).replay ∧
      (rec = false → t = s.updCore core fun k => { k with replay := satInc k.replay }) ∧
      (rec = true → sub < 6 → spared ((s.core core).repairByte sub) = false →
        (t.core core).repairByte sub = spareByte ((s.core core).repairByte sub) phys ∧ t.rel.errNext = s.rel.errNext + 1)) ∧
  (∀ core sub phys s x b lane p w wd, (s.core core).lastWord.find? (fun x => x.sub == sub) = some x → s.block? x.block = some b →
    logicalOf ((s.core core).repairByte sub) 32 phys = some lane → x.before.part? x.issue.part = some p →
    p.mask.getLsbD lane = true → s.slotKept x = true → x.issue.core = core → spared ((s.core core).repairByte sub) = false →
    b.wave? x.wave = some w → x.before.idx = x.wave → w.exitedLanes.getLsbD lane = false → x.before.exitedLanes.getLsbD lane = false →
    s.fetch32 core b.ctx (x.issue.pc + BitVec.ofNat 64 (4 * x.issue.k)) = .ok wd → ∃ (t y : State) (n : Wave),
      exec (.residueReissue core sub phys true) s = .next t ∧ t.blocks = (y.settle x.block).blocks ∧ t.issues = (y.settle x.block).issues ∧
      y.wave? x.block x.wave = some n ∧ n.dead.getLsbD lane = true ∧ (∀ q ∈ n.parts, q.2.mask.getLsbD lane = false) ∧
      (redoOf wd = .again → x.issue ∈ y.issues ∧ n.v = x.before.v ∧ n.s = x.before.s ∧ n.p = x.before.p ∧ n.t = x.before.t ∧
        n.flags = x.before.flags) ∧
      (redoOf wd = .keep → n.s = w.s ∧ n.p = w.p ∧ n.t = w.t ∧ ∀ q l, l < 32 → vLane n.v q l =
        if l = lane ∧ wd.toNat / 2 ^ 17 % 256 ≤ q ∧ q < wd.toNat / 2 ^ 17 % 256 + 8 then vLane x.before.v q l else vLane w.v q l) ∧
      (redoOf wd = .kill → n.v = w.v ∧ n.s = w.s ∧ n.p = w.p ∧ n.t = w.t ∧ n.flags = w.flags)) ∧
  (∀ core col rec s old lane, (s.core core).lastStream = some old →
    arrayCheck ((old.stream.map fun t => s.streamOpcode old t).getD 0) col = .column →
    logicalOf ((s.core core).repairByte 6) 64 col = some lane → ∃ t, exec (.columnRemap core col rec) s = .next t ∧
      (t.core core).replay = satInc (s.core core).replay ∧
      (rec = false → t = s.updCore core fun k => { k with replay := satInc k.replay }) ∧
      (rec = true → spared ((s.core core).repairByte 6) = false →
        (t.core core).repairByte 6 = spareByte ((s.core core).repairByte 6) col ∧ t.rel.errNext = s.rel.errNext + 1 ∧
        t.blocks = s.blocks.map fun b => if b.core = core then { b with spare := some (col, b.slice col) } else b))

/-- R27, R161, R235, R437-R439, R442, R445-R450, R453: abort completions, SRAM words, HBM transfers, log entries, links and the
reset. The lanes of an abort that still wait for the access are in WAVE.DEAD, a load does not write them, a store awaits nothing
more, and a WAITV ends with every lane of its part killed; an abort of an access that is no longer there kills nothing.
Rests on the model's choices of log 3, 17, 22, 42, 44, which are no rules of the spec (the model's choice). -/
def Obligations.ErrorEvents : Prop :=
  (∀ site s, (∀ d, site ≠ .corrected d) → (∀ w i, site ≠ .sram w i) → ∃ t, exec (.abortCompletion site) s = .next t ∧
    t.rel.errorIrq = s.rel.errorIrq + 1 ∧ MemKept s t) ∧
  (∀ b wv acc mask s w m, (∀ k, acc ≠ .waitv k) → s.wave? b wv = some w → m = mask &&& w.openLanes acc → m ≠ 0 →
    ∃ (t : State) (n : Wave), exec (.abortCompletion (.lanes b wv acc mask)) s = .next (t.settle b) ∧ t.wave? b wv = some n ∧
      n.dead = w.dead ||| (m &&& ~~~w.exitedLanes) ∧ n.v = w.v ∧ n.s = w.s ∧ n.p = w.p ∧ n.t = w.t ∧ n.flags = w.flags ∧
      (∀ k, acc = .load k → n.loads = w.loads.map fun l => if l.issued = k then { l with killed := l.killed ||| m } else l) ∧
      ((∀ k, acc ≠ .load k) → n.loads = w.loads) ∧
      (∀ k, acc = .store k → n.acks = w.acks.filter fun x => x.1 != k) ∧ (∀ q ∈ n.parts, ∀ l, m.getLsbD l = true →
        w.exitedLanes.getLsbD l = false → q.2.mask.getLsbD l = false)) ∧
  (∀ b wv k mask s w a p, s.wave? b wv = some w → w.run = .waitv a → a.since = k → w.part? a.part = some p → mask &&& p.mask ≠ 0 →
    ∃ (t : State) (n : Wave), exec (.abortCompletion (.lanes b wv (.waitv k) mask)) s = .next (t.settle b) ∧ t.wave? b wv = some n ∧
      n.dead = w.dead ||| (p.mask &&& ~~~w.exitedLanes) ∧ (n.run = .running ∨ n.run = .exited) ∧ n.v = w.v ∧ n.s = w.s ∧
      n.p = w.p ∧ n.t = w.t ∧ n.loads = w.loads) ∧
  (∀ b wv acc mask s w, s.wave? b wv = some w → mask &&& w.openLanes acc = 0 → ∃ t,
    exec (.abortCompletion (.lanes b wv acc mask)) s = .next t ∧ t.blocks = s.blocks ∧ t.cores = s.cores) ∧
  (∀ (w : Wave) k, (∀ l ∈ w.loads, l.issued ≠ k) → w.openLanes (.load k) = 0) ∧
  (∀ (w : Wave) k lane, (w.openLanes (.load k)).getLsbD lane = true ↔ lane < 32 ∧ ∃ l ∈ w.loads, l.issued = k ∧
    ((∃ e ∈ l.data, e.1 = lane) ∨ ∃ e ∈ l.waits, e.1 = lane)) ∧
  (∀ b wv part k s w p, s.wave? b wv = some w → (∀ h, w.run ≠ .entering h) → w.part? part = some p → w.openPart part k = true →
    ∃ (t : State) (n : Wave), exec (.abortCompletion (.part b wv part k)) s = .next (t.settle b) ∧ t.wave? b wv = some n ∧
      n.dead = w.dead ||| (p.mask &&& ~~~w.exitedLanes) ∧ n.v = w.v ∧ n.s = w.s ∧
      n.loads = w.loads.map fun l => if l.part = part ∧ l.issued = k then { l with killed := l.killed ||| p.mask } else l) ∧
  (∀ core s j, s.copyHead core = some j → ∃ t, exec (.abortCompletion (.copy core)) s = .next t ∧
    (t.core core).copies.find? (fun y => y.seq == j.seq) = ((s.core core).copies.find? fun y => y.seq == j.seq).map
      fun y => { y with failedNow := true }) ∧
  (∀ d s, d ≤ 8 → ∃ t, exec (.abortCompletion (.corrected d)) s = .next t ∧ t.rel.errNext = s.rel.errNext ∧ MemKept s t ∧
    t.blocks = s.blocks ∧ (∀ k, getAt 0 t.rel.die k = if k = 4 * d + 1 then satInc (getAt 0 s.rel.die k) else getAt 0 s.rel.die k)) ∧
  (∀ w i s, ∃ t, exec (.abortCompletion (.sram w i)) s = .next t ∧ t.rel.errNext = s.rel.errNext + 1 ∧ t.dram = s.dram ∧
    t.hostMem = s.hostMem ∧ ∀ k, getAt 0 t.rel.die k =
      if k = 4 * (sramPlace s w).2.1.source + 2 then satInc (getAt 0 s.rel.die k) else getAt 0 s.rel.die k) ∧
  (∀ line word i s x, s.l2.find? (fun y => y.line == line) = some x → word < 16 → ∃ t,
    exec (.abortCompletion (.sram (.l2 line word) i)) s = .next t ∧ t.blocks = s.blocks ∧ t.rel.errorIrq = s.rel.errorIrq ∧
    (x.dirty.getLsbD (word / 8) = false → t.mem = s.mem ∧ t.rel.badBytes = s.rel.badBytes) ∧
    (x.dirty.getLsbD (word / 8) = true → getRun 0 t.mem (128 * line + 8 * word) 8 = getRun 0 s.dram (128 * line + 8 * word) 8 ∧
      ∀ a, a / 8 = 16 * line + word → a ∈ t.rel.badBytes)) ∧
  (∀ core cx line i s, ∃ t, exec (.abortCompletion (.sram (.icache core cx line) i)) s = .next t ∧
    t.icHas core cx line = false ∧ t.rel.errorIrq = s.rel.errorIrq ∧ t.blocks = s.blocks ∧ MemKept s t) ∧
  (∀ l s y, s.launch? l = some y → y.started = false → ∃ t, exec (.abortCompletion (.launch l)) s = .next t ∧
    t.launch? l = some { y with status := some 4, checking := false }) ∧
  (∀ u s b m, s.block? u = some b → b.halt = none → b.stream = some m → m.run ≠ .ended → ∃ t h,
    exec (.abortCompletion (.stream u)) s = .next t ∧ t.block? u = some { b with halt := some h } ∧ h.cause = 10 ∧ h.wave = 0xFE) ∧
  (∀ pa x s, pa < 2 ^ 40 → s.groupFenced pa = false → ∃ t, exec (.hbmReadTransfer pa x) s = .next t ∧ MemKept s t ∧
    t.blocks = s.blocks ∧ ∀ a, (a ∈ t.rel.badBytes ↔ if pa / 64 * 64 ≤ a ∧ a < pa / 64 * 64 + 64 ∧ s.halfDirty pa = false
      then 5 ≤ (s.onLanes pa x).fails ∨ x.uncorrectable = true else a ∈ s.rel.badBytes) ∧
      (a ∈ t.rel.badCells ↔ if pa / 64 * 64 ≤ a ∧ a < pa / 64 * 64 + 64
        then 5 ≤ (s.onLanes pa x).fails ∨ x.uncorrectable = true else a ∈ s.rel.badCells)) ∧
  (∀ pa x (s : State), (burstLane x = none ∨ ∀ i, repairValid s.rel.repairs i = true → repairKind s.rel.repairs i ≠ 5) →
    s.onLanes pa x = x) ∧
  (∀ pa a x s, pa < 2 ^ 40 → s.groupFenced pa = false → a = pa / 64 * 64 → ∃ t, exec (.hbmWriteTransfer pa x) s = .next t ∧
    t.blocks = s.blocks ∧ (∀ e ∈ t.rel.writes, e.1 ≠ a) ∧
    ((s.onLanes pa x).fails < 5 → t.mem = s.mem ∧ (∀ o, getAt 0 t.dram o = if a ≤ o ∧ o < a + 64 then getAt 0 s.mem o else getAt 0 s.dram o) ∧
      ∀ o, o / 64 = a / 64 → o ∉ t.rel.badBytes ∧ o ∉ t.rel.badCells) ∧
    (5 ≤ (s.onLanes pa x).fails → (s.halfDirty a = true ∨ ∀ e ∈ s.rel.writes, e.1 ≠ a) → (∀ o, getAt 0 t.dram o = getAt 0 s.dram o) ∧
      (∀ o, getAt 0 t.mem o = if a ≤ o ∧ o < a + 64 then getAt 0 s.dram o else getAt 0 s.mem o) ∧
      ∀ o, o / 64 = a / 64 → (o ∈ t.rel.badBytes ↔ o ∈ s.rel.badCells)) ∧
    (∀ e, 5 ≤ (s.onLanes pa x).fails → s.halfDirty a = false → s.rel.writes.find? (fun e => e.1 == a) = some e → e.2.1.length = 64 →
      ∀ o, getAt 0 t.dram o = (if a ≤ o ∧ o < a + 64 then e.2.1.getD (o - a) 0 else getAt 0 s.dram o) ∧
        getAt 0 t.mem o = if a ≤ o ∧ o < a + 64 then e.2.1.getD (o - a) 0 else getAt 0 s.mem o)) ∧
  (∀ kind num s, 1 ≤ kind → kind ≤ 3 → ∃ t, exec (.linkDown kind num) s = .next t ∧ t.rel.errNext = s.rel.errNext + 1 ∧
    (kind = 1 → (t.port num).up = false) ∧
    t.blocks = s.blocks ∧ MemKept s t) ∧
  (∀ core j s e w r, (s.core core).mchk[j]? = some e → e = w :: r → ∃ t, exec (.mchkEntryFree core j) s = .next t ∧
    (t.core core).mchk[j]? = some ((w &&& 0x7FFFFFFF) :: r) ∧ (∀ k, k ≠ j → (t.core core).mchk[k]? = (s.core core).mchk[k]?) ∧
    OutsideKept s t) ∧
  (∀ st x j s, st < 16 → j < 64 → ∃ t, exec (.logEntryFree st x j) s = .next t ∧
    (∀ k, getAt 0 (t.logWords x) k = if k = 256 * st + 4 * j then getAt 0 (s.logWords x) k &&& 0x7FFFFFFF
      else getAt 0 (s.logWords x) k) ∧ t.logWords (!x) = s.logWords (!x)) ∧
  (∀ s, ∃ t, exec .reset s = .next t ∧ t.blocks = [] ∧ t.launches = [] ∧ t.ctxs = [] ∧ t.queues = [] ∧ t.issues = [] ∧ t.l1 = [] ∧
    t.rel.frozen = false ∧ t.rel.errLog = s.rel.errLog ∧ t.rel.errNext = s.rel.errNext ∧ t.hostMem = s.hostMem ∧
    t.mgmt.running = s.mgmt.running ∧ t.mgmt.freezeMask = 0 ∧ t.mgmt.svTimeout = 20 ∧ t.mgmt.recLim = 8 ∧ t.mgmt.reqLim = 16 ∧
    ∀ k, getAt 0 t.rel.repairs k ≠ 0 → getAt 0 t.rel.repairs k = getAt 0 s.rel.repairs k)

/-- R176, R191, R293-R298, R302, R318, R319, R337, R470: what the host writes. A launch packet is entered in its queue with
the next sequence number, and the status that the checks find, or discarded and counted; a RESUME restores each wave its
handle names from its save area, or is discarded and counted; QOWN assigns an idle queue; a slot's bytes are kept until a
write to word 63 commits the slot; the ring and the MSI-X table take words, and offsets that are not listed none; a PCIe
write changes the bytes it names, in the HBM4E too, and leaves no L2 line of them. What BAR0 reads as.
Rests on the model's choices of log 14, 15 and 50, which are no rules of the spec (the model's choice). -/
def Obligations.HostWrites : Prop :=
  (∀ ap ws s x, ap < 16 → ws.length ≤ 64 → isResume ws = false → s.ctx? (pktCtx ws) = some x → s.owns (pktCtx ws) ap = true →
    x.phase ≠ .resetting → (s.queued ap).length < 1024 → (∀ y ∈ s.launches, y.uid ≠ s.nextUid) →
    ∃ t l, exec (.launchPacket ap ws) s = .next t ∧
      t.launches = s.launches ++ [l] ∧ l.uid = s.nextUid ∧ l.queue = ap ∧ l.ctx = pktCtx ws ∧ l.packet = ws ∧
      l.seq = (s.queue ap).next ∧ l.started = false ∧ l.live = pktBlocks ws ∧ l.waitDone = !pktWait ws ∧
      t.queue ap = { s.queue ap with next := (s.queue ap).next + 1 } ∧ MemKept s t ∧ t.blocks = s.blocks ∧
      (s.packetOk ws = false → l.status = some 5) ∧
      (s.packetOk ws = true → (pktClass ws ≠ 0 ∧ pktSetCount ws ≠ 0) ∨ (pktFiller ws = true ∧ pktClass ws ≠ 2) ∨ 256 < pktSetCount ws →
        l.status = some 6) ∧
      (s.packetOk ws = true → pktSetCount ws = 0 → (pktFiller ws = true → pktClass ws = 2) →
        l.status = (if declOk (pktDecl ws) = false then some 7 else if pktRsv ws = true ∧ s.relaunchOk x ws = false then some 5
          else if pktBlocks ws = 0 then some 1 else none) ∧ l.sets = [] ∧ l.checking = false)) ∧
  (∀ ap ws s, ap < 16 → ws.length ≤ 64 → isResume ws = false → (∀ x, s.ctx? (pktCtx ws) = some x →
      s.owns (pktCtx ws) ap = false ∨ x.phase = .resetting ∨ 1024 ≤ (s.queued ap).length) → ∃ t,
    exec (.launchPacket ap ws) s = .next t ∧ t.queue ap = { s.queue ap with drops := satInc (s.queue ap).drops } ∧
      t.launches = s.launches ∧ t.blocks = s.blocks ∧ MemKept s t) ∧
  (∀ ap ws s, ap < 16 → ws.length ≤ 64 → isResume ws = true → s.named (pktCtx ws) (pa64 ws 2) = none → ∃ t,
    exec (.resume ap ws) s = .next t ∧ t.queue ap = { s.queue ap with drops := satInc (s.queue ap).drops } ∧
      t.launches = s.launches ∧ t.blocks = s.blocks ∧ MemKept s t) ∧
  (∀ ap (ws : List Word) s x b w f, ap < 16 → ws.length ≤ 64 → pw ws 0 = 0x4B520001 → pf ws 1 0 26 = 0 →
    ((ws.drop 4).all fun v => v == 0) = true → s.owns (pktCtx ws) ap = true → s.ctx? (pktCtx ws) = some x →
    s.named (pktCtx ws) (pa64 ws 2) = some (.wave b w f) → s.block? b.uid = some b → b.wave? w.idx = some w →
    (∀ a, b.halt = none → s.goodArea x b.decl f = some a → ∃ s1 : State, exec (.resume ap ws) s = .next (s1.settle b.uid) ∧
      s1.wave? b.uid w.idx = some ((w.restore b.decl a).takeArgs (some ((s.readArgs w).getD (0, [])))) ∧
      s1.ctx? (pktCtx ws) = some { x with usedFrames := x.usedFrames.filter fun g => g != f } ∧
      s1.queues = s.queues ∧ s1.mem = s.mem ∧ s1.hostMem = s.hostMem) ∧
    (b.halt = none → s.goodArea x b.decl f = none → ∃ t y h, exec (.resume ap ws) s = .next t ∧ t.block? b.uid = some y ∧
      y.halt = some h ∧ h.cause = 6 ∧ h.reason = 9 ∧ MemKept s t) ∧
    (b.halt ≠ none → exec (.resume ap ws) s = .next (s.updWaveAll b.uid w.idx fun v =>
      { v with args := some ((s.readArgs w).getD (0, [])) }))) ∧
  (∀ ap (ws : List Word) s x b h, ap < 16 → ws.length ≤ 64 → pw ws 0 = 0x4B520001 → pf ws 1 0 26 = 0 →
    ((ws.drop 4).all fun v => v == 0) = true → s.owns (pktCtx ws) ap = true → s.ctx? (pktCtx ws) = some x →
    s.named (pktCtx ws) (pa64 ws 2) = some (.block b h) → (∀ e ∈ b.toRestore h, (s.goodArea x b.decl e.2).isSome = true) →
    s.block? b.uid = some b → ∃ (s2 : State) (y : Block), exec (.resume ap ws) s = .next ((s2.settle b.uid).checkpoint b.core b.uid 0xFF false true) ∧
      s2.block? b.uid = some y ∧ y.halt = none ∧ s2.queues = s.queues ∧ s2.mem = s.mem ∧ s2.hostMem = s.hostMem ∧
      (∀ i w, b.wave? i = some w → (∀ e ∈ b.toRestore h, e.1 ≠ i) → y.wave? i = some w) ∧
      (∀ i w f a, b.wave? i = some w → (b.toRestore h).find? (fun e => e.1 == i) = some (i, f) → s.goodArea x b.decl f = some a →
        y.wave? i = some ((w.restore b.decl a).takeArgs w.args)) ∧
      s2.ctx? (pktCtx ws) = some { x with usedFrames := x.usedFrames.filter fun g => !(b.toRestore h).any fun e => e.2 == g }) ∧
  (∀ (w : Wave) (d : Decl) (a : List Byte), a.length = saveSize d →
    (∀ k, k < 32 * d.vregs → getAt 0 (w.restore d a).v k = areaWord a (0x140 + 4 * k)) ∧
    (∀ k, k < d.sregs → getAt 0 (w.restore d a).s k = areaWord a (0x140 + 128 * d.vregs + 4 * k)) ∧
    (∀ k, k < 15 → getAt 0 (w.restore d a).p k = areaWord a (0x140 + 128 * d.vregs + 4 * d.sregs + 4 * k)) ∧
    (w.restore d a).dead = areaWord a 8 ∧ (w.restore d a).flags = (areaWord a 0xC).extractLsb' 0 6 ∧
    (w.restore d a).step = areaWord a 0x40 ∧ (w.restore d a).lastSeq = areaWord a 0x44) ∧
  (∀ q v s, q < 16 → s.queued q = [] → ∃ t, exec (.qownWrite q v) s = .next t ∧ MemKept s t ∧ t.blocks = s.blocks ∧
    t.queue q = { id := q, valid := v.getLsbD 7, ctx := (v.extractLsb' 0 6).toNat, next := 1, drops := 0,
                  assign := (s.queue q).assign + 1 } ∧ ∀ p, p ≠ q → t.queue p = s.queue p) ∧
  (∀ q v s, 16 ≤ q ∨ s.queued q ≠ [] → exec (.qownWrite q v) s = .next s) ∧
  (∀ off v s, off < 0x10000 → off % 256 + 3 < 0xFC → exec (.registerWrite off v) s = .next { s with slots := slotsWith s.slots off v }) ∧
  (∀ off v s, off < 0x10000 → 0xFC ≤ off % 256 + 3 → ∃ u, exec (.registerWrite off v) s =
      .next (State.commit u (off / 4096) (getRun 0 (slotsWith s.slots off v) (off / 256 * 64) 64)) ∧ u = { s with slots := u.slots } ∧
    ∀ k, getAt 0 u.slots k = if off / 256 * 64 ≤ k ∧ k < off / 256 * 64 + 64 then 0 else getAt 0 (slotsWith s.slots off v) k) ∧
  (∀ m off v k j, off < 0x10000 → j < 4 → 4 * k + j < 0x10000 → (getAt 0 (slotsWith m off v) k).extractLsb' (8 * j) 8 =
    if off ≤ 4 * k + j ∧ 4 * k + j < off + 4 then v.extractLsb' (8 * (4 * k + j - off)) 8 else (getAt 0 m k).extractLsb' (8 * j) 8) ∧
  (∀ q v s, q < 16 → exec (.registerWrite (0x10000 + 64 * q) v) s = exec (.qownWrite q v) s) ∧
  (∀ c r x v s, c < 64 → r < 16 → s.ctx? c = some x → ∃ t, exec (.registerWrite (0x20000 + 64 * c + 4 * r) v) s = .next t ∧
    t.ctx? c = some { x with
      rbase := if r = 0 then x.rbase.extractLsb' 32 32 ++ v else if r = 1 then v ++ x.rbase.extractLsb' 0 32 else x.rbase
      rsize := if r = 2 then v.extractLsb' 0 5 else x.rsize
      rcons := if r = 4 then v else x.rcons } ∧ MemKept s t ∧ t.blocks = s.blocks) ∧
  (∀ off v s, 0x30000 ≤ off → off < 0x38000 → off % 4 = 0 → ∃ t, exec (.registerWrite off v) s = .next t ∧
    t = { s with msix := t.msix, pba := t.pba } ∧
    (∀ k, t.msixWord k = if k = (off - 0x30000) / 4 then v else s.msixWord k) ∧
    ∀ n, getAt false t.pba n = (getAt false s.pba n && !(decide (off = 0x30000 + 16 * n + 12) && !v.getLsbD 0))) ∧
  (∀ off v s, 0x10000 ≤ off → off % 4 ≠ 0 ∨ (off < 0x20000 ∧ (0x10400 ≤ off ∨ off % 64 ≠ 0)) ∨
    (0x21000 ≤ off ∧ off < 0x30000) ∨ 0x38000 ≤ off → exec (.registerWrite off v) s = .next s) ∧
  (∀ pa (data : List Byte) s, pa + data.length ≤ 2 ^ 40 → (∀ a, pa ≤ a → a < pa + data.length → s.groupFenced a = false) →
    ∃ t, exec (.hostWrite pa data) s = .next t ∧ t.blocks = s.blocks ∧ t.hostMem = s.hostMem ∧
    (∀ a, getAt 0 t.mem a = if pa ≤ a ∧ a < pa + data.length then data.getD (a - pa) 0 else getAt 0 s.mem a) ∧
    (∀ a, pa ≤ a → a < pa + data.length → getAt 0 t.dram a = data.getD (a - pa) 0 ∧ a ∉ t.rel.badBytes ∧
      ∀ x ∈ t.l2, x.line ≠ a / 128) ∧
    (∀ a, ¬ (pa ≤ a ∧ a < pa + data.length) → getAt 0 t.dram a = getAt 0 s.dram a ∨ getAt 0 t.dram a = getAt 0 s.mem a)) ∧
  (∀ pa (data : List Byte) s, 2 ^ 40 < pa + data.length → exec (.hostWrite pa data) s = .next s) ∧
  (∀ (s : State) q, q < 16 → (∀ off, off < 0x10000 → s.bar0Read off = 0) ∧
    s.bar0Read (0x10000 + 64 * q) = BitVec.ofNat 32 ((if (s.queue q).valid then 128 else 0) + (s.queue q).ctx % 64) ∧
    s.bar0Read (0x10000 + 64 * q + 4) = BitVec.ofNat 32 ((if (s.queued q).length = 0 then 0 else 2 ^ 31) + (s.queued q).length % 2048) ∧
    s.bar0Read (0x10000 + 64 * q + 8) = (s.queue q).next ∧ s.bar0Read (0x10000 + 64 * q + 12) = (s.queue q).drops)

/-- R152, R254, R299, R302-R305, R307-R309, R312: a launch from its queue's head to its record. A block's waves start with
V, P and T registers of 0, the launch's values in S0-S6, every lane live at the entry point. A block's end writes its core's
dirty L1 lines back, and comes once what of that went to another device is acknowledged (R213).
How many steal requests have been answered with none since the last one is a free value (log 2, the model's choice). -/
def Obligations.LaunchEvents : Prop :=
  (∀ (s : State) (core : Nat) (l : Launch) (idx : Nat), ∀ w ∈ s.startWaves core l idx, w.idx < pktWaves l.packet ∧ w.sub = w.idx % 6 ∧
    (∀ k i, vLane w.v k i = 0) ∧ w.p = [] ∧ w.t = [] ∧ w.flags = 0 ∧ w.dead = 0 ∧ w.step = 0 ∧ w.starve = 1024 ∧
    w.getS 0 = (pktArgs l.packet).extractLsb' 0 32 ∧ w.getS 1 = (pktArgs l.packet).extractLsb' 32 32 ∧
    w.getS 2 = BitVec.ofNat 32 idx ∧ w.getS 3 = BitVec.ofNat 32 w.idx ∧ w.getS 4 = BitVec.ofNat 32 l.live ∧
    w.getS 5 = BitVec.ofNat 32 l.ctx ∧ w.getS 6 = l.seq ∧ (∀ k, 6 < k → w.getS k = 0) ∧ w.run = .running ∧
    w.part? 0 = some { pc := pktEntry l.packet, word := 0, mask := 0xFFFFFFFF, rho := 0, stack := [], wait := .none } ∧
    w.part? 1 = none ∧ w.part? 2 = none ∧ w.part? 3 = none ∧ w.part? 4 = none) ∧
  (∀ q s l x, s.headOf q = some l → s.launch? l.uid = some l → s.dispatchPick = some x → x.uid = l.uid →
    (pktClass l.packet ≠ 0 → ∃ t, exec (.launchStart q) s = .next t ∧ t.launch? l.uid = some { l with started := true } ∧
      t.blocks = s.blocks ∧ MemKept s t) ∧
    (∀ cores, pktClass l.packet = 0 → s.reservation l = some cores → ∃ t, exec (.launchStart q) s = .next t ∧
      t.launch? l.uid = some { l with started := true, reserved := cores } ∧ t.blocks = s.blocks ∧ MemKept s t) ∧
    (pktClass l.packet = 0 → s.reservation l = none → ∃ t, exec (.launchStart q) s = .next t ∧
      t.launch? l.uid = some { l with status := some 2 } ∧ t.blocks = s.blocks ∧ MemKept s t)) ∧
  (∀ q s l pa pol, s.headOf q = some l → s.launch? l.uid = some l → s.headFree l = true → l.waitDone = false →
    inAperture (pktWaddr l.packet) = false → s.isBad pa 4 = false →
    s.translate 768 l.ctx { r := true } (pktWaddr l.packet) = .ok { space := .here, pa := pa, policy := pol } →
    ∃ t, exec (.memoryWaitReread q) s = .next t ∧ t.blocks = s.blocks ∧ MemKept s t ∧ t.launch? l.uid =
      some { l with
        waitDone := waitCmp (pktCmp l.packet) (s.mem32 pa) (pw l.packet 21)
        lastRead := some s.now
        waitSeen := s.lineStamp (pa / 128) }) ∧
  (∀ s l c, s.dispatchPick = some l → s.launch? l.uid = some l → l.started = true → s.cutState l l.takeIdx.1 ≠ 2 →
    pktClass l.packet ≠ 0 → s.engineFor l = some c → ∃ t, exec .dispatchBlock s = .next t ∧
      (t.core c).pending = (s.core c).pending ++ [(l.uid, l.takeIdx.1)] ∧ t.launch? l.uid = some l.takeIdx.2 ∧
      t.blocks = s.blocks ∧ MemKept s t) ∧
  (∀ s l, s.dispatchPick = some l → s.launch? l.uid = some l → l.started = true → s.cutState l l.takeIdx.1 = 0 →
    pktClass l.packet = 0 → (∀ b ∈ s.blocks, b.uid ≠ s.nextUid) → ∃ t b, exec .dispatchBlock s = .next t ∧
      t.block? s.nextUid = some b ∧ b.core = l.reserved.getD l.takeIdx.1 0 ∧ b.index = l.takeIdx.1 ∧ b.launch = l.uid ∧
      b.ctx = l.ctx ∧ b.waves = s.startWaves b.core l b.index ∧ t.launch? l.uid = some l.takeIdx.2 ∧ t.mem = s.mem) ∧
  (∀ core s e l, s.nextPending core = some e → s.launch? e.1 = some l → s.cutState l e.2 ≠ 1 →
    (∀ b ∈ s.blocks, b.uid ≠ s.nextUid) → ∃ t b, exec (.blockStart core) s = .next t ∧ t.block? s.nextUid = some b ∧
      b.core = core ∧ b.index = e.2 ∧ b.launch = l.uid ∧ b.ctx = l.ctx ∧ b.waves = s.startWaves core l e.2 ∧ b.bmem = [] ∧
      b.win = [] ∧ b.tiles = [] ∧ b.tokens = [] ∧ b.bars = [] ∧ b.chans = [] ∧ b.stream = startStream l e.2 s.now ∧
      (t.core core).pending = (s.core core).pending.erase e ∧ t.mem = s.mem) ∧
  (∀ core (s : State) e l, s.launch? e.1 = some l → s.mayTake core e = (pktDies l.packet).getLsbD (dieOf core)) ∧
  (∀ core s, core < 768 → s.coreIdle core = true → ∀ v,
    stealVictim core 65536 (stealSkip core (Config.freeSteals s.free) (s.core core).lfsr) = v → v.1 ≠ core → ∃ t, exec (.stealRequest core) s = .next t ∧ (t.core core).lfsr = v.2 ∧ t.blocks = s.blocks ∧ MemKept s t ∧
      t.free = s.free + 1 ∧ match (s.pendingOrder v.1).reverse.find? (s.mayTake core) with
      | none => (t.core core).pending = (s.core core).pending ∧ (t.core v.1).pending = (s.core v.1).pending
      | some e => (t.core core).pending = (s.core core).pending ++ [e] ∧ (t.core v.1).pending = (s.core v.1).pending.erase e) ∧
  (∀ u s x, s.block? u = some x → s.blockDrained x = true →
    (releaseWhatCan s (s.l1Of x.core x.ctx)).evicting x.core x.ctx = true → ∃ t, exec (.blockEnd u) s = .next t ∧ t.blocks = s.blocks ∧
      t.launches = s.launches) ∧
  (∀ u s x l, s.block? u = some x → s.blockDrained x = true → s.launch? x.launch = some l →
    (releaseWhatCan s (s.l1Of x.core x.ctx)).evicting x.core x.ctx = false → ∃ t l', exec (.blockEnd u) s = .next t ∧
    t.block? u = none ∧ t.launch? x.launch = some l' ∧ l'.ended = l.ended + 1 ∧ l'.ran = l.ran + 1 ∧ l'.live = l.live ∧
    (∀ b ∈ t.blocks, b ∈ s.blocks) ∧ ((∀ y ∈ s.l1, y.core = x.core → y.ctx = x.ctx → y.dirty = 0) → t.hostMem = s.hostMem ∧
      t.mem = s.mem ∧ t.dram = s.dram)) ∧
  (∀ l s x, s.launch? l = some x → s.launchDone x = true → ∃ t, exec (.launchComplete l) s = .next t ∧ t.launch? l = none ∧
    t.blocks = s.blocks ∧ ∀ pa pol, pktRec x.packet ≠ 0 → canonical (pktRec x.packet) = true →
      inAperture (pktRec x.packet) = false → s.rel.fencedGroups = [] →
      s.translate 768 x.ctx { w := true } (pktRec x.packet) = .ok { space := .here, pa := pa, policy := pol } →
      getRun 0 t.mem pa 8 = leBytes 4 (if x.cutDone then 8 else x.status.getD 1) ++ leBytes 4 x.seq.toNat ∧
      t.raised = if pktIrq x.packet then s.raised ++ [32 * x.ctx + 1 + x.queue] else s.raised)

/-- R172, R189, R318, R329-R332, R336, R339, R342, R345, R346: a TRAP parks its wave in the lowest free frame and its request
entry enters the ring; a halted block's waves are signalled, a wave held at a FENCE put back at it, saved and recorded; a deadline resets the context; a cut's
reports are gathered and its grid ends. What a release or a cut writes back to another device is acknowledged first (R213).
Rests on the model's choices of log 40, and the ages and deadline counts on log 1 (the count of time), which are no rules of
the spec (the model's choice). -/
def Obligations.TrapAndCutEvents : Prop :=
  (∀ cx s x b w k code m d n s1, s.ctx? cx = some x → s.trapper cx = some (b, w) →
    w.run = .trapping k code m d n false → s.releaseL1 b.core b.ctx = .ok s1 → exec (.pocketFrameGrant cx) s =
      .next (if s1.evicting b.core b.ctx then s1
        else s1.updWave b.uid w.idx fun w => { w with run := .trapping k code m d n true })) ∧
  (∀ cx s x b w k code m d n f, s.ctx? cx = some x → s.trapper cx = some (b, w) → s.wave? b.uid w.idx = some w →
    w.run = .trapping k code m d n true → (freeFrameList x).head? = some f →
    ∃ t y r v, r.getD 0 0 = 1 ∧ r.getD 6 0 = m ∧ r.getD 7 0 = d ∧ r.getD 8 0 = BitVec.ofNat 32 b.index ∧ r.length = 256 ∧ exec (.pocketFrameGrant cx) s = .next t ∧ t.ctx? cx = some y ∧ y.nextHandle = x.nextHandle + 1 ∧
      y.usedFrames = f :: x.usedFrames ∧ y.entryWait = x.entryWait ++ [(x.nextHandle, r)] ∧ f ∉ x.usedFrames ∧ f < x.frames ∧
      (∀ g, g < f → g ∈ x.usedFrames) ∧ t.wave? b.uid w.idx = some v ∧ v.run = .parked x.nextHandle f ∧ v.v = w.v ∧ v.s = w.s) ∧
  (∀ cx s x h r rest, s.ctx? cx = some x → x.entryWait = (h, r) :: rest → x.ringRoom = true → r.length = 256 →
    ∃ t, exec (.requestEntryWrite cx) s = .next t ∧ t.ctx? cx = some { x with entryWait := rest, rprod := x.rprod + 1 } ∧
      t.raised = s.raised ++ [32 * cx] ∧ t.mem = s.mem ∧ getRun 0 t.hostMem x.ringNext 1024 = wordsBytes r ∧
      ∀ a, (a < x.ringNext ∨ x.ringNext + 1024 ≤ a) → getAt 0 t.hostMem a = getAt 0 s.hostMem a) ∧
  (∀ u s b h, s.block? u = some b → b.halt = some h → h.signalled = false → h.born < s.now → ∃ t, exec (.blockHalt u) s = .next t ∧
    t.block? u = some { b with waves := b.waves.map Wave.signal, halt := some { h with signalled := true }, stuckSince := none } ∧
    OutsideKept s t) ∧
  (∀ u s b h x, s.block? u = some b → b.halt = some h → h.saved = false → s.haltDone b h = true → s.ctx? b.ctx = some x →
    h.cause ≠ 13 → x.nextHandle ≠ 0 → (∀ w ∈ b.waves, ∀ k f, w.run ≠ .parked k f) →
    (b.waves.filter Wave.toSave).length ≤ (freeFrameList x).length → ∃ t y fr b0, (s.rewindHeld b).block? u = some b0 ∧
      exec (.haltSave u) s = .next t ∧
      fr.map Prod.fst = (b.waves.filter Wave.toSave).map (fun w => w.idx) ∧ (∀ e ∈ fr, e.2 ∉ x.usedFrames ∧ e.2 < x.frames) ∧
      t.block? u = some { b0 with halt := some { h with saved := true, frames := fr, handle := x.nextHandle } } ∧
      t.ctx? b.ctx = some y ∧ y.usedFrames = x.usedFrames ++ fr.map Prod.snd ∧ y.nextHandle = x.nextHandle + 1 ∧
      y.trapWait = x.trapWait ++ [(some u, trapRecord (s.launch? b0.launch) b0 h false fr x.nextHandle)] ∧ t.hostMem = s.hostMem) ∧
  (∀ u (s : State) (b : Block) (w : Wave) h0 p, s.block? u = some b → b.wave? w.idx = some w → w.held? = some h0 → w.part? h0.part = some p →
    (∀ v ∈ b.waves, v.idx = w.idx → v = w) → ∃ v, (s.rewindHeld b).wave? u w.idx = some v ∧ v.run = .running ∧ RegsKept w v ∧
      v.part? h0.part = some { p with pc := (h0.pos.extractLsb' 0 55).signExtend 64, word := h0.pos.toNat / 2 ^ 60 }) ∧
  (∀ cx s x u r rest b h, s.ctx? cx = some x → x.trapWait = (some u, r) :: rest → s.trapRoom x = true → s.block? u = some b →
    b.halt = some h → s.rel.fencedGroups = [] → ∃ t, exec (.trapRecordWrite cx) s = .next t ∧
      t.ctx? cx = some { x with trapWait := rest } ∧ t.raised = s.raised ++ [32 * cx + 17] ∧
      t.block? u = some { b with halt := some { h with recorded := true } } ∧ t.hostMem = s.hostMem ∧
      t.mem32 x.trapArea.toNat = s.mem32 x.trapArea.toNat + 1) ∧
  (∀ core cx s, s.deadlinePassed core cx = true → ∃ t, exec (.deadlineExpire core cx) s = .next t ∧
    ∀ y, t.ctx? cx = some y → y.phase = .preempted ∧ y.timers = [] ∧ y.entryWait = []) ∧
  (∀ core cx s, s.deadlinePassed core cx = false → exec (.deadlineExpire core cx) s = .next s) ∧
  (∀ l s x n, s.launch? l = some x → x.cut = some n → ∃ t, exec (.cutReport l) s = .next t ∧
    t.launch? l = some { x with cut := some (s.cutTarget x) } ∧ MemKept s t ∧
    ∀ u b w i k, s.block? u = some b → b.launch = l → b.wave? i = some w → w.run = .held k → t.wave? u i =
      some (if s.aged b.core k = true ∧ w.step.toNat < s.cutTarget x then { w with run := .running } else w)) ∧
  (∀ l s x n c, s.launch? l = some x → x.cut = some n → s.ctx? x.ctx = some c → s.cutReady x = true →
    (∀ b ∈ s.blocks, b.launch = l → ((s.blocks.filter fun b => b.launch == l).foldl (fun s b =>
      releaseWhatCan s (s.l1Of b.core b.ctx)) s).evicting b.core b.ctx = false) → ∃ t y,
    exec (.cutComplete l) s = .next t ∧ t.launch? l = some y ∧ y.cutDone = true ∧ (∀ b ∈ t.blocks, b.launch ≠ l) ∧
    (∀ b ∈ s.blocks, (∀ x ∈ s.blocks, x.uid = b.uid → x.launch ≠ l) → b ∈ t.blocks) ∧
    ((∀ y ∈ s.l1, y.dirty = 0) → t.hostMem = s.hostMem))

namespace Sys2Proof.Claims

open Sys2Proof Sys2Proof.Machine

/-- A flit of type `typ` that is not for the link alone comes in on port `port` as the next in sequence, and the device
takes it while nothing waits to be sent and no path of a packet that is over is kept (R362, R367, R451). -/
structure TakesFlit (s : State) (port : Nat) (f : Flit) (typ : Nat) : Prop where
  arrives : s.arrives port f typ = true
  next : f.lseq = (s.port port).expect
  quiet : s.sv.egress = []
  paths : ∀ e ∈ s.sv.paths, (e.1.longClass 0).isSome = true

/-- The answer of type `typ` to a request has been put on a link, waits to be, or has no path: the requester has no route,
the route's port is down, or the way to one of its alternates is none (R361-R363). -/
def Answered (t : State) (f : Flit) (typ : BitVec 4) (sec : Nat) (payload : List Byte) : Prop :=
  let mine (g : Flit) : Prop := g.typ = typ ∧ g.dst = f.src ∧ g.tagIdx = f.tagIdx ∧ g.tagGen = f.tagGen ∧ g.sec = BitVec.ofNat 2 sec ∧
    g.payload = payload
  (∃ q ∈ t.sv.egress, mine q.flit) ∨ (∃ p ∈ t.sv.ports, ∃ g ∈ p.tx, mine g) ∨ rtValid (t.route f.src.toNat) = false ∨
    (t.port (rtPort (t.route f.src.toNat))).up = false ∨
    (∃ j, j < 8 ∧ rtAlt (t.route f.src.toNat) j ≠ 1023 ∧ rtValid (t.route (rtAlt (t.route f.src.toNat) j)) = false)

/-- The request passes every check of R379 at an address whose group is in service. -/
structure Admitted (s : State) (f : Flit) (bit n : Nat) : Prop where
  format : formatBad f = false
  ingress : s.ingress f bit (some (payNat f 8 8, n)) = none
  served : s.groupFenced (payNat f 8 8) = false

end Sys2Proof.Claims

/-- R359, R361-R369, R384: the links. A port trains with the neighbour it leads to and no other; NULL returns credits; limits
come by LEND, whose epoch goes back; a NAK repeats what was sent with the epoch applied by now, a bad CRC asks for it; an arriving flit goes on with
one hop more, or waits for the port chosen then; one out of sequence is discarded with what it carries; a round shares the
slots; a flit that has waited 2^19 cycles is dropped; the bytes of a flit are read back as the flit, and the CRC is that of all
the bytes received.
Rests on the model's choices of log 1, 34, 47 and 52, which are no rules of the spec (the model's choice). -/
def Obligations.LinkEvents : Prop :=
  (∀ port peer pp s, port < 32 → (s.port port).fenced = false → s.sv.egress = [] → neighbour s.own port = some peer →
    pp = portTo peer s.own → ∃ t, exec (.linkTraining port peer pp) s = .next t ∧ (t.port port).up = true ∧
      (t.port port).peer = peer ∧ (∀ v, v < 8 → (t.port port).limits.getD v 0 = 64 ∧ (t.port port).outst.getD v 0 = 0) ∧
      (t.port port).expect = 0 ∧ (t.port port).sendSeq = 0 ∧ t.blocks = s.blocks ∧ MemKept s t) ∧
  (∀ port peer pp s, port < 32 → (s.port port).fenced = false → ¬ (neighbour s.own port = some peer ∧ pp = portTo peer s.own) →
    ∃ t, exec (.linkTraining port peer pp) s = .next t ∧ (t.port port).up = false ∧
      getAt 0 t.sv.counters 12 = satInc (getAt 0 s.sv.counters 12) ∧ t.blocks = s.blocks ∧ MemKept s t) ∧
  (∀ port f s, s.arrives port f 0 = true → s.sv.egress = [] → (s.port port).stage = 0 → f.cvc.toNat < (s.port port).outst.length →
    ∃ t, exec (.nullFlit port f) s = .next t ∧
    (t.port port).outst.getD f.cvc.toNat 0 = (s.port port).outst.getD f.cvc.toNat 0 - f.ccnt.toNat ∧
    (t.port port).expect = (s.port port).expect ∧ t.blocks = s.blocks ∧ MemKept s t) ∧
  (∀ port f s, s.arrives port f 13 = true → s.sv.egress = [] → (s.port port).applied ≠ (f.payload.headD 0).extractLsb' 0 4 →
    ∃ t, exec (.lendFlit port f) s = .next t ∧ (t.port port).applied = (f.payload.headD 0).extractLsb' 0 4 ∧
      (∀ v, v < 8 → (t.port port).limits.getD v 0 = payNat f (2 + 2 * v) 2) ∧
      (∃ g ∈ (t.port port).tx, g.typ = 0 ∧ g.lack = (f.payload.headD 0).extractLsb' 0 4) ∧ t.blocks = s.blocks ∧ MemKept s t) ∧
  (∀ port f s, s.arrives port f 13 = true → s.sv.egress = [] → (s.port port).applied = (f.payload.headD 0).extractLsb' 0 4 →
    ∃ t, exec (.lendFlit port f) s = .next t ∧ (t.port port).limits = (s.port port).limits ∧
      (∃ g ∈ (t.port port).tx, g.typ = 0 ∧ g.lack = (f.payload.headD 0).extractLsb' 0 4) ∧ t.blocks = s.blocks ∧ MemKept s t) ∧
  (∀ port f s, s.arrives port f 14 = true → (s.port port).stage = 0 → ∃ t, exec (.linkNak port f) s = .next t ∧
    (t.port port).tx = (s.port port).tx ++ ((s.port port).replay.map fun g => { g with lack := (s.port port).applied }).dropWhile
      (fun g => g.lseq != BitVec.ofNat 11 (payNat f 0 2)) ∧
    getAt 0 t.sv.counters 11 = satInc (getAt 0 s.sv.counters 11) ∧ t.blocks = s.blocks ∧ MemKept s t) ∧
  (∀ port f s, (s.port port).up = true → isLinkLocal f.typ.toNat = false → ∃ t g, exec (.crcFailure port f) s = .next t ∧
    (t.port port).tx = (s.port port).tx ++ [g] ∧ g.typ = 14 ∧ g.payload = leBytes 2 (s.port port).expect.toNat ∧
    (t.port port).expect = (s.port port).expect ∧ t.blocks = s.blocks ∧ MemKept s t) ∧
  (∀ port f s k, (s.port port).rx = [] → (s.port port).up = true → (s.port port).fenced = false → isLinkLocal f.typ.toNat = false →
    s.isMine f = false → badType f.typ.toNat = false → f.lseq = (s.port port).expect → f.hop ≠ 3 →
    k = rtPort (s.route (if f.via.toNat = s.own ∨ f.via = 1023 then f.dst.toNat else f.via.toNat)) →
    rtValid (s.route (if f.via.toNat = s.own ∨ f.via = 1023 then f.dst.toNat else f.via.toNat)) = true →
    (s.port k).up = true → (s.port k).fenced = false → (s.port k).room (nextVc f) ≠ 0 → ∃ t, exec (.flitForward port f) s = .next t ∧
      (∃ g ∈ (t.port k).tx, g.hop = f.hop + 1 ∧ g.dst = f.dst ∧ g.src = f.src ∧ g.typ = f.typ ∧ g.payload = f.payload ∧
        g.via = if f.via.toNat = s.own then 1023 else f.via) ∧
      (t.port port).rx = [] ∧ t.blocks = s.blocks ∧ MemKept s t) ∧
  (∀ port f s k, (s.port port).rx = [] → (s.port port).up = true → (s.port port).fenced = false → isLinkLocal f.typ.toNat = false →
    s.isMine f = false → badType f.typ.toNat = false → f.lseq = (s.port port).expect → f.hop ≠ 3 →
    k = rtPort (s.route (if f.via.toNat = s.own ∨ f.via = 1023 then f.dst.toNat else f.via.toNat)) →
    rtValid (s.route (if f.via.toNat = s.own ∨ f.via = 1023 then f.dst.toNat else f.via.toNat)) = true →
    (s.port k).up = true → k ≠ port → (s.port k).room (nextVc f) = 0 → ∃ t, exec (.flitForward port f) s = .next t ∧
      (t.port port).rx = [(s.svNow, k, f)] ∧ (t.port k).tx = (s.port k).tx ∧ t.blocks = s.blocks ∧ MemKept s t) ∧
  (∀ port f s since k, (s.port port).rx = [(since, k, f)] → (s.port k).up = true → (s.port k).fenced = false →
    (s.port k).room (nextVc f) ≠ 0 → ∃ t, exec (.flitForward port f) s = .next t ∧
      (∃ g ∈ (t.port k).tx, g.hop = f.hop + 1 ∧ g.dst = f.dst ∧ g.src = f.src ∧ g.typ = f.typ ∧ g.payload = f.payload) ∧
      (t.port port).rx = [] ∧ t.blocks = s.blocks ∧ MemKept s t) ∧
  (∀ port f s, (s.port port).rx = [] → (s.port port).up = true → (s.port port).fenced = false → isLinkLocal f.typ.toNat = false →
    s.isMine f = false → f.lseq ≠ (s.port port).expect → exec (.flitForward port f) s = .next s) ∧
  (∀ port f s, (s.port port).rx = [] → (s.port port).up = true → (s.port port).fenced = false → isLinkLocal f.typ.toNat = false →
    s.isMine f = false → badType f.typ.toNat = false → f.lseq = (s.port port).expect → f.hop = 3 →
    ∃ t, exec (.flitForward port f) s = .next t ∧ getAt 0 t.sv.counters 10 = satInc (getAt 0 s.sv.counters 10) ∧
      (t.port port).rx = [] ∧ t.blocks = s.blocks ∧ MemKept s t) ∧
  (∀ port s, (s.port port).up = true → (s.port port).stage = 0 → (s.port port).roundAt + 1024 ≤ s.flitNow → ∃ t,
    exec (.lendingRound port) s = .next t ∧ (t.port port).stage = 1 ∧ (t.port port).epoch = (s.port port).epoch + 1 ∧
    (t.port port).newLimits = lendShares (s.port port).counts ∧ (∀ v, (t.port port).counts.getD v 0 = 0) ∧
    (∃ g ∈ (t.port port).tx, g.typ = 13) ∧ t.blocks = s.blocks ∧ MemKept s t) ∧
  (∀ u : List Nat, u.length = 8 → ∀ v, v < 8 → 8 ≤ (lendShares u).getD v 0) ∧
  (∀ port s, (s.port port).up = true → (s.port port).stage ≠ 0 → (s.port port).lackSeen ≠ (s.port port).epoch →
    (s.port port).lendAt + 64 ≤ s.flitNow → ∃ t g, exec (.lendResend port) s = .next t ∧
    (t.port port).tx = (s.port port).tx ++ [g] ∧ g.typ = 13 ∧
    g.payload = lendPayload (s.port port).epoch (s.port port).stageLimits ∧ (t.port port).lendAt = s.flitNow ∧
    t.blocks = s.blocks ∧ MemKept s t) ∧
  (∀ port s e, (s.port port).rx.find? (fun e => decide (e.1 + 2 ^ 19 ≤ s.svNow)) = some e → ∃ t,
    exec (.staleDrop port) s = .next t ∧ (t.port port).rx = (s.port port).rx.erase e ∧
    getAt 0 t.sv.counters 9 = satInc (getAt 0 s.sv.counters 9) ∧ t.blocks = s.blocks ∧ MemKept s t) ∧
  (∀ s : State, s.sv.egress = [] → ∀ e ∈ s.pump.sv.paths, (e.1.longClass 0).isSome = true) ∧
  (∀ f : Flit, f.payload.length ≤ 112 → (flitBytes f).length = 128 ∧ receiveBytes (flitBytes f) = some f) ∧
  (∀ bs : List Byte, bs.length = 128 → (receiveBytes bs = none ↔
    BitVec.ofNat 32 (leNat (bs.take 4)) ≠ crc32 ([0, 0, 0, 0] ++ bs.drop 4)))

/-- R215, R372-R374, R378, R379, R415, R416: requests that this device serves. A READ is answered with the bytes, a WRITE
changes the bytes its mask names and no other, an ATOM acts once on its word and answers with the old value; a record is
queued for its context, a RETURN gives credits back; a request that fails a check changes nothing. The tick advances.
Rests on the model's choices of log 16, 34, 47, which are no rules of the spec (the model's choice). -/
def Obligations.RequestsServed : Prop :=
  (∀ port f s n, TakesFlit s port f 1 → n = payNat f 16 1 → Admitted s f 39 (64 * n) → s.isBad (payNat f 8 8) (64 * n) = false →
    ∃ t, exec (.readFlit port f) s = .next t ∧ t.blocks = s.blocks ∧ MemKept s t ∧
      ∀ k, k < n → Answered t f 8 k (s.memRun (payNat f 8 8 + 64 * k) 64)) ∧
  (∀ port f s, TakesFlit s port f 2 → Admitted s f 38 64 → ∃ t, exec (.writeFlit port f) s = .next t ∧ t.blocks = s.blocks ∧
    t.hostMem = s.hostMem ∧ Answered t f 9 0 [] ∧ ∀ a, getAt 0 t.mem a =
      if payNat f 8 8 ≤ a ∧ a < payNat f 8 8 + 64 ∧ (payNat f 16 8).testBit (a - payNat f 8 8) = true
      then f.payload.getD (24 + (a - payNat f 8 8)) 0 else getAt 0 s.mem a) ∧
  (∀ port f s, TakesFlit s port f 3 → Admitted s f 37 4 → s.isBad (payNat f 8 8) 4 = false → ∃ t,
    exec (.atomFlit port f) s = .next t ∧ t.blocks = s.blocks ∧ t.hostMem = s.hostMem ∧
    t.mem32 (payNat f 8 8) = atomOp (payNat f 16 1) (s.mem32 (payNat f 8 8)) (BitVec.ofNat 32 (payNat f 20 4))
      (BitVec.ofNat 32 (payNat f 24 4)) ∧ Answered t f 10 0 (leBytes 4 (s.mem32 (payNat f 8 8)).toNat) ∧
    ∀ a, (a < payNat f 8 8 ∨ payNat f 8 8 + 4 ≤ a) → getAt 0 t.mem a = getAt 0 s.mem a) ∧
  (∀ port f s, TakesFlit s port f 2 → formatBad f = true → ∃ t, exec (.writeFlit port f) s = .next t ∧ t.blocks = s.blocks ∧
    MemKept s t) ∧
  (∀ port f s r, TakesFlit s port f 2 → formatBad f = false → s.ingress f 38 (some (payNat f 8 8, 64)) = some r → ∃ t,
    exec (.writeFlit port f) s = .next t ∧ t.blocks = s.blocks ∧ MemKept s t ∧
    Answered t f 11 0 ([BitVec.ofNat 8 r, 0, 0, 0, 0, 0, 0, 0] ++ leBytes 8 (payNat f 8 8))) ∧
  (∀ port f s x cx, TakesFlit s port f 4 → recFormatBad f = false → payNat f 8 1 = 0 → s.ingress f 36 none = none →
    cx = winOwner (s.window (flitToken f)) → s.ctx? cx = some x →
    (x.recQueue.filter fun e => e.1 == f.src.toNat).length + getAt 0 x.taken f.src.toNat < x.recSlots →
    ∃ t ws, exec (.recFlit port f) s = .next t ∧ t.blocks = s.blocks ∧ MemKept s t ∧
      t.ctx? cx = some { x with recQueue := x.recQueue ++ [(f.src.toNat, ws)] } ∧ ws.length = 16 ∧
      (∀ j, j < 16 → j ≠ 14 → ws.getD j 0 = BitVec.ofNat 32 (payNat f (16 + 4 * j) 4)) ∧
      (ws.getD 14 0).extractLsb' 0 10 = f.src) ∧
  (∀ port f s x cx, TakesFlit s port f 4 → recFormatBad f = false → payNat f 8 1 = 1 → s.ingress f 36 none = none →
    cx = winOwner (s.window (flitToken f)) → s.ctx? cx = some x →
    ∃ t y, exec (.recFlit port f) s = .next t ∧ t.blocks = s.blocks ∧ MemKept s t ∧ t.ctx? cx = some y ∧
      (∀ d, y.credit d = if d = f.src.toNat then x.credit d + payNat f 10 2 else x.credit d) ∧ y.recQueue = x.recQueue) ∧
  (∀ s, s.svNow / 2 ^ 22 % 2048 ≠ s.sv.tick.toNat → exec .targetTick s =
    .next { s with sv := { s.sv with tick := s.sv.tick + 1 } }) ∧
  (∀ s, s.svNow / 2 ^ 22 % 2048 = s.sv.tick.toNat → exec .targetTick s = .next s)

/-- R212, R234, R235, R299, R304, R371, R372, R375, R379, R382, R383: requests of this device. A reply that names an
outstanding request completes it and frees its tag, any other is counted and dropped; an abort ends the request; TOTALS
that are newer are applied; a timeout, whoever waits, is counted and frees the tag behind a quarantine of it and of every sector
it names; nothing is sent beyond the peer's allowance.
Rests on the model's choices of log 28 and 47, and the time-out and the quarantine, counted in Svacon cycles, on log 1, which are no rules of the spec (the model's choice). -/
def Obligations.RequestsAnswered : Prop :=
  (∀ port f s x b w blk, TakesFlit s port f 8 → s.tagOf f = some x → x.req.owner = .load b w.idx → x.req.count = 1 → x.got = [] →
    x.req.fill = none → f.sec = 0 → s.block? b = some blk → blk.wave? w.idx = some w → ∃ t, exec (.rdataFlit port f) s = .next t ∧
      MemKept s t ∧ (∀ y ∈ t.sv.tags, ¬ (y.target = x.target ∧ y.idx = x.idx)) ∧ t.wave? b w.idx =
        some { w with loads := w.loads.map (LoadOp.fill x.req.rid fun pa n =>
          if pa / 64 = x.req.sector then (f.payload.drop (pa % 64)).take n else []) }) ∧
  (∀ port f s, TakesFlit s port f 8 → s.tagOf f = none → ∃ t, exec (.rdataFlit port f) s = .next t ∧ t.blocks = s.blocks ∧
    getAt 0 t.sv.counters 8 = satInc (getAt 0 s.sv.counters 8) ∧ MemKept s t) ∧
  (∀ port f s x b w blk l, TakesFlit s port f 9 → s.tagOf f = some x → x.req.owner = .store b w.idx l → s.block? b = some blk →
    blk.wave? w.idx = some w → ∃ t, exec (.wackFlit port f) s = .next t ∧ MemKept s t ∧
      (∀ y ∈ t.sv.tags, ¬ (y.target = x.target ∧ y.idx = x.idx)) ∧
      t.wave? b w.idx = some { w with acks := w.acks.filter fun e => e.1 != x.req.rid }) ∧
  (∀ port f s x b w blk l, TakesFlit s port f 10 → s.tagOf f = some x → x.req.owner = .atom b w.idx l → s.block? b = some blk →
    blk.wave? w.idx = some w → ∃ t, exec (.arspFlit port f) s = .next t ∧ MemKept s t ∧
      (∀ y ∈ t.sv.tags, ¬ (y.target = x.target ∧ y.idx = x.idx)) ∧ t.wave? b w.idx =
        some { w with
          acks := w.acks.filter fun e => e.1 != x.req.rid
          loads := w.loads.map (LoadOp.fill x.req.rid fun _ _ => f.payload.take 4) }) ∧
  (∀ port f s x b w blk, TakesFlit s port f 11 → s.tagOf f = some x → x.req.owner = .load b w.idx → s.block? b = some blk →
    blk.wave? w.idx = some w → ∃ t v, exec (.abortFlit port f) s = .next t ∧ MemKept s t ∧ t.wave? b w.idx = some v ∧
      (∀ l, v.dead.getLsbD l = (w.dead.getLsbD l || (!w.exitedLanes.getLsbD l &&
        w.loads.any fun o => (o.lanesOf x.req.rid).getLsbD l))) ∧
      t.raised = if payNat f 0 1 = 8 then s.raised ++ [32 * x.req.ctx + 19] else s.raised) ∧
  (∀ port f s x l y, TakesFlit s port f 11 → s.tagOf f = some x → x.req.owner = .wait l → s.launch? l = some y →
    y.started = false → y.waitDone = false → y.status = none → ∃ t, exec (.abortFlit port f) s = .next t ∧
      t.launch? l = some { y with status := some 4 } ∧ t.blocks = s.blocks ∧ MemKept s t) ∧
  (∀ port f s, TakesFlit s port f 12 → (∀ n, (s.totals f.src.toNat (payNat f 0 1)).lastApplied = some n →
      1 ≤ (BitVec.ofNat 16 (payNat f 2 2) - n).toNat ∧ (BitVec.ofNat 16 (payNat f 2 2) - n).toNat ≤ 32767) →
    ∃ t, exec (.totalsFlit port f) s = .next t ∧ t.blocks = s.blocks ∧ MemKept s t ∧
      (t.totals f.src.toNat (payNat f 0 1)).lastApplied = some (BitVec.ofNat 16 (payNat f 2 2)) ∧
      (t.totals f.src.toNat (payNat f 0 1)).peerFreed = BitVec.ofNat 32 (payNat f 8 4) ∧
      (t.totals f.src.toNat (payNat f 0 1)).peerLimit = payNat f 12 4) ∧
  (∀ port f s n, TakesFlit s port f 12 → (s.totals f.src.toNat (payNat f 0 1)).lastApplied = some n →
    ¬ (1 ≤ (BitVec.ofNat 16 (payNat f 2 2) - n).toNat ∧ (BitVec.ofNat 16 (payNat f 2 2) - n).toNat ≤ 32767) →
    ∃ t, exec (.totalsFlit port f) s = .next t ∧ t.sv.totals = s.sv.totals ∧ t.blocks = s.blocks ∧ MemKept s t) ∧
  (∀ peer cls s, s.sv.egress = [] → (s.sv.totals.any fun t => t.peer == peer && t.cls == cls && t.due s.svNow) = true → ∃ t,
    exec (.totalsSend peer cls) s = .next t ∧ (t.totals peer cls).tseq = (s.totals peer cls).tseq + 1 ∧
    (t.totals peer cls).lastAt = some s.svNow ∧ (t.totals peer cls).sent = (s.totals peer cls).sent ∧
    t.blocks = s.blocks ∧ MemKept s t) ∧
  (∀ target idx s x, s.sv.egress = [] → s.sv.tags.find? (fun t => t.target == target && t.idx == idx) = some x →
    x.sent + 2 ^ s.mgmt.svTimeout ≤ s.svNow → ∃ t, exec (.requestTimeout target idx) s = .next t ∧
      getAt 0 t.sv.counters 13 = satInc (getAt 0 s.sv.counters 13) ∧ getAt 0 t.sv.gens (1024 * target + idx) = x.gen + 1 ∧ (∀ y ∈ t.sv.tags, ¬ (y.target = target ∧ y.idx = idx)) ∧
      (x.req.count = 0 → (target, idx, s.svNow + 2 ^ 23, none) ∈ t.sv.quarantine) ∧
      ∀ k, k < x.req.count → (target, idx, s.svNow + 2 ^ 23, some (x.req.sector + k)) ∈ t.sv.quarantine) ∧
  (∀ target idx s, s.sv.egress = [] → ∃ t, exec (.tagQuarantineEnd target idx) s = .next t ∧ t.blocks = s.blocks ∧ MemKept s t ∧
    ∀ q, (q ∈ t.sv.quarantine ↔ q ∈ s.sv.quarantine ∧ ¬ (q.1 = target ∧ q.2.1 = idx ∧ q.2.2.1 ≤ s.svNow))) ∧
  (∀ (s : State) (f : Flit) (p : Packet), isResponse f.typ.toNat = false → (s.totals f.dst.toNat f.cls.toNat).allowance < 1 →
    rtValid (s.route f.dst.toNat) = true → s.trySend f p = .waits s)

namespace Sys2Proof.Claims

open Sys2Proof Sys2Proof.Machine

/-- What the communicator does now keeps the next operation of its queue from beginning (R393, R422), and moves on only by a
chunk step. -/
def Underway (s : State) (c : Comm) : Prop := match c.run with
  | none => s.commBusy c = true
  | some r => r.todo ≠ [] ∧ (r.todo.head?.any fun a => a.unarbitrated && c.actReady r a) = false

/-- A message without what says whether it has its chunk and how many of its flits are still held (R371, R398). -/
def unlanded (m : MMsg) : MMsg := { m with landed := false, unfreed := 0 }

/-- A message has joined those of a communicator's buffer, which stay but that they may have landed by now. -/
def MsgJoins (c c' : Comm) (m : MMsg) : Prop := ∃ l, c'.inbox = l ++ [m] ∧ l.map unlanded = c.inbox.map unlanded

/-- UET gives up on one chunk of a step that waits for the tiles of all of them: before the limit, its header being there
(R410, R419; log 37). -/
def GivesUpOne (s : State) (c : Comm) (r : CollRun) (i : CollInput) : Bool :=
  c.uet && decide (s.svNow < r.since + Config.chunkTimeout) && r.headed i && i.chunk.isNone

/-- What the next chunk of a CSEND reads (R391, R413). -/
def nextRead (s : State) (c : Comm) (j : SendJob) : Got :=
  s.mRead c.id j.op.ctx c.abortNext (collSrc j.op.desc + BitVec.ofNat 64 j.sent) (min 65536 (csendLen j.op.desc - j.sent))

end Sys2Proof.Claims

/-- R223, R386-R388, R390, R392, R393, R395, R396, R398-R400, R407-R411, R413: the Mantle. An operation is accepted, once no earlier one
of its wave is under way in another communicator, with the next number of its communicator and stands in its queue, or begins, or completes with BADCOMM; a send moves on by a chunk, once what it
reads from another device is there; a communicator that waits gains a level; a lost input is declared so, and the step may
go on (all of the step, or the one chunk on which UET gave up); messages join their communicator's buffer, or are dropped and counted; a quiescent communicator is freed; UET carries a
message to its peer's endpoint, repeats and forgets the oldest one.
Rests on the model's choices of log 34, 37, 39, 47, which are no rules of the spec (the model's choice). -/
def Obligations.MantleEvents : Prop :=
  (∀ b wv s op blk, s.collNext b wv = some op → s.badComm op = true →
    s.block? b = some blk → (∀ r ∈ s.mantle.records, r.op.name ≠ op.name) → ∃ t, exec (.collAccept b wv) s = .next t ∧
      t.mantle.arriving = s.mantle.arriving.erase op ∧ t.mantle.comms = s.mantle.comms ∧
      ((∃ r ∈ t.mantle.records, r.op = op ∧ r.status = 3 ∧ r.withToken = true) ∨
        ∃ y, t.block? b = some y ∧ op.name ∉ (y.token op.token).outst ∧ (y.token op.token).abort = true)) ∧
  (∀ b wv s op c, s.collNext b wv = some op → s.badComm op = false →
    op.csend = false → s.comm? (collComm op.desc) = some c → Underway s c → s.sv.egress = [] →
    ∃ t c', exec (.collAccept b wv) s = .next t ∧ t.mantle.arriving = s.mantle.arriving.erase op ∧
      t.comm? (collComm op.desc) = some c' ∧ c'.queue = c.queue ++ [{ op with seq := c.opseq }] ∧
      c'.opseq = (c.opseq + 1) % 65536 ∧ c'.run = c.run ∧ c'.sends = c.sends ∧ t.blocks = s.blocks ∧ MemKept s t) ∧
  (∀ (s : State) b wv op, s.collNext b wv = some op ↔ s.mantle.arriving.find? (fun o => o.block == b && o.wave == wv) = some op ∧
    s.collHeld op = false) ∧
  (∀ b wv s, s.collNext b wv = none → exec (.collAccept b wv) s = .next s) ∧
  (∀ b wv s op c, s.collNext b wv = some op → s.badComm op = false →
    op.csend = true → s.comm? (collComm op.desc) = some c → Underway s c ∨ (c.run = none ∧ c.queue = [] ∧ s.commBusy c = false) →
    s.sv.egress = [] →
    ∃ t c', exec (.collAccept b wv) s = .next t ∧ t.comm? (collComm op.desc) = some c' ∧ c'.opseq = c.opseq ∧ c'.run = c.run ∧
      getAt 0 c'.sendSeq (collRoot op.desc) = (getAt 0 c.sendSeq (collRoot op.desc) + 1) % 65536 ∧
      getAt 0 c'.sendPos (collRoot op.desc) = getAt 0 c.sendPos (collRoot op.desc) + csendLen op.desc ∧
      (Underway s c → c'.sends = c.sends ∧ c'.queue = c.queue ++ [{ op with
        seq := getAt 0 c.sendSeq (collRoot op.desc)
        pos := getAt 0 c.sendPos (collRoot op.desc) }]) ∧
      (¬ Underway s c → c'.queue = [] ∧ ∃ j, c'.sends = [j] ∧ j.peer = collRoot op.desc ∧ j.sent = 0 ∧ j.lost = 0 ∧
        j.start = getAt 0 c.sendPos (collRoot op.desc)) ∧ t.blocks = s.blocks ∧ MemKept s t) ∧
  (∀ s c j rest, s.nextComm = some c → s.comm? c.id = some c → c.run = none → c.queue = [] → c.sends = j :: rest →
    s.sv.egress = [] → (nextRead s c j).asks = [] → ∃ t c', exec .chunkStep s = .next t ∧ t.comm? c.id = some c' ∧ c'.raise = 0 ∧
      c'.abortNext = false ∧ t.blocks = s.blocks ∧ MemKept s t ∧
      c'.sends = if j.sent + min 65536 (csendLen j.op.desc - j.sent) ≥ csendLen j.op.desc then rest else
        { j with
          sent := j.sent + min 65536 (csendLen j.op.desc - j.sent)
          lost := j.lost + (nextRead s c j).bad } :: rest) ∧
  (∀ s c j rest, s.nextComm = some c → s.comm? c.id = some c → c.run = none → c.queue = [] → c.sends = j :: rest →
    s.sv.egress = [] → (nextRead s c j).asks ≠ [] → ∃ t c', exec .chunkStep s = .next t ∧ t.comm? c.id = some c' ∧
      c'.sends = c.sends ∧ t.blocks = s.blocks ∧ MemKept s t ∧
      ∀ q ∈ (nextRead s c j).asks, ∃ r ∈ t.mantle.reads, r.key = c.id ∧ r.dev = q.1 ∧ r.sector = q.2.2) ∧
  (∀ s c r a rest, s.nextComm = some c → c.runReady = true → c.run = some r → r.todo = a :: rest → exec .chunkStep s =
    .next (((s.updComm c.id fun x => { x with raise := 0, readySince := none }).runStep c r a).mantleNext c.id)) ∧
  (∀ id s c, s.comm? id = some c → ∃ t, exec (.priorityAgeing id) s = .next t ∧ t.blocks = s.blocks ∧ MemKept s t ∧
    t.comm? id = some (if c.ages s.svNow then { c with raise := c.raise + 1 } else c)) ∧
  (∀ id s c r i, s.comm? id = some c → c.missingInput = some (r, i) → (r.todo.head?.any CollAct.unarbitrated) = false →
    s.sv.egress = [] → ∃ t c' m,
    exec (.chunkLost id) s = .next t ∧ t.comm? id = some c' ∧ m ∈ c'.inbox ∧ m.lost = true ∧ m.peer = i.peer ∧
      m.opseq = r.op.seq ∧ m.step = i.step ∧ m.kind = i.kind ∧ (∀ k, i.chunk = some k → m.chunk = k) ∧
      m.allChunks = (i.chunk.isNone && !GivesUpOne s c r i) ∧
      (GivesUpOne s c r i = true → m.chunk = lowestMissing (c.inputMsgs r.op.seq i) (c.inputMsgs r.op.seq i).length 0) ∧
      (∀ x ∈ c'.inbox, x = m ∨ ∃ y ∈ c.inbox, unlanded x = unlanded y) ∧
      (GivesUpOne s c r i = false → c'.hasInput r i = true) ∧ t.blocks = s.blocks ∧ MemKept s t) ∧
  (∀ src (data : List Byte) s, 12 ≤ data.length → s.msgComm data = none → ∃ t, exec (.uetMessage src data) s = .next t ∧
    getAt 0 t.mantle.counters 0 = satInc (getAt 0 s.mantle.counters 0) ∧ t.mantle.comms = s.mantle.comms ∧
    t.blocks = s.blocks ∧ MemKept s t) ∧
  (∀ src (data : List Byte) s c k, 12 ≤ data.length → s.msgComm data = some c → s.comm? c.id = some c → c.uet = true →
    c.members.findIdx? (fun m => m == src) = some k → msgField data 8 1 ≤ 1 → msgField data 10 2 = 0 → msgField data 2 2 = c.opseq →
    c.phase ≠ .quiescent → c.run = none → c.queue = [] → (∀ m ∈ c.inbox, m.opseq ≠ c.opseq) → s.sv.egress = [] →
    ∃ t c' m, exec (.uetMessage src data) s = .next t ∧ t.comm? c.id = some c' ∧ MsgJoins c c' m ∧ m.peer = k ∧
      m.opseq = c.opseq ∧ m.step = msgField data 4 2 ∧ m.chunk = msgField data 6 2 ∧ m.closed = true ∧ m.data = data.drop 12 ∧
      t.blocks = s.blocks ∧ MemKept s t) ∧
  (∀ port f s, TakesFlit s port f 5 → f.payload.length < 20 → ∃ t, exec (.collFlit port f) s = .next t ∧
    t.mantle = s.mantle ∧ t.blocks = s.blocks ∧ MemKept s t) ∧
  (∀ port f s c k, TakesFlit s port f 5 → 20 ≤ f.payload.length → s.ingress f 36 none = none →
    s.msgComm ((f.payload.drop 8).take 12) = some c → s.comm? c.id = some c → msgField ((f.payload.drop 8).take 12) 0 2 < 1024 →
    msgField ((f.payload.drop 8).take 12) 9 1 < 2 → msgField ((f.payload.drop 8).take 12) 8 1 ≤ 1 →
    msgField ((f.payload.drop 8).take 12) 10 2 = 0 → msgField ((f.payload.drop 8).take 12) 2 2 = c.opseq →
    c.members.findIdx? (fun m => m == f.src.toNat) = some k → c.phase ≠ .quiescent → c.run = none → c.queue = [] →
    (∀ m ∈ c.inbox, m.opseq ≠ c.opseq) →
    ∃ t c' m, exec (.collFlit port f) s = .next t ∧ t.comm? c.id = some c' ∧ MsgJoins c c' m ∧ m.peer = k ∧
      m.opseq = c.opseq ∧ m.lost = false ∧ (if f.payload.length < 112 then m.closed = true ∧ m.data = f.payload.drop 20
        else m.closed = false ∧ m.pieces = [(0, f.payload.drop 20)]) ∧ t.blocks = s.blocks ∧ MemKept s t) ∧
  (∀ id s c, s.comm? id = some c → s.commDone c = true → ∃ t, exec (.commFree id) s = .next t ∧ t.comm? id = none ∧
    getAt 0 t.mantle.gens id = (c.gen + 1) % 16 ∧ t.blocks = s.blocks ∧ MemKept s t) ∧
  (∀ id s c, s.comm? id = some c → s.commDone c = false → exec (.commFree id) s = .next s) ∧
  (∀ (s : State) (c : Comm) peer opseq step chunk kind inc bs, c.uet = true → ∃ m : UetMsg,
    (s.sendChunk c peer opseq step chunk kind inc bs).mantle.out = s.mantle.out ++ [m] ∧
    (s.sendChunk c peer opseq step chunk kind inc bs).mantle.unacked = s.mantle.unacked ++ [m] ∧ m.comm = c.id ∧
    m.peer = c.members.getD peer 0 ∧ m.endpoint = getRun 0 s.mantle.peers (16 * c.members.getD peer 0) 16 ∧
    m.dscp = 8 * c.tclass ∧ (m.ordered = true ↔ kind = 2) ∧ (m.send = true ↔ kind = 2) ∧
    m.data = mantleHeader c opseq step chunk kind inc 0 ++ bs) ∧
  (∀ peer s e, s.mantle.unacked.find? (fun e => e.peer == peer) = some e → exec (.uetRetransmission peer) s =
    .next { s with mantle := { s.mantle with out := s.mantle.out ++ [e] } }) ∧
  (∀ peer s e, s.mantle.unacked.find? (fun e => e.peer == peer) = some e → ∃ t, exec (.uetAcknowledgement peer) s = .next t ∧
    t.mantle.unacked = s.mantle.unacked.erase e ∧ (∀ p ∈ t.mantle.openPdc, p ∈ s.mantle.openPdc) ∧ t.blocks = s.blocks ∧ MemKept s t)

/-- R403: an encoded tile is read back as the tile it was, whatever encoding was chosen and whatever follows it. -/
def Obligations.TilesReadBack : Prop := ∀ (mode idx : Nat) (t : Tile) (rest : List Byte), t.length = 16 →
  (∀ p ∈ t, p.c.length = 4) → idx < 2 ^ 30 → decodeTile mode (encodeTile mode idx t ++ rest) = (idx, some t, rest)

namespace Sys2Proof.Claims

open Sys2Proof Sys2Proof.Machine

/-- The controller has answered: word 0 of the request, the status, the results (R463). -/
def Responded (s t : State) (code tag : Nat) (st : Word) (ws : List Word) : Prop :=
  t.mgmt.responses = s.mgmt.responses ++ [(BitVec.ofNat 8 code ++ (0 : BitVec 8) ++ BitVec.ofNat 16 tag) :: st :: ws]

end Sys2Proof.Claims

/-- R361, R378, R380, R381, R409, R444, R451-R453, R462-R469: the commands about the device: reads and writes of the management
space, keys, windows, routes, tokens, fences, clocks, firmware, attestation, the freeze. Each is answered; commands that
come while one is under way wait, but FREEZE acts at once; an unlisted CODE is answered BADARG.
Rests on the model's choices of log 18, 21, 27, 32, 43, which are no rules of the spec: how FENCE and UNFENCE number the
parts of a kind is the model's choice (log 32). -/
def Obligations.DeviceCommands : Prop :=
  (∀ die x s, die ≤ 8 → x.power < 2 ^ 32 → ∃ t, exec (.throttleStep die x) s = .next t ∧
    t.blocks = s.blocks ∧ MemKept s t ∧ t.mgmt.power.toNat = x.power ∧ t.mgmt.coolin = BitVec.ofNat 32 x.coolin ∧
    (∀ d, getAt 0 t.mgmt.temp d = if d = die then x.temp else getAt 0 s.mgmt.temp d) ∧
    ∀ d, t.clockOf d = if d = die ∧ die ≠ 8 then
      (if 3600000 < x.power ∨ (∃ e ∈ t.mgmt.temp, 105 < e.2) then max 1200 (s.clockOf die - 100)
        else min (s.ceilingOf die) (s.clockOf die + 100)) else s.clockOf d) ∧
  (∀ u s e, s.mgmt.images.reverse.find? (fun e => e.1 == u) = some e → ∃ t, exec (.firmwareActivate u) s = .next t ∧
    t.mgmt.running.head? = some e ∧ (∀ x ∈ t.mgmt.images, x.1 ≠ u) ∧ t.blocks = s.blocks ∧ MemKept s t) ∧
  (∀ tag off n s, s.mgmt.waiting = [] → off % 4 = 0 → n ≤ 1023 → ∃ t, exec (.mread tag off n) s = .next t ∧ t.blocks = s.blocks ∧
    MemKept s t ∧ Responded s t 0x01 tag 0 ((List.range n).map fun i => s.spaceWord (off + 4 * i))) ∧
  (∀ tag v s, s.mgmt.waiting = [] → ∃ t, exec (.mwrite tag 0x10234 [v]) s = .next t ∧ t.mgmt.freezeMask = v.extractLsb' 0 8 ∧
    Responded s t 0x02 tag 0 [] ∧ t.blocks = s.blocks ∧ MemKept s t) ∧
  (∀ tag v s, s.mgmt.waiting = [] → (v.extractLsb' 0 5).toNat < 16 ∨ 28 < (v.extractLsb' 0 5).toNat → ∃ t,
    exec (.mwrite tag 0x1022C [v]) s = .next t ∧ Responded s t 0x02 tag 2 [] ∧ t.mgmt.svTimeout = s.mgmt.svTimeout) ∧
  (∀ tag cx slot key s, s.mgmt.waiting = [] → cx < 64 → slot ≤ 1 → ∃ t, exec (.keyset tag cx slot key) s = .next t ∧
    t.key? cx slot = some key ∧ (∀ k, k ≠ slot → t.key? cx k = s.key? cx k) ∧ Responded s t 0x30 tag 0 [] ∧ MemKept s t) ∧
  (∀ tag cx slot s, s.mgmt.waiting = [] → cx < 64 → slot ≤ 1 → ∃ t, exec (.keyempty tag cx slot) s = .next t ∧
    t.key? cx slot = none ∧ (∀ k, k ≠ slot → t.key? cx k = s.key? cx k) ∧ Responded s t 0x31 tag 0 [] ∧ MemKept s t) ∧
  (∀ tag idx e s, s.mgmt.waiting = [] → idx < 4096 → e.extractLsb' 40 11 = 0 → e.extractLsb' 0 16 = 0 → winValid e = true →
    16 ≤ winSize e → winSize e ≤ 40 → winBase e % 2 ^ winSize e = 0 → ∃ t, exec (.window tag idx e) s = .next t ∧
    (∀ k, getAt 0 t.sv.windows k = if k = idx then e else getAt 0 s.sv.windows k) ∧ Responded s t 0x33 tag 0 [] ∧ MemKept s t) ∧
  (∀ tag dst e s, s.mgmt.waiting = [] → dst ≤ 992 → e.extractLsb' 96 32 = 0 → s.sv.egress = [] → ∃ t,
    exec (.route tag dst e) s = .next t ∧ (∀ d, t.route d = if d = dst then e else s.route d) ∧ Responded s t 0x42 tag 0 [] ∧
    t.blocks = s.blocks ∧ MemKept s t) ∧
  (∀ tag idx (e : List Word) s, s.mgmt.waiting = [] → idx < 4096 → e.length = 16 → uetZeroBad e = false → s.peerNamed idx = false →
    ∃ t, exec (.uetpeer tag idx e) s = .next t ∧ getRun 0 t.mantle.peers (16 * idx) 16 = e ∧ Responded s t 0x23 tag 0 [] ∧
    MemKept s t) ∧
  (∀ tag part s, s.mgmt.waiting = [] → part < 768 → (∀ b ∈ s.blocks, b.core ≠ part) → ∃ t,
    exec (.fenceCommand tag 1 part) s = .next t ∧ (t.core part).fenced = true ∧ Responded s t 0x40 tag 0 [] ∧ MemKept s t ∧
    t.blocks = s.blocks) ∧
  (∀ tag kind part s, s.mgmt.waiting = [] → partOk kind part = false → ∃ t, exec (.fenceCommand tag kind part) s = .next t ∧
    Responded s t 0x40 tag 2 [] ∧ t.cores = s.cores ∧ t.rel = s.rel ∧ t.blocks = s.blocks) ∧
  (∀ tag part s, s.mgmt.waiting = [] → part < 768 → ∃ t, exec (.unfence tag 1 part) s = .next t ∧ (t.core part).fenced = false ∧
    Responded s t 0x41 tag 0 [] ∧ t.rel.errNext = s.rel.errNext + 1 ∧ t.blocks = s.blocks ∧ MemKept s t) ∧
  (∀ tag (addr : BitVec 64) len s, s.mgmt.waiting = [] → ∃ t, exec (.fwupdate tag addr len) s = .next t ∧ t.blocks = s.blocks ∧
    MemKept s t ∧ t.mgmt.running = s.mgmt.running ∧
    if imageAccepted (getRun 0 s.hostMem addr.toNat len) = true then Responded s t 0x50 tag 0 [] else Responded s t 0x50 tag 3 []) ∧
  (∀ tag (nonce : List Byte) s, s.mgmt.waiting = [] → nonce.length = 32 → ∃ t ws, exec (.attest tag nonce) s = .next t ∧
    Responded s t 0x51 tag 0 ws ∧ ws.take 10 = 1 :: BitVec.ofNat 32 (3 + s.unitImages.length) :: bytesWords nonce ∧
    (∃ sig : List Byte, sig.length = 64 ∧ (wordsBytes ws).drop 40 = leBytes 4 0 ++ s.measured 0 ++ leBytes 4 1 ++ s.measured 1 ++
      leBytes 4 2 ++ sha256 s.routerBytes ++ (s.unitImages.flatMap fun e => leBytes 4 3 ++ sha256 e.2) ++ sig) ∧
    t.blocks = s.blocks ∧ MemKept s t) ∧
  (∀ tag die mhz s, s.mgmt.waiting = [] → die ≤ 7 → 1200 ≤ mhz → mhz ≤ 3300 → ∃ t, exec (.clock tag die mhz) s = .next t ∧
    t.ceilingOf die = mhz ∧ t.clockOf die = (if s.clockOf die < s.ceilingOf die then min mhz (s.clockOf die) else mhz) ∧
    t.dieCycles die = s.dieCycles die ∧ Responded s t 0x52 tag 0 [] ∧ t.blocks = s.blocks ∧
    MemKept s t) ∧
  (∀ tag s, ∃ t, exec (.freeze tag) s = .next t ∧ t.rel.frozen = true ∧ (∀ p ∈ t.sv.ports, p.up = false) ∧
    Responded s t 0x53 tag 0 [] ∧ t.blocks = s.blocks ∧ MemKept s t) ∧
  (∀ tag idx s, s.mgmt.waiting = [] → idx ≤ 16383 → repairValid s.rel.repairs idx = true → ∃ t, exec (.repairclr tag idx) s = .next t ∧
    (∀ k, getAt 0 t.rel.repairs k = if k = 4 * idx then getAt 0 s.rel.repairs k ||| 0x40000000 else getAt 0 s.rel.repairs k) ∧
    Responded s t 0x54 tag 0 [] ∧ t.blocks = s.blocks ∧ MemKept s t) ∧
  (∀ tag idx s, s.mgmt.waiting = [] → idx ≤ 16383 → repairValid s.rel.repairs idx = false → ∃ t,
    exec (.repairclr tag idx) s = .next t ∧ t.rel = s.rel ∧ Responded s t 0x54 tag 1 []) ∧
  (∀ code tag s, s.mgmt.waiting = [] → code ∉ commandCodes → ∃ t, exec (.unlistedCommandCode code tag) s = .next t ∧
    Responded s t code tag 2 [] ∧ t.blocks = s.blocks ∧ MemKept s t) ∧
  (∀ tag off n s h r, s.mgmt.waiting = h :: r → s.mgmt.retrying = false → exec (.mread tag off n) s =
    .next { s with mgmt := { s.mgmt with waiting := h :: r ++ [[0x01, tag, off, n]] } }) ∧
  (∀ tag off n s h r, s.mgmt.waiting = h :: r → s.mgmt.retrying = true → off % 4 = 0 → n ≤ 1023 → ∃ t,
    exec (.mread tag off n) s = .next t ∧ t.mgmt.waiting = r ∧
    Responded s t 0x01 tag 0 ((List.range n).map fun i => s.spaceWord (off + 4 * i)))

/-- R377-R381: MINT answers with a token for the window, and a request that presents the token passes every check at the
window's device while the token lives: it comes from the device and context it was minted for, asks for a right it carries,
and stays within its extent.
Rests on the model's choices of log 29, which are no rules of the spec (the model's choice). -/
def Obligations.MintedTokensPass : Prop := ∀ (tag dev cx rights win ext sub life : Nat) (s : State) (e : BitVec 64) (x : Ctx)
    (slot : Nat) (key : BitVec 128), s.mgmt.waiting = [] → dev ≤ 992 → cx < 64 → rights < 16 → win < 4096 → sub < 64 →
  life < 1024 → e = getAt 0 s.sv.windows win → winValid e = true → 16 ≤ ext → ext ≤ winSize e →
  (sub + 1) * 2 ^ ext ≤ 2 ^ winSize e → s.ctxs.find? (fun x => x.id == winOwner e) = some x → x.keys.head? = some (slot, key) →
  slot ≤ 1 → ∃ (t : State) (tok : BitVec 64), exec (.mint tag dev cx rights win ext sub life) s = .next t ∧
    Responded s t 0x32 tag 0 (splitW tok) ∧ t.blocks = s.blocks ∧ MemKept s t ∧
    ∀ (f : Flit) (a n j : Nat), f.src.toNat = dev → f.ctx.toNat = cx → flitToken f = tok → 1 ≤ life → j < 4 →
      rights.testBit j = true → winBase e + sub * 2 ^ ext ≤ a → a + n ≤ winBase e + sub * 2 ^ ext + 2 ^ ext →
      t.ingress f (36 + j) (some (a, n)) = none

/-- R188, R322, R328, R338-R342, R345, R348, R386, R387, R415, R463, R464: the commands about contexts and communicators. A
descriptor makes a context ACTIVE; PREEMPT, PREEMPT_CUT, UNPREEMPT and RESETCTX move it between its states and are refused in
any other, and a cut wakes the sleeping waves of its launch; INVALIDATE drops the cached leaves of its range, and waits for
requests to other devices; communicators are made, from records that may stand on another device, and retired; RECAREA
gives every sender its credit.
Rests on the model's choices of log 1, 40, 43, 48, which are no rules of the spec: the core's cycles of which the deadline is
2^DEADLINE are counted in the model's time (log 1; the model's choice). -/
def Obligations.ContextCommands : Prop :=
  (∀ tag cx (d : List Word) s, s.mgmt.waiting = [] → cx < 64 → d.length = 32 → s.ctx? cx = none → descZeroBad d = false →
    dq d 0 ≠ 0 → descOk d = true → ∃ t y, exec (.ctxwrite tag cx d) s = .next t ∧ t.ctx? cx = some y ∧ y.root = dq d 0 ∧
      y.toktab = dq d 2 ∧ y.trapArea = dq d 4 ∧ y.trapSize = (dw d 6).toNat ∧ y.deadline = (dw d 7).toNat ∧ y.pocket = dq d 8 ∧
      y.frames = (dw d 10).toNat ∧ y.phase = .active ∧ Responded s t 0x10 tag 0 [] ∧ t.blocks = s.blocks ∧ MemKept s t) ∧
  (∀ tag cx (d : List Word) s x, s.mgmt.waiting = [] → cx < 64 → d.length = 32 → s.ctx? cx = some x → x.phase ≠ .preempted → ∃ t,
    exec (.ctxwrite tag cx d) s = .next t ∧ Responded s t 0x10 tag 1 [] ∧ t.ctxs = s.ctxs) ∧
  (∀ tag cx s x, s.mgmt.waiting = [] → cx < 64 → s.ctx? cx = some x → x.phase = .active → (∀ b ∈ s.blocks, b.ctx ≠ cx) → ∃ t,
    exec (.preempt tag cx) s = .next t ∧ t.ctx? cx = some { x with phase := .preempted, timers := [], cutLaunch := none } ∧
      Responded s t 0x11 tag 0 [] ∧ t.blocks = s.blocks ∧ MemKept s t ∧
      ∀ k ∈ t.cores, ∀ e ∈ k.pending, ∀ l ∈ t.launches, l.uid = e.1 → l.ctx ≠ cx) ∧
  (∀ tag cx s x b, s.mgmt.waiting = [] → cx < 64 → s.ctx? cx = some x → x.phase = .active → b ∈ s.blocks → b.ctx = cx →
    (∀ a ∈ s.blocks, a.ctx = cx → a.restarts = false) → ∃ t y, exec (.preempt tag cx) s = .next t ∧ t.ctx? cx = some y ∧
      y.phase = .draining ∧ (b.core, s.coreCycles b.core + 2 ^ x.deadline) ∈ y.timers ∧ Responded s t 0x11 tag 0 [] ∧ t.blocks = s.blocks) ∧
  (∀ tag cx s x, s.mgmt.waiting = [] → cx < 64 → s.ctx? cx = some x → x.phase ≠ .active → ∃ t, exec (.preempt tag cx) s = .next t ∧
    Responded s t 0x11 tag 1 [] ∧ t.ctxs = s.ctxs ∧ t.blocks = s.blocks) ∧
  (∀ tag cx q sq s x l, s.mgmt.waiting = [] → cx < 64 → q < 16 → s.ctx? cx = some x → x.phase = .active →
    (s.queued q).find? (fun l => l.seq == sq && l.ctx == cx && l.started) = some l → cutFits x l = true → s.launch? l.uid = some l →
    l.cutDone = false → (∀ a ∈ s.blocks, a.ctx = cx → a.restarts = false ∨ a.launch = l.uid) → ∃ t y z,
      exec (.preemptCut tag cx q sq) s = .next t ∧ t.launch? l.uid = some y ∧ y.cut = some 0 ∧ t.ctx? cx = some z ∧
      z.phase = .cutting ∧ z.cutLaunch = some l.uid ∧ Responded s t 0x12 tag 0 [] ∧ t.blocks = s.blocks.map fun b =>
        if b.launch == l.uid then { b with waves := b.waves.map Wave.wake } else b) ∧
  (∀ tag cx s x, s.mgmt.waiting = [] → cx < 64 → s.ctx? cx = some x → ∃ t, exec (.unpreempt tag cx) s = .next t ∧
    t.ctx? cx = some (if x.phase = .preempted then { x with phase := .active } else x) ∧
    Responded s t 0x13 tag (if x.phase = .preempted then 0 else 1) [] ∧ t.blocks = s.blocks ∧ MemKept s t) ∧
  (∀ tag cx s x, s.mgmt.waiting = [] → cx < 64 → s.ctx? cx = some x → x.phase = .active ∨ x.phase = .preempted → ∃ t,
    exec (.resetctx tag cx) s = .next t ∧ ∀ y, t.ctx? cx = some y → y.phase = .preempted ∧ y.timers = [] ∧ y.entryWait = []) ∧
  (∀ tag cx s, s.mgmt.waiting = [] → cx < 64 → (∀ x, s.ctx? cx = some x → x.phase ≠ .active ∧ x.phase ≠ .preempted) → ∃ t,
    exec (.resetctx tag cx) s = .next t ∧ Responded s t 0x14 tag 1 [] ∧ t.blocks = s.blocks ∧ t.ctxs = s.ctxs) ∧
  (∀ tag cx base len s, s.mgmt.waiting = [] → cx < 64 → ∃ t, exec (.invalidate tag cx base len) s = .next t ∧
    t.tlb = s.tlb.filter (fun e => !e.within cx base len) ∧ t.blocks = s.blocks ∧ MemKept s t ∧
    ((∀ b ∈ s.blocks, b.ctx ≠ cx) → (∀ x ∈ s.sv.tags, x.req.translated cx = false) →
      (∀ q ∈ s.sv.egress, ∀ r, q.req = some r → r.translated cx = false) → Responded s t 0x15 tag 0 []) ∧
    ∀ x ∈ s.sv.tags, x.req.translated cx = true → t.mgmt.responses = s.mgmt.responses) ∧
  (∀ tag cx rec s x s1 c, s.mgmt.waiting = [] → cx < 64 → rec.toNat % 64 = 0 → s.ctx? cx = some x →
    s.commOf cx rec = .ok (s1, some c) → ∃ t,
    exec (.commcreate tag cx rec) s = .next t ∧ t.mantle.comms = s.mantle.comms ++ [c] ∧ c.phase = .active ∧ s.comm? c.id = none ∧
    c.gen = getAt 0 s.mantle.gens c.id ∧ Responded s t 0x20 tag 0 [BitVec.ofNat 32 (c.id + 64 * c.gen)] ∧ MemKept s t) ∧
  (∀ tag cx rec s s1, s.mgmt.waiting = [] → cx < 64 → rec.toNat % 64 = 0 → s.commOf cx rec = .ok (s1, none) → ∃ t,
    exec (.commcreate tag cx rec) s = .next t ∧ Responded s t 0x20 tag 1 [] ∧ t.mantle.comms = s.mantle.comms ∧ MemKept s t) ∧
  (∀ tag cx rec s x asks, s.mgmt.waiting = [] → cx < 64 → rec.toNat % 64 = 0 → s.ctx? cx = some x →
    s.commOf cx rec = .error asks → ∃ t, exec (.commcreate tag cx rec) s = .next t ∧ t.mgmt.responses = s.mgmt.responses ∧
    t.mgmt.waiting = [[0x20, tag, cx, rec.toNat]] ∧ t.mantle.comms = s.mantle.comms ∧ t.blocks = s.blocks ∧ MemKept s t ∧
    ∀ q ∈ asks, ∃ r ∈ t.mantle.reads, r.key = 64 ∧ r.dev = q.1 ∧ r.sector = q.2.2) ∧
  (∀ tag id s c, s.mgmt.waiting = [] → id < 64 → s.comm? id = some c → c.phase = .active → ∃ t, exec (.commretire tag id) s = .next t ∧
    (∀ c', t.comm? id = some c' → c'.phase ≠ .active ∧ c'.queue = c.queue ∧ c'.run = c.run) ∧
    (t.comm? id = none → c.queue = [] ∧ c.run = none ∧ c.sends = []) ∧ Responded s t 0x21 tag 0 [] ∧
    t.blocks = s.blocks ∧ MemKept s t) ∧
  (∀ tag id s c, s.mgmt.waiting = [] → id < 64 → s.comm? id = some c → c.phase ≠ .active → ∃ t, exec (.commretire tag id) s = .next t ∧
    t.mantle = s.mantle ∧ Responded s t 0x21 tag 1 []) ∧
  (∀ tag cx (addr : BitVec 64) slots s x, s.mgmt.waiting = [] → cx < 64 → 1 ≤ slots → slots ≤ 4096 → s.ctx? cx = some x → ∃ t y,
    exec (.recarea tag cx addr slots) s = .next t ∧ t.ctx? cx = some y ∧ y.recAddr = addr ∧ (∀ d, y.credit d = slots) ∧
    Responded s t 0x22 tag 0 [] ∧ t.blocks = s.blocks ∧ MemKept s t)

/-- R30, R33, R36, R54: words written out from the encoding tables decode to what they stand for; an undefined opcode and a
fixed bit that is wrong are rejected. -/
def Obligations.DecodeWords : Prop :=
  decodeBytes [0x02, 0x01, 0x03, 0x00] = .ok (.iadd false 3 1 2, []) ∧
  decodeBytes [0x00, 0x00, 0x05, 0xBC, 0x00, 0x00, 0x80, 0x3F] = .ok (.movl false 5 0x3F800000, []) ∧
  decodeBytes [0x10, 0x04, 0x08, 0xC4] = .ok (.ldw 4 2 1 0 false, []) ∧
  decodeBytes [0x00, 0x00, 0x10, 0xFA] = .ok (.exit, []) ∧
  decodeStreamBytes [0x00, 0x00, 0x00, 0x14, 0x00, 0x00, 0x00, 0x40] = .ok (.mstep 5, []) ∧
  decodeBytes [0x00, 0x00, 0x00, 0xEE] = .error .undefinedOpcode ∧
  decodeBytes [0x01, 0x00, 0x00, 0xFA] = .error (.fixedBits "NOP")

/-- Decoding and encoding agree (R30, R33, R36, R54, R55): the bytes of every instruction that has a word decode to that
instruction with every operand, whatever follows them; and bytes that decode are the bytes of what they decode to, so no
bit of a word is passed over. -/
def Obligations.DecodeEncode : Prop := ∀ (i : Instr) (rest bs : List Byte),
  (i.kind = .clause → decodeBytes (encodeBytes i ++ rest) = .ok (i, rest)) ∧
  (i.kind = .stream → decodeStreamBytes (encodeBytes i ++ rest) = .ok (i, rest)) ∧
  (decodeBytes bs = .ok (i, rest) → i.kind = .clause ∧ i.wf = true ∧ bs = encodeBytes i ++ rest) ∧
  (decodeStreamBytes bs = .ok (i, rest) → i.kind = .stream ∧ i.wf = true ∧ bs = encodeBytes i ++ rest)

/-- R7, R30, R33, R54, R55, R453: one step. The oldest outside event comes first (log 2), then what the device's own steps bring
(log 1), then the word at the clause's or the stream's place: the step is the meaning of the instruction its bytes decode to.
Bytes that decode to nothing are an undefined opcode, or a stream fault. A frozen device does nothing until it is reset.
Rests on the model's choices of log 1, 2, 43, which are no rules of the spec: that a frozen device drops the events that come
is the model's choice (log 43). -/
def Obligations.StepRunsDecodedWord : Prop :=
  (∀ s c bs i rest, s.agenda = [] → s.rel.frozen = false → s.due = none → s.nextWord = .word c → s.wordBytes c = .ok bs →
    decodeBytes bs = .ok (i, rest) → step s = exec i s) ∧
  (∀ s c bs e, s.agenda = [] → s.rel.frozen = false → s.due = none → s.nextWord = .word c → s.wordBytes c = .ok bs →
    decodeBytes bs = .error e → step s = exec (.undefinedOpcode (firstWord bs)) s) ∧
  (∀ s b t bs i rest, s.agenda = [] → s.rel.frozen = false → s.due = none → s.nextWord = .stream b t →
    s.streamBytesAt b t = .ok bs → decodeStreamBytes bs = .ok (i, rest) → step s = exec i s) ∧
  (∀ s b t bs e, s.agenda = [] → s.rel.frozen = false → s.due = none → s.nextWord = .stream b t →
    s.streamBytesAt b t = .ok bs → decodeStreamBytes bs = .error e → step s = exec (.streamFault b.uid) s) ∧
  (∀ (s : State) c i r, s.cur? = some c → s.issues = i :: r → s.streamCur? = none → s.nextWord = .word c) ∧
  (∀ (s : State) (c : Cur) w, s.fetch32 c.iss.core c.blk.ctx (c.iss.pc + BitVec.ofNat 64 (4 * c.iss.k)) = .ok w → hasLiteral w = false →
    s.wordBytes c = .ok [w.extractLsb' 0 8, w.extractLsb' 8 8, w.extractLsb' 16 8, w.extractLsb' 24 8]) ∧
  (∀ s i r, s.agenda = i :: r → s.rel.frozen = false → step s = exec i { s with agenda := r }) ∧
  (∀ s t, s.agenda = [] → s.rel.frozen = false → s.due = some t → step s = .next t) ∧
  (∀ s, s.agenda = [] → s.rel.frozen = false → s.due = none → s.issues = [] → s.streamCur? = none →
    step s = .next { s with now := s.now + 1 }) ∧
  (∀ s, s.rel.frozen = true → (∀ i r, s.agenda = i :: r → isReset i = false) →
    step s = .next { s with agenda := s.agenda.tail }) ∧
  (∀ s r, s.agenda = .reset :: r → step s = exec .reset { s with agenda := r })

/-- R296, R318, R385, R418, R441, R469: what reset leaves: queues that are not valid with QNEXT 1, ring registers of 0,
counters of 0, SVTIMEOUT 20, RECLIM 8, REQLIM 16, no freeze mask, no fence; its memories are canonical and nothing is at
hand.
Rests on the model's choices of log 3, 13, which are no rules of the spec (the model's choice). -/
def Obligations.ResetState : Prop :=
  (∀ q, State.reset.queue q = { id := q, valid := false, ctx := 0, next := 1, drops := 0, assign := 0 }) ∧
  (∀ c, State.reset.ctx? c = none ∧ (Ctx.fresh c).rbase = 0 ∧ (Ctx.fresh c).rsize = 0 ∧ (Ctx.fresh c).rprod = 0 ∧ (Ctx.fresh c).rcons = 0) ∧
  (∀ k, getAt 0 State.reset.sv.counters k = 0 ∧ getAt 0 State.reset.mantle.counters k = 0 ∧ getAt 0 State.reset.rel.die k = 0 ∧
    getAt 0 State.reset.rel.stack k = 0) ∧
  (∀ k, (State.reset.core k).strike = 0 ∧ (State.reset.core k).replay = 0 ∧ (State.reset.core k).fenced = false) ∧
  State.reset.mgmt.svTimeout = 20 ∧ State.reset.mgmt.recLim = 8 ∧ State.reset.mgmt.reqLim = 16 ∧ State.reset.mgmt.freezeMask = 0 ∧
  State.reset.rel.frozen = false ∧ State.reset.blocks = [] ∧ State.reset.launches = [] ∧ State.reset.memWf ∧ State.reset.agendaOk

/-- Every step keeps device memory, HBM4E cells and host memory in canonical form: no address twice, addresses rising, no
byte listed that reads as it would unlisted.
Rests on the model's choices of log 3, which are no rules of the spec (the model's choice). -/
def Obligations.MemoryCanonicalKept : Prop := ∀ s t, s.memWf → step s = .next t → t.memWf

/-- No run stops: from every state in which what the outside world is about to do are events, the device makes a step, and
what is left to come are still events.
Rests on the model's choices of log 1, 2, which are no rules of the spec (the model's choice). -/
def Obligations.ProgressAlways : Prop := ∀ s : State, s.agendaOk → ∃ t, step s = .next t ∧ t.agendaOk
end

