-- ==== Sys2Proof/Laws/Cells.lean ====
section
/-! SUPPORT. The laws of sparse storage: a read after a write, and the canonical form that every write keeps. -/

namespace Sys2Proof.Machine

open Sys2Proof

theorem getAt_dropKey_same {α : Type} (d : α) (m : Cells α) (k : Nat) : getAt d (dropKey m k) k = d := by
  induction m with
  | nil => rfl
  | cons e t ih =>
    obtain ⟨a, u⟩ := e
    by_cases h : a = k
    · simpa [dropKey, h] using ih
    · simpa [dropKey, getAt, h] using ih

theorem getAt_dropKey_ne {α : Type} (d : α) (m : Cells α) {k j : Nat} (h : j ≠ k) : getAt d (dropKey m k) j = getAt d m j := by
  induction m with
  | nil => rfl
  | cons e t ih =>
    obtain ⟨a, u⟩ := e
    by_cases hk : a = k
    · have : ¬a = j := fun hj => h (hj ▸ hk)
      simpa [dropKey, getAt, hk, Ne.symm h] using ih
    · by_cases hj : a = j
      · simp [dropKey, getAt, hj, h]
      · simpa [dropKey, getAt, hk, hj] using ih

theorem cellsAbove_le {α : Type} {a b : Nat} : ∀ {m : Cells α}, cellsAbove b m = true → a ≤ b → cellsAbove a m = true
  | [], _, _ => rfl
  | (c, _) :: _, h, hab => by simp [cellsAbove] at *; omega

variable {α : Type} [DecidableEq α]

/-- A read of the index just written. -/
theorem getAt_setAt_same (d : α) (m : Cells α) (k : Nat) (v : α) : getAt d (setAt d m k v) k = v := by
  induction m with
  | nil => by_cases h : v = d <;> simp [setAt, getAt, h]
  | cons e t ih =>
    obtain ⟨a, u⟩ := e
    by_cases hlt : k < a
    · by_cases h : v = d
      · simp [setAt, hlt, h, getAt_dropKey_same]
      · simp [setAt, hlt, h, getAt]
    · by_cases hk : k = a
      · by_cases h : v = d
        · simp [setAt, hk, h, getAt_dropKey_same]
        · simp [setAt, hk, h, getAt]
      · simpa [setAt, hlt, hk, getAt, Ne.symm hk] using ih

/-- A read of another index. -/
theorem getAt_setAt_ne (d : α) (m : Cells α) {k j : Nat} (v : α) (h : j ≠ k) :
    getAt d (setAt d m k v) j = getAt d m j := by
  induction m with
  | nil => by_cases hv : v = d <;> simp [setAt, getAt, hv, Ne.symm h]
  | cons e t ih =>
    obtain ⟨a, u⟩ := e
    by_cases hlt : k < a
    · by_cases hv : v = d
      · simp [setAt, hlt, hv, getAt_dropKey_ne d _ h]
      · simp [setAt, hlt, hv, getAt, Ne.symm h]
    · by_cases hk : k = a
      · by_cases hv : v = d
        · simp [setAt, hk, hv, getAt, getAt_dropKey_ne d t (hk ▸ h), Ne.symm (hk ▸ h)]
        · simp [setAt, hk, hv, getAt, Ne.symm (hk ▸ h)]
      · by_cases hj : a = j
        · subst hj
          simp [setAt, hlt, hk, getAt]
        · simpa [setAt, hlt, hk, getAt, hj] using ih

theorem getAt_setAt (d : α) (m : Cells α) (k j : Nat) (v : α) :
    getAt d (setAt d m k v) j = if j = k then v else getAt d m j := by
  by_cases h : j = k
  · simp [h, getAt_setAt_same]
  · simp [h, getAt_setAt_ne d m v h]

theorem cellsWf_cons (d : α) (a : Nat) (u : α) (t : Cells α) :
    cellsWf d ((a, u) :: t) = true ↔ u ≠ d ∧ cellsAbove a t = true ∧ cellsWf d t = true := by
  simp [cellsWf, and_assoc]

theorem dropKey_above {d : α} : ∀ {m : Cells α} {k : Nat}, cellsWf d m = true → cellsAbove k m = true →
    dropKey m k = m
  | [], _, _, _ => rfl
  | (a, u) :: t, k, hw, ha => by
    obtain ⟨_, hat, hwt⟩ := (cellsWf_cons d a u t).1 hw
    have hka : k < a := by simpa [cellsAbove] using ha
    have := dropKey_above hwt (cellsAbove_le hat (Nat.le_of_lt hka))
    have hne : a ≠ k := by omega
    simpa [dropKey, hne] using this

theorem cellsAbove_setAt {d : α} {a k : Nat} (hak : a < k) (v : α) :
    ∀ {m : Cells α}, cellsWf d m = true → cellsAbove a m = true → cellsAbove a (setAt d m k v) = true
  | [], _, _ => by by_cases hv : v = d <;> simp [setAt, cellsAbove, hv, hak]
  | (b, u) :: t, hw, hab => by
    obtain ⟨_, hbt, hwt⟩ := (cellsWf_cons d b u t).1 hw
    have hlt : a < b := by simpa [cellsAbove] using hab
    by_cases h1 : k < b
    · by_cases hv : v = d
      · have : dropKey ((b, u) :: t) k = (b, u) :: t := dropKey_above hw (by simpa [cellsAbove] using h1)
        simpa [setAt, h1, hv, this] using hab
      · simpa [setAt, h1, hv, cellsAbove] using hak
    · by_cases h2 : k = b
      · subst h2
        by_cases hv : v = d
        · simpa [setAt, hv, dropKey_above hwt hbt] using cellsAbove_le hbt (Nat.le_of_lt hlt)
        · simpa [setAt, hv, cellsAbove] using hak
      · simpa [setAt, h1, h2, cellsAbove] using hlt

/-- A write keeps the canonical form. -/
theorem cellsWf_setAt (d : α) (k : Nat) (v : α) :
    ∀ {m : Cells α}, cellsWf d m = true → cellsWf d (setAt d m k v) = true
  | [], _ => by by_cases hv : v = d <;> simp [setAt, cellsWf, cellsAbove, hv]
  | (a, u) :: t, hw => by
    obtain ⟨hu, hat, hwt⟩ := (cellsWf_cons d a u t).1 hw
    by_cases h1 : k < a
    · by_cases hv : v = d
      · have : dropKey ((a, u) :: t) k = (a, u) :: t := dropKey_above hw (by simpa [cellsAbove] using h1)
        simpa [setAt, h1, hv, this] using hw
      · simp only [setAt, h1, hv, if_true, if_false]
        exact (cellsWf_cons d k v _).2 ⟨hv, by simpa [cellsAbove] using h1, hw⟩
    · by_cases h2 : k = a
      · subst h2
        by_cases hv : v = d
        · simpa [setAt, hv, dropKey_above hwt hat] using hwt
        · simp only [setAt, Nat.lt_irrefl, hv, if_true, if_false]
          exact (cellsWf_cons d k v t).2 ⟨hv, hat, hwt⟩
      · simp only [setAt, h1, h2, if_false]
        exact (cellsWf_cons d a u _).2 ⟨hu, cellsAbove_setAt (by omega) v hwt hat, cellsWf_setAt d k v hwt⟩

/-- Consecutive writes keep the canonical form. -/
theorem cellsWf_setRun (d : α) : ∀ (vs : List α) {m : Cells α} (k : Nat), cellsWf d m = true →
    cellsWf d (setRun d m k vs) = true
  | [], _, _, hw => hw
  | v :: vs, _, k, hw => cellsWf_setRun d vs (k + 1) (cellsWf_setAt d k v hw)

/-- A read outside the indexes written. -/
theorem getAt_setRun_out (d : α) : ∀ (vs : List α) (m : Cells α) (k j : Nat), j < k ∨ k + vs.length ≤ j →
    getAt d (setRun d m k vs) j = getAt d m j
  | [], _, _, _, _ => rfl
  | v :: vs, m, k, j, h => by
    have hl : (v :: vs).length = vs.length + 1 := rfl
    simp only [setRun]
    rw [getAt_setRun_out d vs (setAt d m k v) (k + 1) j (by omega), getAt_setAt_ne d m v (by omega)]

/-- A read of one of the indexes written. -/
theorem getAt_setRun_in (d : α) : ∀ (vs : List α) (m : Cells α) (k i : Nat) (h : i < vs.length),
    getAt d (setRun d m k vs) (k + i) = vs[i]
  | v :: vs, m, k, 0, _ => by
    simp only [setRun, Nat.add_zero, List.getElem_cons_zero]
    rw [getAt_setRun_out d vs (setAt d m k v) (k + 1) k (by omega), getAt_setAt_same]
  | v :: vs, m, k, i + 1, h => by
    simp only [setRun, List.getElem_cons_succ]
    rw [show k + (i + 1) = k + 1 + i by omega]
    exact getAt_setRun_in d vs (setAt d m k v) (k + 1) i (by simpa using h)

end Sys2Proof.Machine
end

