-- ==== Sys2Proof/Laws/State.lean ====
section
/-! SUPPORT. One lemma for each field of State and each named update: what the update leaves alone. -/

namespace Sys2Proof.Machine

open Sys2Proof

@[simp] theorem State.tick_now (s : State) : s.tick.now = s.now + 1 := rfl
@[simp] theorem State.updCore_cores (s : State) (c : Nat) (f : Core → Core) :
    (s.updCore c f).cores = upsert (fun x => x.id == c) (Core.fresh c) f s.cores := rfl
@[simp] theorem State.updBlock_blocks (s : State) (u : Nat) (f : Block → Block) :
    (s.updBlock u f).blocks = updFirst (fun b => b.uid == u) f s.blocks := rfl
@[simp] theorem State.raise_raised (s : State) (v : Nat) : (s.raise v).raised = s.raised ++ [v] := rfl

@[simp] theorem State.tick_agenda (s : State) : s.tick.agenda = s.agenda := rfl
@[simp] theorem State.tick_free (s : State) : s.tick.free = s.free := rfl
@[simp] theorem State.tick_issues (s : State) : s.tick.issues = s.issues := rfl
@[simp] theorem State.tick_mem (s : State) : s.tick.mem = s.mem := rfl
@[simp] theorem State.tick_dram (s : State) : s.tick.dram = s.dram := rfl
@[simp] theorem State.tick_hostMem (s : State) : s.tick.hostMem = s.hostMem := rfl
@[simp] theorem State.tick_l1 (s : State) : s.tick.l1 = s.l1 := rfl
@[simp] theorem State.tick_l2 (s : State) : s.tick.l2 = s.l2 := rfl
@[simp] theorem State.tick_reports (s : State) : s.tick.reports = s.reports := rfl
@[simp] theorem State.tick_rdc (s : State) : s.tick.rdc = s.rdc := rfl
@[simp] theorem State.tick_icache (s : State) : s.tick.icache = s.icache := rfl
@[simp] theorem State.tick_raycache (s : State) : s.tick.raycache = s.raycache := rfl
@[simp] theorem State.tick_rayClear (s : State) : s.tick.rayClear = s.rayClear := rfl
@[simp] theorem State.tick_tlb (s : State) : s.tick.tlb = s.tlb := rfl
@[simp] theorem State.tick_ctxs (s : State) : s.tick.ctxs = s.ctxs := rfl
@[simp] theorem State.tick_queues (s : State) : s.tick.queues = s.queues := rfl
@[simp] theorem State.tick_slots (s : State) : s.tick.slots = s.slots := rfl
@[simp] theorem State.tick_msix (s : State) : s.tick.msix = s.msix := rfl
@[simp] theorem State.tick_pba (s : State) : s.tick.pba = s.pba := rfl
@[simp] theorem State.tick_raised (s : State) : s.tick.raised = s.raised := rfl
@[simp] theorem State.tick_launches (s : State) : s.tick.launches = s.launches := rfl
@[simp] theorem State.tick_nextOrder (s : State) : s.tick.nextOrder = s.nextOrder := rfl
@[simp] theorem State.tick_nextUid (s : State) : s.tick.nextUid = s.nextUid := rfl
@[simp] theorem State.tick_cores (s : State) : s.tick.cores = s.cores := rfl
@[simp] theorem State.tick_blocks (s : State) : s.tick.blocks = s.blocks := rfl
@[simp] theorem State.tick_sv (s : State) : s.tick.sv = s.sv := rfl
@[simp] theorem State.tick_mantle (s : State) : s.tick.mantle = s.mantle := rfl
@[simp] theorem State.tick_rel (s : State) : s.tick.rel = s.rel := rfl
@[simp] theorem State.tick_mgmt (s : State) : s.tick.mgmt = s.mgmt := rfl

@[simp] theorem State.updCore_now (s : State) (c : Nat) (f : Core → Core) : (s.updCore c f).now = s.now := rfl
@[simp] theorem State.updCore_agenda (s : State) (c : Nat) (f : Core → Core) : (s.updCore c f).agenda = s.agenda := rfl
@[simp] theorem State.updCore_free (s : State) (c : Nat) (f : Core → Core) : (s.updCore c f).free = s.free := rfl
@[simp] theorem State.updCore_issues (s : State) (c : Nat) (f : Core → Core) : (s.updCore c f).issues = s.issues := rfl
@[simp] theorem State.updCore_mem (s : State) (c : Nat) (f : Core → Core) : (s.updCore c f).mem = s.mem := rfl
@[simp] theorem State.updCore_dram (s : State) (c : Nat) (f : Core → Core) : (s.updCore c f).dram = s.dram := rfl
@[simp] theorem State.updCore_hostMem (s : State) (c : Nat) (f : Core → Core) : (s.updCore c f).hostMem = s.hostMem := rfl
@[simp] theorem State.updCore_l1 (s : State) (c : Nat) (f : Core → Core) : (s.updCore c f).l1 = s.l1 := rfl
@[simp] theorem State.updCore_l2 (s : State) (c : Nat) (f : Core → Core) : (s.updCore c f).l2 = s.l2 := rfl
@[simp] theorem State.updCore_reports (s : State) (c : Nat) (f : Core → Core) : (s.updCore c f).reports = s.reports := rfl
@[simp] theorem State.updCore_rdc (s : State) (c : Nat) (f : Core → Core) : (s.updCore c f).rdc = s.rdc := rfl
@[simp] theorem State.updCore_icache (s : State) (c : Nat) (f : Core → Core) : (s.updCore c f).icache = s.icache := rfl
@[simp] theorem State.updCore_raycache (s : State) (c : Nat) (f : Core → Core) : (s.updCore c f).raycache = s.raycache := rfl
@[simp] theorem State.updCore_rayClear (s : State) (c : Nat) (f : Core → Core) : (s.updCore c f).rayClear = s.rayClear := rfl
@[simp] theorem State.updCore_tlb (s : State) (c : Nat) (f : Core → Core) : (s.updCore c f).tlb = s.tlb := rfl
@[simp] theorem State.updCore_ctxs (s : State) (c : Nat) (f : Core → Core) : (s.updCore c f).ctxs = s.ctxs := rfl
@[simp] theorem State.updCore_queues (s : State) (c : Nat) (f : Core → Core) : (s.updCore c f).queues = s.queues := rfl
@[simp] theorem State.updCore_slots (s : State) (c : Nat) (f : Core → Core) : (s.updCore c f).slots = s.slots := rfl
@[simp] theorem State.updCore_msix (s : State) (c : Nat) (f : Core → Core) : (s.updCore c f).msix = s.msix := rfl
@[simp] theorem State.updCore_pba (s : State) (c : Nat) (f : Core → Core) : (s.updCore c f).pba = s.pba := rfl
@[simp] theorem State.updCore_raised (s : State) (c : Nat) (f : Core → Core) : (s.updCore c f).raised = s.raised := rfl
@[simp] theorem State.updCore_launches (s : State) (c : Nat) (f : Core → Core) : (s.updCore c f).launches = s.launches := rfl
@[simp] theorem State.updCore_nextOrder (s : State) (c : Nat) (f : Core → Core) : (s.updCore c f).nextOrder = s.nextOrder := rfl
@[simp] theorem State.updCore_nextUid (s : State) (c : Nat) (f : Core → Core) : (s.updCore c f).nextUid = s.nextUid := rfl
@[simp] theorem State.updCore_blocks (s : State) (c : Nat) (f : Core → Core) : (s.updCore c f).blocks = s.blocks := rfl
@[simp] theorem State.updCore_sv (s : State) (c : Nat) (f : Core → Core) : (s.updCore c f).sv = s.sv := rfl
@[simp] theorem State.updCore_mantle (s : State) (c : Nat) (f : Core → Core) : (s.updCore c f).mantle = s.mantle := rfl
@[simp] theorem State.updCore_rel (s : State) (c : Nat) (f : Core → Core) : (s.updCore c f).rel = s.rel := rfl
@[simp] theorem State.updCore_mgmt (s : State) (c : Nat) (f : Core → Core) : (s.updCore c f).mgmt = s.mgmt := rfl

@[simp] theorem State.updBlock_now (s : State) (u : Nat) (f : Block → Block) : (s.updBlock u f).now = s.now := rfl
@[simp] theorem State.updBlock_agenda (s : State) (u : Nat) (f : Block → Block) : (s.updBlock u f).agenda = s.agenda := rfl
@[simp] theorem State.updBlock_free (s : State) (u : Nat) (f : Block → Block) : (s.updBlock u f).free = s.free := rfl
@[simp] theorem State.updBlock_issues (s : State) (u : Nat) (f : Block → Block) : (s.updBlock u f).issues = s.issues := rfl
@[simp] theorem State.updBlock_mem (s : State) (u : Nat) (f : Block → Block) : (s.updBlock u f).mem = s.mem := rfl
@[simp] theorem State.updBlock_dram (s : State) (u : Nat) (f : Block → Block) : (s.updBlock u f).dram = s.dram := rfl
@[simp] theorem State.updBlock_hostMem (s : State) (u : Nat) (f : Block → Block) : (s.updBlock u f).hostMem = s.hostMem := rfl
@[simp] theorem State.updBlock_l1 (s : State) (u : Nat) (f : Block → Block) : (s.updBlock u f).l1 = s.l1 := rfl
@[simp] theorem State.updBlock_l2 (s : State) (u : Nat) (f : Block → Block) : (s.updBlock u f).l2 = s.l2 := rfl
@[simp] theorem State.updBlock_reports (s : State) (u : Nat) (f : Block → Block) : (s.updBlock u f).reports = s.reports := rfl
@[simp] theorem State.updBlock_rdc (s : State) (u : Nat) (f : Block → Block) : (s.updBlock u f).rdc = s.rdc := rfl
@[simp] theorem State.updBlock_icache (s : State) (u : Nat) (f : Block → Block) : (s.updBlock u f).icache = s.icache := rfl
@[simp] theorem State.updBlock_raycache (s : State) (u : Nat) (f : Block → Block) : (s.updBlock u f).raycache = s.raycache := rfl
@[simp] theorem State.updBlock_rayClear (s : State) (u : Nat) (f : Block → Block) : (s.updBlock u f).rayClear = s.rayClear := rfl
@[simp] theorem State.updBlock_tlb (s : State) (u : Nat) (f : Block → Block) : (s.updBlock u f).tlb = s.tlb := rfl
@[simp] theorem State.updBlock_ctxs (s : State) (u : Nat) (f : Block → Block) : (s.updBlock u f).ctxs = s.ctxs := rfl
@[simp] theorem State.updBlock_queues (s : State) (u : Nat) (f : Block → Block) : (s.updBlock u f).queues = s.queues := rfl
@[simp] theorem State.updBlock_slots (s : State) (u : Nat) (f : Block → Block) : (s.updBlock u f).slots = s.slots := rfl
@[simp] theorem State.updBlock_msix (s : State) (u : Nat) (f : Block → Block) : (s.updBlock u f).msix = s.msix := rfl
@[simp] theorem State.updBlock_pba (s : State) (u : Nat) (f : Block → Block) : (s.updBlock u f).pba = s.pba := rfl
@[simp] theorem State.updBlock_raised (s : State) (u : Nat) (f : Block → Block) : (s.updBlock u f).raised = s.raised := rfl
@[simp] theorem State.updBlock_launches (s : State) (u : Nat) (f : Block → Block) : (s.updBlock u f).launches = s.launches := rfl
@[simp] theorem State.updBlock_nextOrder (s : State) (u : Nat) (f : Block → Block) : (s.updBlock u f).nextOrder = s.nextOrder := rfl
@[simp] theorem State.updBlock_nextUid (s : State) (u : Nat) (f : Block → Block) : (s.updBlock u f).nextUid = s.nextUid := rfl
@[simp] theorem State.updBlock_cores (s : State) (u : Nat) (f : Block → Block) : (s.updBlock u f).cores = s.cores := rfl
@[simp] theorem State.updBlock_sv (s : State) (u : Nat) (f : Block → Block) : (s.updBlock u f).sv = s.sv := rfl
@[simp] theorem State.updBlock_mantle (s : State) (u : Nat) (f : Block → Block) : (s.updBlock u f).mantle = s.mantle := rfl
@[simp] theorem State.updBlock_rel (s : State) (u : Nat) (f : Block → Block) : (s.updBlock u f).rel = s.rel := rfl
@[simp] theorem State.updBlock_mgmt (s : State) (u : Nat) (f : Block → Block) : (s.updBlock u f).mgmt = s.mgmt := rfl

@[simp] theorem State.updWave_now (s : State) (u i : Nat) (f : Wave → Wave) : (s.updWave u i f).now = s.now := rfl
@[simp] theorem State.updWave_agenda (s : State) (u i : Nat) (f : Wave → Wave) : (s.updWave u i f).agenda = s.agenda := rfl
@[simp] theorem State.updWave_free (s : State) (u i : Nat) (f : Wave → Wave) : (s.updWave u i f).free = s.free := rfl
@[simp] theorem State.updWave_issues (s : State) (u i : Nat) (f : Wave → Wave) : (s.updWave u i f).issues = s.issues := rfl
@[simp] theorem State.updWave_mem (s : State) (u i : Nat) (f : Wave → Wave) : (s.updWave u i f).mem = s.mem := rfl
@[simp] theorem State.updWave_dram (s : State) (u i : Nat) (f : Wave → Wave) : (s.updWave u i f).dram = s.dram := rfl
@[simp] theorem State.updWave_hostMem (s : State) (u i : Nat) (f : Wave → Wave) : (s.updWave u i f).hostMem = s.hostMem := rfl
@[simp] theorem State.updWave_l1 (s : State) (u i : Nat) (f : Wave → Wave) : (s.updWave u i f).l1 = s.l1 := rfl
@[simp] theorem State.updWave_l2 (s : State) (u i : Nat) (f : Wave → Wave) : (s.updWave u i f).l2 = s.l2 := rfl
@[simp] theorem State.updWave_reports (s : State) (u i : Nat) (f : Wave → Wave) : (s.updWave u i f).reports = s.reports := rfl
@[simp] theorem State.updWave_rdc (s : State) (u i : Nat) (f : Wave → Wave) : (s.updWave u i f).rdc = s.rdc := rfl
@[simp] theorem State.updWave_icache (s : State) (u i : Nat) (f : Wave → Wave) : (s.updWave u i f).icache = s.icache := rfl
@[simp] theorem State.updWave_raycache (s : State) (u i : Nat) (f : Wave → Wave) : (s.updWave u i f).raycache = s.raycache := rfl
@[simp] theorem State.updWave_rayClear (s : State) (u i : Nat) (f : Wave → Wave) : (s.updWave u i f).rayClear = s.rayClear := rfl
@[simp] theorem State.updWave_tlb (s : State) (u i : Nat) (f : Wave → Wave) : (s.updWave u i f).tlb = s.tlb := rfl
@[simp] theorem State.updWave_ctxs (s : State) (u i : Nat) (f : Wave → Wave) : (s.updWave u i f).ctxs = s.ctxs := rfl
@[simp] theorem State.updWave_queues (s : State) (u i : Nat) (f : Wave → Wave) : (s.updWave u i f).queues = s.queues := rfl
@[simp] theorem State.updWave_slots (s : State) (u i : Nat) (f : Wave → Wave) : (s.updWave u i f).slots = s.slots := rfl
@[simp] theorem State.updWave_msix (s : State) (u i : Nat) (f : Wave → Wave) : (s.updWave u i f).msix = s.msix := rfl
@[simp] theorem State.updWave_pba (s : State) (u i : Nat) (f : Wave → Wave) : (s.updWave u i f).pba = s.pba := rfl
@[simp] theorem State.updWave_raised (s : State) (u i : Nat) (f : Wave → Wave) : (s.updWave u i f).raised = s.raised := rfl
@[simp] theorem State.updWave_launches (s : State) (u i : Nat) (f : Wave → Wave) : (s.updWave u i f).launches = s.launches := rfl
@[simp] theorem State.updWave_nextOrder (s : State) (u i : Nat) (f : Wave → Wave) : (s.updWave u i f).nextOrder = s.nextOrder := rfl
@[simp] theorem State.updWave_nextUid (s : State) (u i : Nat) (f : Wave → Wave) : (s.updWave u i f).nextUid = s.nextUid := rfl
@[simp] theorem State.updWave_cores (s : State) (u i : Nat) (f : Wave → Wave) : (s.updWave u i f).cores = s.cores := rfl
@[simp] theorem State.updWave_sv (s : State) (u i : Nat) (f : Wave → Wave) : (s.updWave u i f).sv = s.sv := rfl
@[simp] theorem State.updWave_mantle (s : State) (u i : Nat) (f : Wave → Wave) : (s.updWave u i f).mantle = s.mantle := rfl
@[simp] theorem State.updWave_rel (s : State) (u i : Nat) (f : Wave → Wave) : (s.updWave u i f).rel = s.rel := rfl
@[simp] theorem State.updWave_mgmt (s : State) (u i : Nat) (f : Wave → Wave) : (s.updWave u i f).mgmt = s.mgmt := rfl

@[simp] theorem State.updCtx_now (s : State) (c : Nat) (f : Ctx → Ctx) : (s.updCtx c f).now = s.now := rfl
@[simp] theorem State.updCtx_agenda (s : State) (c : Nat) (f : Ctx → Ctx) : (s.updCtx c f).agenda = s.agenda := rfl
@[simp] theorem State.updCtx_free (s : State) (c : Nat) (f : Ctx → Ctx) : (s.updCtx c f).free = s.free := rfl
@[simp] theorem State.updCtx_issues (s : State) (c : Nat) (f : Ctx → Ctx) : (s.updCtx c f).issues = s.issues := rfl
@[simp] theorem State.updCtx_mem (s : State) (c : Nat) (f : Ctx → Ctx) : (s.updCtx c f).mem = s.mem := rfl
@[simp] theorem State.updCtx_dram (s : State) (c : Nat) (f : Ctx → Ctx) : (s.updCtx c f).dram = s.dram := rfl
@[simp] theorem State.updCtx_hostMem (s : State) (c : Nat) (f : Ctx → Ctx) : (s.updCtx c f).hostMem = s.hostMem := rfl
@[simp] theorem State.updCtx_l1 (s : State) (c : Nat) (f : Ctx → Ctx) : (s.updCtx c f).l1 = s.l1 := rfl
@[simp] theorem State.updCtx_l2 (s : State) (c : Nat) (f : Ctx → Ctx) : (s.updCtx c f).l2 = s.l2 := rfl
@[simp] theorem State.updCtx_reports (s : State) (c : Nat) (f : Ctx → Ctx) : (s.updCtx c f).reports = s.reports := rfl
@[simp] theorem State.updCtx_rdc (s : State) (c : Nat) (f : Ctx → Ctx) : (s.updCtx c f).rdc = s.rdc := rfl
@[simp] theorem State.updCtx_icache (s : State) (c : Nat) (f : Ctx → Ctx) : (s.updCtx c f).icache = s.icache := rfl
@[simp] theorem State.updCtx_raycache (s : State) (c : Nat) (f : Ctx → Ctx) : (s.updCtx c f).raycache = s.raycache := rfl
@[simp] theorem State.updCtx_rayClear (s : State) (c : Nat) (f : Ctx → Ctx) : (s.updCtx c f).rayClear = s.rayClear := rfl
@[simp] theorem State.updCtx_tlb (s : State) (c : Nat) (f : Ctx → Ctx) : (s.updCtx c f).tlb = s.tlb := rfl
@[simp] theorem State.updCtx_queues (s : State) (c : Nat) (f : Ctx → Ctx) : (s.updCtx c f).queues = s.queues := rfl
@[simp] theorem State.updCtx_slots (s : State) (c : Nat) (f : Ctx → Ctx) : (s.updCtx c f).slots = s.slots := rfl
@[simp] theorem State.updCtx_msix (s : State) (c : Nat) (f : Ctx → Ctx) : (s.updCtx c f).msix = s.msix := rfl
@[simp] theorem State.updCtx_pba (s : State) (c : Nat) (f : Ctx → Ctx) : (s.updCtx c f).pba = s.pba := rfl
@[simp] theorem State.updCtx_raised (s : State) (c : Nat) (f : Ctx → Ctx) : (s.updCtx c f).raised = s.raised := rfl
@[simp] theorem State.updCtx_launches (s : State) (c : Nat) (f : Ctx → Ctx) : (s.updCtx c f).launches = s.launches := rfl
@[simp] theorem State.updCtx_nextOrder (s : State) (c : Nat) (f : Ctx → Ctx) : (s.updCtx c f).nextOrder = s.nextOrder := rfl
@[simp] theorem State.updCtx_nextUid (s : State) (c : Nat) (f : Ctx → Ctx) : (s.updCtx c f).nextUid = s.nextUid := rfl
@[simp] theorem State.updCtx_cores (s : State) (c : Nat) (f : Ctx → Ctx) : (s.updCtx c f).cores = s.cores := rfl
@[simp] theorem State.updCtx_blocks (s : State) (c : Nat) (f : Ctx → Ctx) : (s.updCtx c f).blocks = s.blocks := rfl
@[simp] theorem State.updCtx_sv (s : State) (c : Nat) (f : Ctx → Ctx) : (s.updCtx c f).sv = s.sv := rfl
@[simp] theorem State.updCtx_mantle (s : State) (c : Nat) (f : Ctx → Ctx) : (s.updCtx c f).mantle = s.mantle := rfl
@[simp] theorem State.updCtx_rel (s : State) (c : Nat) (f : Ctx → Ctx) : (s.updCtx c f).rel = s.rel := rfl
@[simp] theorem State.updCtx_mgmt (s : State) (c : Nat) (f : Ctx → Ctx) : (s.updCtx c f).mgmt = s.mgmt := rfl

@[simp] theorem State.updLaunch_now (s : State) (l : Nat) (f : Launch → Launch) : (s.updLaunch l f).now = s.now := rfl
@[simp] theorem State.updLaunch_agenda (s : State) (l : Nat) (f : Launch → Launch) : (s.updLaunch l f).agenda = s.agenda := rfl
@[simp] theorem State.updLaunch_free (s : State) (l : Nat) (f : Launch → Launch) : (s.updLaunch l f).free = s.free := rfl
@[simp] theorem State.updLaunch_issues (s : State) (l : Nat) (f : Launch → Launch) : (s.updLaunch l f).issues = s.issues := rfl
@[simp] theorem State.updLaunch_mem (s : State) (l : Nat) (f : Launch → Launch) : (s.updLaunch l f).mem = s.mem := rfl
@[simp] theorem State.updLaunch_dram (s : State) (l : Nat) (f : Launch → Launch) : (s.updLaunch l f).dram = s.dram := rfl
@[simp] theorem State.updLaunch_hostMem (s : State) (l : Nat) (f : Launch → Launch) : (s.updLaunch l f).hostMem = s.hostMem := rfl
@[simp] theorem State.updLaunch_l1 (s : State) (l : Nat) (f : Launch → Launch) : (s.updLaunch l f).l1 = s.l1 := rfl
@[simp] theorem State.updLaunch_l2 (s : State) (l : Nat) (f : Launch → Launch) : (s.updLaunch l f).l2 = s.l2 := rfl
@[simp] theorem State.updLaunch_reports (s : State) (l : Nat) (f : Launch → Launch) : (s.updLaunch l f).reports = s.reports := rfl
@[simp] theorem State.updLaunch_rdc (s : State) (l : Nat) (f : Launch → Launch) : (s.updLaunch l f).rdc = s.rdc := rfl
@[simp] theorem State.updLaunch_icache (s : State) (l : Nat) (f : Launch → Launch) : (s.updLaunch l f).icache = s.icache := rfl
@[simp] theorem State.updLaunch_raycache (s : State) (l : Nat) (f : Launch → Launch) : (s.updLaunch l f).raycache = s.raycache := rfl
@[simp] theorem State.updLaunch_rayClear (s : State) (l : Nat) (f : Launch → Launch) : (s.updLaunch l f).rayClear = s.rayClear := rfl
@[simp] theorem State.updLaunch_tlb (s : State) (l : Nat) (f : Launch → Launch) : (s.updLaunch l f).tlb = s.tlb := rfl
@[simp] theorem State.updLaunch_ctxs (s : State) (l : Nat) (f : Launch → Launch) : (s.updLaunch l f).ctxs = s.ctxs := rfl
@[simp] theorem State.updLaunch_queues (s : State) (l : Nat) (f : Launch → Launch) : (s.updLaunch l f).queues = s.queues := rfl
@[simp] theorem State.updLaunch_slots (s : State) (l : Nat) (f : Launch → Launch) : (s.updLaunch l f).slots = s.slots := rfl
@[simp] theorem State.updLaunch_msix (s : State) (l : Nat) (f : Launch → Launch) : (s.updLaunch l f).msix = s.msix := rfl
@[simp] theorem State.updLaunch_pba (s : State) (l : Nat) (f : Launch → Launch) : (s.updLaunch l f).pba = s.pba := rfl
@[simp] theorem State.updLaunch_raised (s : State) (l : Nat) (f : Launch → Launch) : (s.updLaunch l f).raised = s.raised := rfl
@[simp] theorem State.updLaunch_nextOrder (s : State) (l : Nat) (f : Launch → Launch) : (s.updLaunch l f).nextOrder = s.nextOrder := rfl
@[simp] theorem State.updLaunch_nextUid (s : State) (l : Nat) (f : Launch → Launch) : (s.updLaunch l f).nextUid = s.nextUid := rfl
@[simp] theorem State.updLaunch_cores (s : State) (l : Nat) (f : Launch → Launch) : (s.updLaunch l f).cores = s.cores := rfl
@[simp] theorem State.updLaunch_blocks (s : State) (l : Nat) (f : Launch → Launch) : (s.updLaunch l f).blocks = s.blocks := rfl
@[simp] theorem State.updLaunch_sv (s : State) (l : Nat) (f : Launch → Launch) : (s.updLaunch l f).sv = s.sv := rfl
@[simp] theorem State.updLaunch_mantle (s : State) (l : Nat) (f : Launch → Launch) : (s.updLaunch l f).mantle = s.mantle := rfl
@[simp] theorem State.updLaunch_rel (s : State) (l : Nat) (f : Launch → Launch) : (s.updLaunch l f).rel = s.rel := rfl
@[simp] theorem State.updLaunch_mgmt (s : State) (l : Nat) (f : Launch → Launch) : (s.updLaunch l f).mgmt = s.mgmt := rfl

@[simp] theorem State.updQueue_now (s : State) (q : Nat) (f : Queue → Queue) : (s.updQueue q f).now = s.now := rfl
@[simp] theorem State.updQueue_agenda (s : State) (q : Nat) (f : Queue → Queue) : (s.updQueue q f).agenda = s.agenda := rfl
@[simp] theorem State.updQueue_free (s : State) (q : Nat) (f : Queue → Queue) : (s.updQueue q f).free = s.free := rfl
@[simp] theorem State.updQueue_issues (s : State) (q : Nat) (f : Queue → Queue) : (s.updQueue q f).issues = s.issues := rfl
@[simp] theorem State.updQueue_mem (s : State) (q : Nat) (f : Queue → Queue) : (s.updQueue q f).mem = s.mem := rfl
@[simp] theorem State.updQueue_dram (s : State) (q : Nat) (f : Queue → Queue) : (s.updQueue q f).dram = s.dram := rfl
@[simp] theorem State.updQueue_hostMem (s : State) (q : Nat) (f : Queue → Queue) : (s.updQueue q f).hostMem = s.hostMem := rfl
@[simp] theorem State.updQueue_l1 (s : State) (q : Nat) (f : Queue → Queue) : (s.updQueue q f).l1 = s.l1 := rfl
@[simp] theorem State.updQueue_l2 (s : State) (q : Nat) (f : Queue → Queue) : (s.updQueue q f).l2 = s.l2 := rfl
@[simp] theorem State.updQueue_reports (s : State) (q : Nat) (f : Queue → Queue) : (s.updQueue q f).reports = s.reports := rfl
@[simp] theorem State.updQueue_rdc (s : State) (q : Nat) (f : Queue → Queue) : (s.updQueue q f).rdc = s.rdc := rfl
@[simp] theorem State.updQueue_icache (s : State) (q : Nat) (f : Queue → Queue) : (s.updQueue q f).icache = s.icache := rfl
@[simp] theorem State.updQueue_raycache (s : State) (q : Nat) (f : Queue → Queue) : (s.updQueue q f).raycache = s.raycache := rfl
@[simp] theorem State.updQueue_rayClear (s : State) (q : Nat) (f : Queue → Queue) : (s.updQueue q f).rayClear = s.rayClear := rfl
@[simp] theorem State.updQueue_tlb (s : State) (q : Nat) (f : Queue → Queue) : (s.updQueue q f).tlb = s.tlb := rfl
@[simp] theorem State.updQueue_ctxs (s : State) (q : Nat) (f : Queue → Queue) : (s.updQueue q f).ctxs = s.ctxs := rfl
@[simp] theorem State.updQueue_slots (s : State) (q : Nat) (f : Queue → Queue) : (s.updQueue q f).slots = s.slots := rfl
@[simp] theorem State.updQueue_msix (s : State) (q : Nat) (f : Queue → Queue) : (s.updQueue q f).msix = s.msix := rfl
@[simp] theorem State.updQueue_pba (s : State) (q : Nat) (f : Queue → Queue) : (s.updQueue q f).pba = s.pba := rfl
@[simp] theorem State.updQueue_raised (s : State) (q : Nat) (f : Queue → Queue) : (s.updQueue q f).raised = s.raised := rfl
@[simp] theorem State.updQueue_launches (s : State) (q : Nat) (f : Queue → Queue) : (s.updQueue q f).launches = s.launches := rfl
@[simp] theorem State.updQueue_nextOrder (s : State) (q : Nat) (f : Queue → Queue) : (s.updQueue q f).nextOrder = s.nextOrder := rfl
@[simp] theorem State.updQueue_nextUid (s : State) (q : Nat) (f : Queue → Queue) : (s.updQueue q f).nextUid = s.nextUid := rfl
@[simp] theorem State.updQueue_cores (s : State) (q : Nat) (f : Queue → Queue) : (s.updQueue q f).cores = s.cores := rfl
@[simp] theorem State.updQueue_blocks (s : State) (q : Nat) (f : Queue → Queue) : (s.updQueue q f).blocks = s.blocks := rfl
@[simp] theorem State.updQueue_sv (s : State) (q : Nat) (f : Queue → Queue) : (s.updQueue q f).sv = s.sv := rfl
@[simp] theorem State.updQueue_mantle (s : State) (q : Nat) (f : Queue → Queue) : (s.updQueue q f).mantle = s.mantle := rfl
@[simp] theorem State.updQueue_rel (s : State) (q : Nat) (f : Queue → Queue) : (s.updQueue q f).rel = s.rel := rfl
@[simp] theorem State.updQueue_mgmt (s : State) (q : Nat) (f : Queue → Queue) : (s.updQueue q f).mgmt = s.mgmt := rfl

@[simp] theorem State.raise_now (s : State) (v : Nat) : (s.raise v).now = s.now := rfl
@[simp] theorem State.raise_agenda (s : State) (v : Nat) : (s.raise v).agenda = s.agenda := rfl
@[simp] theorem State.raise_free (s : State) (v : Nat) : (s.raise v).free = s.free := rfl
@[simp] theorem State.raise_issues (s : State) (v : Nat) : (s.raise v).issues = s.issues := rfl
@[simp] theorem State.raise_mem (s : State) (v : Nat) : (s.raise v).mem = s.mem := rfl
@[simp] theorem State.raise_dram (s : State) (v : Nat) : (s.raise v).dram = s.dram := rfl
@[simp] theorem State.raise_hostMem (s : State) (v : Nat) : (s.raise v).hostMem = s.hostMem := rfl
@[simp] theorem State.raise_l1 (s : State) (v : Nat) : (s.raise v).l1 = s.l1 := rfl
@[simp] theorem State.raise_l2 (s : State) (v : Nat) : (s.raise v).l2 = s.l2 := rfl
@[simp] theorem State.raise_reports (s : State) (v : Nat) : (s.raise v).reports = s.reports := rfl
@[simp] theorem State.raise_rdc (s : State) (v : Nat) : (s.raise v).rdc = s.rdc := rfl
@[simp] theorem State.raise_icache (s : State) (v : Nat) : (s.raise v).icache = s.icache := rfl
@[simp] theorem State.raise_raycache (s : State) (v : Nat) : (s.raise v).raycache = s.raycache := rfl
@[simp] theorem State.raise_rayClear (s : State) (v : Nat) : (s.raise v).rayClear = s.rayClear := rfl
@[simp] theorem State.raise_tlb (s : State) (v : Nat) : (s.raise v).tlb = s.tlb := rfl
@[simp] theorem State.raise_ctxs (s : State) (v : Nat) : (s.raise v).ctxs = s.ctxs := rfl
@[simp] theorem State.raise_queues (s : State) (v : Nat) : (s.raise v).queues = s.queues := rfl
@[simp] theorem State.raise_slots (s : State) (v : Nat) : (s.raise v).slots = s.slots := rfl
@[simp] theorem State.raise_msix (s : State) (v : Nat) : (s.raise v).msix = s.msix := rfl
@[simp] theorem State.raise_launches (s : State) (v : Nat) : (s.raise v).launches = s.launches := rfl
@[simp] theorem State.raise_nextOrder (s : State) (v : Nat) : (s.raise v).nextOrder = s.nextOrder := rfl
@[simp] theorem State.raise_nextUid (s : State) (v : Nat) : (s.raise v).nextUid = s.nextUid := rfl
@[simp] theorem State.raise_cores (s : State) (v : Nat) : (s.raise v).cores = s.cores := rfl
@[simp] theorem State.raise_blocks (s : State) (v : Nat) : (s.raise v).blocks = s.blocks := rfl
@[simp] theorem State.raise_sv (s : State) (v : Nat) : (s.raise v).sv = s.sv := rfl
@[simp] theorem State.raise_mantle (s : State) (v : Nat) : (s.raise v).mantle = s.mantle := rfl
@[simp] theorem State.raise_rel (s : State) (v : Nat) : (s.raise v).rel = s.rel := rfl
@[simp] theorem State.raise_mgmt (s : State) (v : Nat) : (s.raise v).mgmt = s.mgmt := rfl

@[simp] theorem State.withhold_now (s : State) (c : Option Nat) : (s.withhold c).now = s.now := by unfold State.withhold; split <;> rfl
@[simp] theorem State.withhold_agenda (s : State) (c : Option Nat) : (s.withhold c).agenda = s.agenda := by unfold State.withhold; split <;> rfl
@[simp] theorem State.withhold_free (s : State) (c : Option Nat) : (s.withhold c).free = s.free := by unfold State.withhold; split <;> rfl
@[simp] theorem State.withhold_issues (s : State) (c : Option Nat) : (s.withhold c).issues = s.issues := by unfold State.withhold; split <;> rfl
@[simp] theorem State.withhold_mem (s : State) (c : Option Nat) : (s.withhold c).mem = s.mem := by unfold State.withhold; split <;> rfl
@[simp] theorem State.withhold_dram (s : State) (c : Option Nat) : (s.withhold c).dram = s.dram := by unfold State.withhold; split <;> rfl
@[simp] theorem State.withhold_hostMem (s : State) (c : Option Nat) : (s.withhold c).hostMem = s.hostMem := by unfold State.withhold; split <;> rfl
@[simp] theorem State.withhold_l1 (s : State) (c : Option Nat) : (s.withhold c).l1 = s.l1 := by unfold State.withhold; split <;> rfl
@[simp] theorem State.withhold_l2 (s : State) (c : Option Nat) : (s.withhold c).l2 = s.l2 := by unfold State.withhold; split <;> rfl
@[simp] theorem State.withhold_reports (s : State) (c : Option Nat) : (s.withhold c).reports = s.reports := by unfold State.withhold; split <;> rfl
@[simp] theorem State.withhold_rdc (s : State) (c : Option Nat) : (s.withhold c).rdc = s.rdc := by unfold State.withhold; split <;> rfl
@[simp] theorem State.withhold_icache (s : State) (c : Option Nat) : (s.withhold c).icache = s.icache := by unfold State.withhold; split <;> rfl
@[simp] theorem State.withhold_raycache (s : State) (c : Option Nat) : (s.withhold c).raycache = s.raycache := by unfold State.withhold; split <;> rfl
@[simp] theorem State.withhold_rayClear (s : State) (c : Option Nat) : (s.withhold c).rayClear = s.rayClear := by unfold State.withhold; split <;> rfl
@[simp] theorem State.withhold_tlb (s : State) (c : Option Nat) : (s.withhold c).tlb = s.tlb := by unfold State.withhold; split <;> rfl
@[simp] theorem State.withhold_ctxs (s : State) (c : Option Nat) : (s.withhold c).ctxs = s.ctxs := by unfold State.withhold; split <;> rfl
@[simp] theorem State.withhold_queues (s : State) (c : Option Nat) : (s.withhold c).queues = s.queues := by unfold State.withhold; split <;> rfl
@[simp] theorem State.withhold_slots (s : State) (c : Option Nat) : (s.withhold c).slots = s.slots := by unfold State.withhold; split <;> rfl
@[simp] theorem State.withhold_msix (s : State) (c : Option Nat) : (s.withhold c).msix = s.msix := by unfold State.withhold; split <;> rfl
@[simp] theorem State.withhold_launches (s : State) (c : Option Nat) : (s.withhold c).launches = s.launches := by unfold State.withhold; split <;> rfl
@[simp] theorem State.withhold_nextOrder (s : State) (c : Option Nat) : (s.withhold c).nextOrder = s.nextOrder := by unfold State.withhold; split <;> rfl
@[simp] theorem State.withhold_nextUid (s : State) (c : Option Nat) : (s.withhold c).nextUid = s.nextUid := by unfold State.withhold; split <;> rfl
@[simp] theorem State.withhold_cores (s : State) (c : Option Nat) : (s.withhold c).cores = s.cores := by unfold State.withhold; split <;> rfl
@[simp] theorem State.withhold_blocks (s : State) (c : Option Nat) : (s.withhold c).blocks = s.blocks := by unfold State.withhold; split <;> rfl
@[simp] theorem State.withhold_sv (s : State) (c : Option Nat) : (s.withhold c).sv = s.sv := by unfold State.withhold; split <;> rfl
@[simp] theorem State.withhold_mantle (s : State) (c : Option Nat) : (s.withhold c).mantle = s.mantle := by unfold State.withhold; split <;> rfl
@[simp] theorem State.withhold_mgmt (s : State) (c : Option Nat) : (s.withhold c).mgmt = s.mgmt := by unfold State.withhold; split <;> rfl

@[simp] theorem noteWord_now (s : State) (c : Cur) : (noteWord s c).now = s.now := rfl
@[simp] theorem noteWord_agenda (s : State) (c : Cur) : (noteWord s c).agenda = s.agenda := rfl
@[simp] theorem noteWord_free (s : State) (c : Cur) : (noteWord s c).free = s.free := rfl
@[simp] theorem noteWord_issues (s : State) (c : Cur) : (noteWord s c).issues = s.issues := rfl
@[simp] theorem noteWord_mem (s : State) (c : Cur) : (noteWord s c).mem = s.mem := rfl
@[simp] theorem noteWord_dram (s : State) (c : Cur) : (noteWord s c).dram = s.dram := rfl
@[simp] theorem noteWord_hostMem (s : State) (c : Cur) : (noteWord s c).hostMem = s.hostMem := rfl
@[simp] theorem noteWord_l1 (s : State) (c : Cur) : (noteWord s c).l1 = s.l1 := rfl
@[simp] theorem noteWord_l2 (s : State) (c : Cur) : (noteWord s c).l2 = s.l2 := rfl
@[simp] theorem noteWord_reports (s : State) (c : Cur) : (noteWord s c).reports = s.reports := rfl
@[simp] theorem noteWord_rdc (s : State) (c : Cur) : (noteWord s c).rdc = s.rdc := rfl
@[simp] theorem noteWord_icache (s : State) (c : Cur) : (noteWord s c).icache = s.icache := rfl
@[simp] theorem noteWord_raycache (s : State) (c : Cur) : (noteWord s c).raycache = s.raycache := rfl
@[simp] theorem noteWord_rayClear (s : State) (c : Cur) : (noteWord s c).rayClear = s.rayClear := rfl
@[simp] theorem noteWord_tlb (s : State) (c : Cur) : (noteWord s c).tlb = s.tlb := rfl
@[simp] theorem noteWord_ctxs (s : State) (c : Cur) : (noteWord s c).ctxs = s.ctxs := rfl
@[simp] theorem noteWord_queues (s : State) (c : Cur) : (noteWord s c).queues = s.queues := rfl
@[simp] theorem noteWord_slots (s : State) (c : Cur) : (noteWord s c).slots = s.slots := rfl
@[simp] theorem noteWord_msix (s : State) (c : Cur) : (noteWord s c).msix = s.msix := rfl
@[simp] theorem noteWord_pba (s : State) (c : Cur) : (noteWord s c).pba = s.pba := rfl
@[simp] theorem noteWord_raised (s : State) (c : Cur) : (noteWord s c).raised = s.raised := rfl
@[simp] theorem noteWord_launches (s : State) (c : Cur) : (noteWord s c).launches = s.launches := rfl
@[simp] theorem noteWord_nextOrder (s : State) (c : Cur) : (noteWord s c).nextOrder = s.nextOrder := rfl
@[simp] theorem noteWord_nextUid (s : State) (c : Cur) : (noteWord s c).nextUid = s.nextUid := rfl
@[simp] theorem noteWord_blocks (s : State) (c : Cur) : (noteWord s c).blocks = s.blocks := rfl
@[simp] theorem noteWord_sv (s : State) (c : Cur) : (noteWord s c).sv = s.sv := rfl
@[simp] theorem noteWord_mantle (s : State) (c : Cur) : (noteWord s c).mantle = s.mantle := rfl
@[simp] theorem noteWord_rel (s : State) (c : Cur) : (noteWord s c).rel = s.rel := rfl
@[simp] theorem noteWord_mgmt (s : State) (c : Cur) : (noteWord s c).mgmt = s.mgmt := rfl

@[simp] theorem State.checkpoint_now (s : State) (k u i : Nat) (a f : Bool) : (s.checkpoint k u i a f).now = s.now := rfl
@[simp] theorem State.checkpoint_agenda (s : State) (k u i : Nat) (a f : Bool) : (s.checkpoint k u i a f).agenda = s.agenda := rfl
@[simp] theorem State.checkpoint_free (s : State) (k u i : Nat) (a f : Bool) : (s.checkpoint k u i a f).free = s.free := rfl
@[simp] theorem State.checkpoint_issues (s : State) (k u i : Nat) (a f : Bool) : (s.checkpoint k u i a f).issues = s.issues := rfl
@[simp] theorem State.checkpoint_mem (s : State) (k u i : Nat) (a f : Bool) : (s.checkpoint k u i a f).mem = s.mem := rfl
@[simp] theorem State.checkpoint_dram (s : State) (k u i : Nat) (a f : Bool) : (s.checkpoint k u i a f).dram = s.dram := rfl
@[simp] theorem State.checkpoint_hostMem (s : State) (k u i : Nat) (a f : Bool) : (s.checkpoint k u i a f).hostMem = s.hostMem := rfl
@[simp] theorem State.checkpoint_l1 (s : State) (k u i : Nat) (a f : Bool) : (s.checkpoint k u i a f).l1 = s.l1 := rfl
@[simp] theorem State.checkpoint_l2 (s : State) (k u i : Nat) (a f : Bool) : (s.checkpoint k u i a f).l2 = s.l2 := rfl
@[simp] theorem State.checkpoint_reports (s : State) (k u i : Nat) (a f : Bool) : (s.checkpoint k u i a f).reports = s.reports := rfl
@[simp] theorem State.checkpoint_rdc (s : State) (k u i : Nat) (a f : Bool) : (s.checkpoint k u i a f).rdc = s.rdc := rfl
@[simp] theorem State.checkpoint_icache (s : State) (k u i : Nat) (a f : Bool) : (s.checkpoint k u i a f).icache = s.icache := rfl
@[simp] theorem State.checkpoint_raycache (s : State) (k u i : Nat) (a f : Bool) : (s.checkpoint k u i a f).raycache = s.raycache := rfl
@[simp] theorem State.checkpoint_rayClear (s : State) (k u i : Nat) (a f : Bool) : (s.checkpoint k u i a f).rayClear = s.rayClear := rfl
@[simp] theorem State.checkpoint_tlb (s : State) (k u i : Nat) (a f : Bool) : (s.checkpoint k u i a f).tlb = s.tlb := rfl
@[simp] theorem State.checkpoint_ctxs (s : State) (k u i : Nat) (a f : Bool) : (s.checkpoint k u i a f).ctxs = s.ctxs := rfl
@[simp] theorem State.checkpoint_queues (s : State) (k u i : Nat) (a f : Bool) : (s.checkpoint k u i a f).queues = s.queues := rfl
@[simp] theorem State.checkpoint_slots (s : State) (k u i : Nat) (a f : Bool) : (s.checkpoint k u i a f).slots = s.slots := rfl
@[simp] theorem State.checkpoint_msix (s : State) (k u i : Nat) (a f : Bool) : (s.checkpoint k u i a f).msix = s.msix := rfl
@[simp] theorem State.checkpoint_pba (s : State) (k u i : Nat) (a f : Bool) : (s.checkpoint k u i a f).pba = s.pba := rfl
@[simp] theorem State.checkpoint_raised (s : State) (k u i : Nat) (a f : Bool) : (s.checkpoint k u i a f).raised = s.raised := rfl
@[simp] theorem State.checkpoint_launches (s : State) (k u i : Nat) (a f : Bool) : (s.checkpoint k u i a f).launches = s.launches := rfl
@[simp] theorem State.checkpoint_nextOrder (s : State) (k u i : Nat) (a f : Bool) : (s.checkpoint k u i a f).nextOrder = s.nextOrder := rfl
@[simp] theorem State.checkpoint_nextUid (s : State) (k u i : Nat) (a f : Bool) : (s.checkpoint k u i a f).nextUid = s.nextUid := rfl
@[simp] theorem State.checkpoint_blocks (s : State) (k u i : Nat) (a f : Bool) : (s.checkpoint k u i a f).blocks = s.blocks := rfl
@[simp] theorem State.checkpoint_sv (s : State) (k u i : Nat) (a f : Bool) : (s.checkpoint k u i a f).sv = s.sv := rfl
@[simp] theorem State.checkpoint_mantle (s : State) (k u i : Nat) (a f : Bool) : (s.checkpoint k u i a f).mantle = s.mantle := rfl
@[simp] theorem State.checkpoint_rel (s : State) (k u i : Nat) (a f : Bool) : (s.checkpoint k u i a f).rel = s.rel := rfl
@[simp] theorem State.checkpoint_mgmt (s : State) (k u i : Nat) (a f : Bool) : (s.checkpoint k u i a f).mgmt = s.mgmt := rfl

@[simp] theorem State.noteUndo_now (s : State) (c : Cur) (a : List (Nat × Nat × Byte)) (w v : List (Nat × Nat × Word)) :
    (s.noteUndo c a w v).now = s.now := by unfold State.noteUndo; split <;> rfl
@[simp] theorem State.noteUndo_agenda (s : State) (c : Cur) (a : List (Nat × Nat × Byte)) (w v : List (Nat × Nat × Word)) :
    (s.noteUndo c a w v).agenda = s.agenda := by unfold State.noteUndo; split <;> rfl
@[simp] theorem State.noteUndo_free (s : State) (c : Cur) (a : List (Nat × Nat × Byte)) (w v : List (Nat × Nat × Word)) :
    (s.noteUndo c a w v).free = s.free := by unfold State.noteUndo; split <;> rfl
@[simp] theorem State.noteUndo_issues (s : State) (c : Cur) (a : List (Nat × Nat × Byte)) (w v : List (Nat × Nat × Word)) :
    (s.noteUndo c a w v).issues = s.issues := by unfold State.noteUndo; split <;> rfl
@[simp] theorem State.noteUndo_mem (s : State) (c : Cur) (a : List (Nat × Nat × Byte)) (w v : List (Nat × Nat × Word)) :
    (s.noteUndo c a w v).mem = s.mem := by unfold State.noteUndo; split <;> rfl
@[simp] theorem State.noteUndo_dram (s : State) (c : Cur) (a : List (Nat × Nat × Byte)) (w v : List (Nat × Nat × Word)) :
    (s.noteUndo c a w v).dram = s.dram := by unfold State.noteUndo; split <;> rfl
@[simp] theorem State.noteUndo_hostMem (s : State) (c : Cur) (a : List (Nat × Nat × Byte)) (w v : List (Nat × Nat × Word)) :
    (s.noteUndo c a w v).hostMem = s.hostMem := by unfold State.noteUndo; split <;> rfl
@[simp] theorem State.noteUndo_l1 (s : State) (c : Cur) (a : List (Nat × Nat × Byte)) (w v : List (Nat × Nat × Word)) :
    (s.noteUndo c a w v).l1 = s.l1 := by unfold State.noteUndo; split <;> rfl
@[simp] theorem State.noteUndo_l2 (s : State) (c : Cur) (a : List (Nat × Nat × Byte)) (w v : List (Nat × Nat × Word)) :
    (s.noteUndo c a w v).l2 = s.l2 := by unfold State.noteUndo; split <;> rfl
@[simp] theorem State.noteUndo_reports (s : State) (c : Cur) (a : List (Nat × Nat × Byte)) (w v : List (Nat × Nat × Word)) :
    (s.noteUndo c a w v).reports = s.reports := by unfold State.noteUndo; split <;> rfl
@[simp] theorem State.noteUndo_rdc (s : State) (c : Cur) (a : List (Nat × Nat × Byte)) (w v : List (Nat × Nat × Word)) :
    (s.noteUndo c a w v).rdc = s.rdc := by unfold State.noteUndo; split <;> rfl
@[simp] theorem State.noteUndo_icache (s : State) (c : Cur) (a : List (Nat × Nat × Byte)) (w v : List (Nat × Nat × Word)) :
    (s.noteUndo c a w v).icache = s.icache := by unfold State.noteUndo; split <;> rfl
@[simp] theorem State.noteUndo_raycache (s : State) (c : Cur) (a : List (Nat × Nat × Byte)) (w v : List (Nat × Nat × Word)) :
    (s.noteUndo c a w v).raycache = s.raycache := by unfold State.noteUndo; split <;> rfl
@[simp] theorem State.noteUndo_rayClear (s : State) (c : Cur) (a : List (Nat × Nat × Byte)) (w v : List (Nat × Nat × Word)) :
    (s.noteUndo c a w v).rayClear = s.rayClear := by unfold State.noteUndo; split <;> rfl
@[simp] theorem State.noteUndo_tlb (s : State) (c : Cur) (a : List (Nat × Nat × Byte)) (w v : List (Nat × Nat × Word)) :
    (s.noteUndo c a w v).tlb = s.tlb := by unfold State.noteUndo; split <;> rfl
@[simp] theorem State.noteUndo_ctxs (s : State) (c : Cur) (a : List (Nat × Nat × Byte)) (w v : List (Nat × Nat × Word)) :
    (s.noteUndo c a w v).ctxs = s.ctxs := by unfold State.noteUndo; split <;> rfl
@[simp] theorem State.noteUndo_queues (s : State) (c : Cur) (a : List (Nat × Nat × Byte)) (w v : List (Nat × Nat × Word)) :
    (s.noteUndo c a w v).queues = s.queues := by unfold State.noteUndo; split <;> rfl
@[simp] theorem State.noteUndo_slots (s : State) (c : Cur) (a : List (Nat × Nat × Byte)) (w v : List (Nat × Nat × Word)) :
    (s.noteUndo c a w v).slots = s.slots := by unfold State.noteUndo; split <;> rfl
@[simp] theorem State.noteUndo_msix (s : State) (c : Cur) (a : List (Nat × Nat × Byte)) (w v : List (Nat × Nat × Word)) :
    (s.noteUndo c a w v).msix = s.msix := by unfold State.noteUndo; split <;> rfl
@[simp] theorem State.noteUndo_pba (s : State) (c : Cur) (a : List (Nat × Nat × Byte)) (w v : List (Nat × Nat × Word)) :
    (s.noteUndo c a w v).pba = s.pba := by unfold State.noteUndo; split <;> rfl
@[simp] theorem State.noteUndo_raised (s : State) (c : Cur) (a : List (Nat × Nat × Byte)) (w v : List (Nat × Nat × Word)) :
    (s.noteUndo c a w v).raised = s.raised := by unfold State.noteUndo; split <;> rfl
@[simp] theorem State.noteUndo_launches (s : State) (c : Cur) (a : List (Nat × Nat × Byte)) (w v : List (Nat × Nat × Word)) :
    (s.noteUndo c a w v).launches = s.launches := by unfold State.noteUndo; split <;> rfl
@[simp] theorem State.noteUndo_nextOrder (s : State) (c : Cur) (a : List (Nat × Nat × Byte)) (w v : List (Nat × Nat × Word)) :
    (s.noteUndo c a w v).nextOrder = s.nextOrder := by unfold State.noteUndo; split <;> rfl
@[simp] theorem State.noteUndo_nextUid (s : State) (c : Cur) (a : List (Nat × Nat × Byte)) (w v : List (Nat × Nat × Word)) :
    (s.noteUndo c a w v).nextUid = s.nextUid := by unfold State.noteUndo; split <;> rfl
@[simp] theorem State.noteUndo_blocks (s : State) (c : Cur) (a : List (Nat × Nat × Byte)) (w v : List (Nat × Nat × Word)) :
    (s.noteUndo c a w v).blocks = s.blocks := by unfold State.noteUndo; split <;> rfl
@[simp] theorem State.noteUndo_sv (s : State) (c : Cur) (a : List (Nat × Nat × Byte)) (w v : List (Nat × Nat × Word)) :
    (s.noteUndo c a w v).sv = s.sv := by unfold State.noteUndo; split <;> rfl
@[simp] theorem State.noteUndo_mantle (s : State) (c : Cur) (a : List (Nat × Nat × Byte)) (w v : List (Nat × Nat × Word)) :
    (s.noteUndo c a w v).mantle = s.mantle := by unfold State.noteUndo; split <;> rfl
@[simp] theorem State.noteUndo_rel (s : State) (c : Cur) (a : List (Nat × Nat × Byte)) (w v : List (Nat × Nat × Word)) :
    (s.noteUndo c a w v).rel = s.rel := by unfold State.noteUndo; split <;> rfl
@[simp] theorem State.noteUndo_mgmt (s : State) (c : Cur) (a : List (Nat × Nat × Byte)) (w v : List (Nat × Nat × Word)) :
    (s.noteUndo c a w v).mgmt = s.mgmt := by unfold State.noteUndo; split <;> rfl

end Sys2Proof.Machine
end

