-- ==== Sys2Proof/Laws/Memory.lean ====
section
/-! SUPPORT. Every operation that writes a memory keeps it in canonical form, and what it writes reads back: all
memory of the machine is written through these. -/

namespace Sys2Proof.Machine

open Sys2Proof

theorem State.reset_memWf : State.reset.memWf := ⟨rfl, rfl, rfl⟩

/-- `t` has the memories of `s`, but that HBM4E cells may have taken what the point of coherence holds (R470). -/
structure Spilled (s t : State) : Prop where
  mem : t.mem = s.mem
  hostMem : t.hostMem = s.hostMem
  blocks : t.blocks = s.blocks
  dram : ∀ a, getAt 0 t.dram a = getAt 0 s.dram a ∨ getAt 0 t.dram a = getAt 0 s.mem a
  wf : Memory.wf s.dram → Memory.wf t.dram

theorem Spilled.refl (s : State) : Spilled s s := ⟨rfl, rfl, rfl, fun _ => .inl rfl, id⟩

theorem Spilled.trans {s t u : State} (h : Spilled s t) (k : Spilled t u) : Spilled s u :=
  ⟨k.mem.trans h.mem, k.hostMem.trans h.hostMem, k.blocks.trans h.blocks,
   fun a => match k.dram a with
    | .inl e => (h.dram a).imp e.trans e.trans
    | .inr e => .inr (by rw [e, h.mem]),
   fun w => k.wf (h.wf w)⟩

theorem Spilled.memWf {s t : State} (h : Spilled s t) (w : s.memWf) : t.memWf :=
  ⟨by rw [h.mem]; exact w.1, h.wf w.2.1, by rw [h.hostMem]; exact w.2.2⟩

/-- A run copied from the point of coherence. -/
theorem getAt_setRun_getRun (m : Memory) (n : Nat) (d : Memory) (k j : Nat) :
    getAt 0 (setRun 0 d k (getRun 0 m k n)) j = getAt 0 d j ∨ getAt 0 (setRun 0 d k (getRun 0 m k n)) j = getAt 0 m j := by
  by_cases h : j < k ∨ k + (getRun 0 m k n).length ≤ j
  · exact .inl (getAt_setRun_out 0 _ d k j h)
  · refine .inr ?_
    have hk : j - k < (getRun 0 m k n).length := by omega
    have e := getAt_setRun_in 0 (getRun 0 m k n) d k (j - k) hk
    rw [show k + (j - k) = j by omega] at e
    rw [e]; simp only [getRun, List.getElem_map, List.getElem_range]
    rw [show k + (j - k) = j by omega]

/-- Cells that take a run of the point of coherence. -/
theorem Spilled.ofRun (s : State) (k n : Nat) (r : Rel) :
    Spilled s { s with dram := setRun 0 s.dram k (getRun 0 s.mem k n), rel := r } where
  mem := rfl
  hostMem := rfl
  blocks := rfl
  dram := getAt_setRun_getRun s.mem n s.dram k
  wf := cellsWf_setRun 0 (getRun 0 s.mem k n) k

theorem State.writeCells_spilled (s : State) (a : Nat) : Spilled s (s.writeCells a) := Spilled.ofRun s a 64 _

theorem State.spillHalf_spilled (s : State) (x : L2Line) (i : Nat) : Spilled s (s.spillHalf x i) := by
  rw [State.spillHalf]
  split
  · exact s.writeCells_spilled _
  · exact .refl s

theorem State.spillL2_spilled (s : State) (x : L2Line) : Spilled s (s.spillL2 x) :=
  (s.spillHalf_spilled x 0).trans ((s.spillHalf x 0).spillHalf_spilled x 1)

theorem State.holdL2_spilled (s : State) (line : Nat) (f : L2Line → L2Line) : Spilled s (s.holdL2 line f) := by
  unfold State.holdL2
  simp only
  split
  · exact ⟨rfl, rfl, rfl, fun _ => .inl rfl, id⟩
  · split
    · rename_i x _
      have h := State.spillL2_spilled { s with l2 := upsert (fun x => x.line == line) { line := line, dirty := 0, dir := s.rdcDies line } f s.l2 } x
      exact ⟨h.mem, h.hostMem, h.blocks, h.dram, h.wf⟩
    · exact ⟨rfl, rfl, rfl, fun _ => .inl rfl, id⟩

theorem State.touchL2_spilled (s : State) (pa : Nat) (d : Option Nat) : Spilled s (s.touchL2 pa d) :=
  have h := State.holdL2_spilled s (pa / 128) fun x =>
    { x with
      dirty := x.dirty ||| (if pa / 64 % 2 = 0 then 1 else 2)
      dir := x.dir &&& (match d with
        | some e => (1 : BitVec 8) <<< e
        | none => 0) }
  ⟨h.mem, h.hostMem, h.blocks, h.dram, h.wf⟩

@[simp] theorem State.touchL2_mem (s : State) (pa : Nat) (d : Option Nat) : (s.touchL2 pa d).mem = s.mem :=
  (State.touchL2_spilled s pa d).mem
@[simp] theorem State.pocByte_mem (s : State) (pa : Nat) (b : Byte) (d : Option Nat) :
    (s.pocByte pa b d).mem = setAt 0 s.mem pa b := by simp [State.pocByte]
@[simp] theorem State.pocByte_hostMem (s : State) (pa : Nat) (b : Byte) (d : Option Nat) :
    (s.pocByte pa b d).hostMem = s.hostMem := (State.touchL2_spilled s pa d).hostMem
@[simp] theorem State.pocByte_blocks (s : State) (pa : Nat) (b : Byte) (d : Option Nat) :
    (s.pocByte pa b d).blocks = s.blocks := (State.touchL2_spilled s pa d).blocks
@[simp] theorem State.dropWrite_mem (s : State) (pa : Nat) : (s.dropWrite pa).mem = s.mem := rfl

theorem State.pocByte_memWf {s : State} (h : s.memWf) (pa : Nat) (b : Byte) (d : Option Nat) : (s.pocByte pa b d).memWf := by
  have t := (State.touchL2_spilled s pa d).memWf h
  refine ⟨?_, t.2.1, t.2.2⟩
  rw [State.pocByte_mem]
  exact cellsWf_setAt 0 pa b h.1

/-- Bytes written one after another are the run of them (R207). -/
theorem State.pocBytes_mem (d : Option Nat) : ∀ (bs : List Byte) (s : State) (pa : Nat),
    (s.pocBytes pa d bs).mem = setRun 0 s.mem pa bs
  | [], _, _ => rfl
  | b :: bs, s, pa => by
    rw [State.pocBytes, pocBytes_mem d bs, State.pocByte_mem]; rfl

theorem State.pocBytes_hostMem (d : Option Nat) : ∀ (bs : List Byte) (s : State) (pa : Nat),
    (s.pocBytes pa d bs).hostMem = s.hostMem
  | [], _, _ => rfl
  | b :: bs, s, pa => by rw [State.pocBytes, pocBytes_hostMem d bs, State.pocByte_hostMem]

theorem State.pocBytes_blocks (d : Option Nat) : ∀ (bs : List Byte) (s : State) (pa : Nat),
    (s.pocBytes pa d bs).blocks = s.blocks
  | [], _, _ => rfl
  | b :: bs, s, pa => by rw [State.pocBytes, pocBytes_blocks d bs, State.pocByte_blocks]

theorem State.pocBytes_memWf (d : Option Nat) : ∀ (bs : List Byte) {s : State} (pa : Nat), s.memWf → (s.pocBytes pa d bs).memWf
  | [], _, _, h => h
  | b :: bs, _, pa, h => pocBytes_memWf d bs (pa + 1) (State.pocByte_memWf h pa b d)

/-- A write either is dropped, its group being fenced, or sets the run of bytes (R207, R451). -/
theorem State.pocWrite_mem (s : State) (pa : Nat) (d : Option Nat) (bs : List Byte) :
    (s.pocWrite pa d bs).mem = if s.groupFenced pa then s.mem else setRun 0 s.mem pa bs := by
  unfold State.pocWrite; split
  · rfl
  · exact State.pocBytes_mem d bs s pa

theorem State.pocWrite_memWf {s : State} (h : s.memWf) (pa : Nat) (d : Option Nat) (bs : List Byte) :
    (s.pocWrite pa d bs).memWf := by
  unfold State.pocWrite; split
  · exact h
  · exact State.pocBytes_memWf d bs pa h

theorem State.hostBytes_memWf {s : State} (h : s.memWf) (a : Nat) (bs : List Byte) : (s.hostBytes a bs).memWf :=
  ⟨h.1, h.2.1, cellsWf_setRun 0 bs a h.2.2⟩

theorem State.foldl_pocByte_memWf (d : Option Nat) (pa : Nat) : ∀ (l : List (Nat × Byte)) {s : State}, s.memWf →
    (l.foldl (fun s e => s.pocByte (pa + e.1) e.2 d) s).memWf
  | [], _, h => h
  | e :: l, _, h => foldl_pocByte_memWf d pa l (State.pocByte_memWf h (pa + e.1) e.2 d)

theorem State.foldl_hostBytes_memWf (pa : Nat) : ∀ (l : List (Nat × Byte)) {s : State}, s.memWf →
    (l.foldl (fun s e => s.hostBytes (pa + e.1) [e.2]) s).memWf
  | [], _, h => h
  | e :: l, _, h => foldl_hostBytes_memWf pa l (State.hostBytes_memWf h (pa + e.1) [e.2])

theorem State.evictFar_memWf {s : State} (h : s.memWf) (core dev slot ctx line : Nat) (bs : List (Nat × Byte)) :
    (s.evictFar core dev slot ctx line bs).memWf := by
  unfold State.evictFar
  generalize [0, 1] = l
  induction l generalizing s with
  | nil => exact h
  | cons e l ih =>
    rw [List.foldl_cons]
    refine ih ?_
    simp only
    split
    · exact h
    · exact h

theorem State.withhold_memWf {s : State} (h : s.memWf) (c : Option Nat) : (s.withhold c).memWf := by
  unfold State.withhold; cases c <;> exact h

theorem State.setL1_memWf {s : State} (h : s.memWf) (core ctx line : Nat) (n : Option L1Line) : (s.setL1 core ctx line n).memWf := h

theorem State.keepL1_memWf {s : State} (h : s.memWf) (core ctx line : Nat) (n : L1Line) : (s.keepL1 core ctx line n).memWf := h

/-- Writing back a line keeps the form (R208, R329). -/
theorem State.writeBack_memWf {s t : State} (h : s.memWf) (ln : L1Line) (e : s.writeBack ln = .ok t) : t.memWf := by
  unfold State.writeBack at e
  split at e
  · cases e; exact h
  · simp only at e
    split at e
    · split at e
      · split at e
        · cases e; exact h
        · cases e; exact State.foldl_pocByte_memWf _ _ _ h
      · cases e; exact State.foldl_hostBytes_memWf _ _ h
      · cases e; exact State.evictFar_memWf h _ _ _ _ _ _
    · cases e
    · cases e
    · cases e; exact State.withhold_memWf h _

theorem writeBackAll_memWf : ∀ (l : List L1Line) {s t : State}, s.memWf → writeBackAll s l = .ok t → t.memWf
  | [], _, _, h, e => by cases e; exact h
  | ln :: l, s, t, h, e => by
    unfold writeBackAll at e
    split at e
    · cases e
    · rename_i s1 hs
      exact writeBackAll_memWf l (State.keepL1_memWf (State.writeBack_memWf h ln hs) _ _ _ _) e

theorem State.releaseL1_memWf {s t : State} (h : s.memWf) (core ctx : Nat) (e : s.releaseL1 core ctx = .ok t) : t.memWf :=
  writeBackAll_memWf _ h e

theorem State.acquireCaches_memWf {s : State} (h : s.memWf) (core ctx scope : Nat) : (s.acquireCaches core ctx scope).memWf := by
  unfold State.acquireCaches; split <;> exact h

theorem State.makeRoom_memWf (core line : Nat) : ∀ (n : Nat) {s t : State}, s.memWf → s.makeRoom core line n = some t → t.memWf
  | 0, _, _, _, e => by cases e
  | n + 1, s, t, h, e => by
    unfold State.makeRoom at e
    split at e
    · cases e; exact h
    · split at e
      · cases e
      · split at e
        · rename_i s1 hs
          cases e; exact State.setL1_memWf (State.writeBack_memWf h _ hs) _ _ _ _
        · exact makeRoom_memWf core line n (State.keepL1_memWf h _ _ _ _) e

theorem State.useLine_memWf {s t : State} (h : s.memWf) (core ctx line : Nat) (g : Target) (e : s.useLine core ctx line g = some t) :
    t.memWf := by
  unfold State.useLine at e
  split at e
  · cases e; exact h
  · cases hm : s.makeRoom core line 17 with
    | none => rw [hm] at e; cases e
    | some s1 =>
      rw [hm] at e; cases e
      have h1 : s1.memWf := State.makeRoom_memWf core line 17 h hm
      exact State.setL1_memWf h1 _ _ _ _

/-- A store that enters the L1, or goes through it, keeps the form (R208, R209). -/
theorem State.storeLocal_memWf {s : State} (h : s.memWf) (core ctx : Nat) (va : Addr) (g : Target) (bs : List Byte) :
    (s.storeLocal core ctx va g bs).memWf := by
  unfold State.storeLocal
  simp only
  split
  · exact State.pocWrite_memWf h _ _ _
  · split
    · exact State.pocWrite_memWf h _ _ _
    · rename_i s1 hs
      split
      · exact State.pocWrite_memWf h _ _ _
      · exact State.setL1_memWf (State.useLine_memWf h _ _ _ _ hs) _ _ _ _

theorem State.fillLine_memWf {s : State} (h : s.memWf) (core ctx : Nat) (va : Addr) (g : Target) : (s.fillLine core ctx va g).memWf := by
  unfold State.fillLine
  split
  · exact h
  · simp only
    split
    · exact h
    · rename_i s1 hs
      have h1 := State.useLine_memWf h _ _ _ _ hs
      split
      · exact h1
      · exact State.setL1_memWf h1 _ _ _ _

theorem State.fillRdc_memWf {s : State} (h : s.memWf) (core : Nat) (g : Target) : (s.fillRdc core g).memWf := by
  unfold State.fillRdc
  simp only
  split
  · exact h
  · split
    · exact h
    · exact (State.holdL2_spilled s _ _).memWf h

theorem State.fillTlb_memWf {s : State} (h : s.memWf) (core ctx : Nat) (va : Addr) : (s.fillTlb core ctx va).memWf := by
  unfold State.fillTlb
  split
  · rename_i e big _
    cases big <;> simp only <;> repeat' split
    all_goals exact h
  · exact h

theorem State.maskWrite_memWf {s : State} (h : s.memWf) (pa mask : Nat) (bs : List Byte) : (s.maskWrite pa mask bs).memWf := by
  unfold State.maskWrite
  generalize bs.zipIdx = l
  induction l generalizing s with
  | nil => exact h
  | cons e l ih =>
    rw [List.foldl_cons]
    apply ih
    split
    · exact State.pocByte_memWf h _ _ _
    · exact h

theorem State.mantlePut_memWf {s : State} (h : s.memWf) (ctx : Nat) (use : PostUse) (va : Addr) (bs : List Byte) :
    (s.mantlePut ctx use va bs).1.memWf := by
  unfold State.mantlePut
  split
  · exact h
  · split
    · split
      · exact State.pocWrite_memWf h _ _ _
      · exact State.hostBytes_memWf h _ _
      · exact h
    · exact State.withhold_memWf h _
    · exact h

theorem State.mantleWrite_memWf (ctx : Nat) (use : PostUse) : ∀ (fuel : Nat) {s : State} (hit : Bool) (va : Addr) (bs : List Byte),
    s.memWf → (State.mantleWrite ctx use fuel s hit va bs).1.memWf
  | 0, _, _, _, _, h => h
  | fuel + 1, s, hit, va, bs, h => by
    unfold State.mantleWrite
    split
    · exact h
    · refine mantleWrite_memWf ctx use fuel _ _ _ ?_
      split
      · exact h
      · exact State.mantlePut_memWf h _ _ _ _

theorem State.mWrite_memWf {s : State} (h : s.memWf) (ctx : Nat) (use : PostUse) (hit : Bool) (va : Addr) (bs : List Byte) :
    (s.mWrite ctx use hit va bs).1.memWf :=
  State.mantleWrite_memWf ctx use _ hit va bs h

theorem State.hostCells_spilled (s : State) (pa : Nat) : Spilled s (s.hostCells pa) := by
  unfold State.hostCells
  split
  · exact (s.spillHalf_spilled _ _).trans (State.writeCells_spilled _ _)
  · exact s.writeCells_spilled _

/-- A host write puts its bytes into the point of coherence and from there into the cells (R470). -/
theorem State.hostPiece_memWf {s : State} (h : s.memWf) (pa : Nat) (bs : List Byte) : (s.hostPiece pa bs).memWf := by
  unfold State.hostPiece
  split
  · exact h
  · exact (State.hostCells_spilled _ pa).memWf ⟨cellsWf_setRun 0 _ _ h.1, h.2.1, h.2.2⟩

/-- Bytes written sector by sector, those of fenced groups dropped, keep the form (R207, R451). -/
theorem State.pocRun_memWf {s : State} (h : s.memWf) (pa : Nat) (d : Option Nat) (bs : List Byte) : (s.pocRun pa d bs).memWf := by
  unfold State.pocRun
  generalize sectorPieces (bs.length / 64 + 2) pa bs = l
  induction l generalizing s with
  | nil => exact h
  | cons e l ih => exact ih (State.pocWrite_memWf h e.1 d e.2)

theorem State.hostSectors_memWf : ∀ (fuel : Nat) {s : State} (pa : Nat) (bs : List Byte), s.memWf →
    (State.hostSectors fuel s pa bs).memWf
  | 0, _, _, _, h => h
  | fuel + 1, s, pa, bs, h => by
    unfold State.hostSectors
    split
    · exact h
    · exact hostSectors_memWf fuel _ _ (State.hostPiece_memWf h _ _)

theorem forgetBytes_wf (n : Nat) {m : Memory} (h : Memory.wf m) : Memory.wf (forgetBytes n m) := by
  unfold forgetBytes
  have key : ∀ (l : List (Nat × Byte)) (acc : Memory), Memory.wf acc →
      Memory.wf (l.foldl (fun acc e => setAt 0 acc e.1 (Config.freeByte n e.1)) acc) := by
    intro l
    induction l with
    | nil => intro acc ha; exact ha
    | cons e l ih => intro acc ha; exact ih _ (cellsWf_setAt 0 _ _ ha)
  exact key m m h

theorem readyMem_wf {m : Memory} (h : Memory.wf m) (code : List Byte) : Memory.wf (readyMem m code) :=
  cellsWf_setRun 0 _ _ (cellsWf_setRun 0 _ _ (cellsWf_setRun 0 _ _ h))

end Sys2Proof.Machine
end

