-- ==== Sys2Proof/Laws/PerInstr.lean ====
section
/-! SUPPORT. What holds of every instruction as syntax, one lemma for each: how many words it has, and that every
word is well formed. -/

open Sys2Proof

/-- An event has no word; a stream word is two 32-bit words and a clause word one, or two with its literal (R30, R54,
R98), and both are well formed with whatever operands. -/
def Sys2Proof.Laws.Encoded.Statement (i : Instr) : Prop :=
  match i.kind with
  | .event => encode i = []
  | .stream => (encode i).length = 2 ∧ i.wf = true
  | .clause => ((encode i).length = 1 ∨ (encode i).length = 2) ∧ i.wf = true

theorem Sys2Proof.Laws.Encoded.iadd (n : Bool) (d : BitVec 8) (a : BitVec 8) (b : BitVec 8) : Statement (.iadd n d a b) :=
  ⟨.inl rfl, rfl⟩
theorem Sys2Proof.Laws.Encoded.isub (n : Bool) (d : BitVec 8) (a : BitVec 8) (b : BitVec 8) : Statement (.isub n d a b) :=
  ⟨.inl rfl, rfl⟩
theorem Sys2Proof.Laws.Encoded.imul (n : Bool) (d : BitVec 8) (a : BitVec 8) (b : BitVec 8) : Statement (.imul n d a b) :=
  ⟨.inl rfl, rfl⟩
theorem Sys2Proof.Laws.Encoded.imulhs (n : Bool) (d : BitVec 8) (a : BitVec 8) (b : BitVec 8) : Statement (.imulhs n d a b) :=
  ⟨.inl rfl, rfl⟩
theorem Sys2Proof.Laws.Encoded.imulhu (n : Bool) (d : BitVec 8) (a : BitVec 8) (b : BitVec 8) : Statement (.imulhu n d a b) :=
  ⟨.inl rfl, rfl⟩
theorem Sys2Proof.Laws.Encoded.imad (n : Bool) (d : BitVec 8) (a : BitVec 8) (b : BitVec 8) : Statement (.imad n d a b) :=
  ⟨.inl rfl, rfl⟩
theorem Sys2Proof.Laws.Encoded.imin (n : Bool) (d : BitVec 8) (a : BitVec 8) (b : BitVec 8) : Statement (.imin n d a b) :=
  ⟨.inl rfl, rfl⟩
theorem Sys2Proof.Laws.Encoded.imax (n : Bool) (d : BitVec 8) (a : BitVec 8) (b : BitVec 8) : Statement (.imax n d a b) :=
  ⟨.inl rfl, rfl⟩
theorem Sys2Proof.Laws.Encoded.umin (n : Bool) (d : BitVec 8) (a : BitVec 8) (b : BitVec 8) : Statement (.umin n d a b) :=
  ⟨.inl rfl, rfl⟩
theorem Sys2Proof.Laws.Encoded.umax (n : Bool) (d : BitVec 8) (a : BitVec 8) (b : BitVec 8) : Statement (.umax n d a b) :=
  ⟨.inl rfl, rfl⟩
theorem Sys2Proof.Laws.Encoded.and (n : Bool) (d : BitVec 8) (a : BitVec 8) (b : BitVec 8) : Statement (.and n d a b) :=
  ⟨.inl rfl, rfl⟩
theorem Sys2Proof.Laws.Encoded.or (n : Bool) (d : BitVec 8) (a : BitVec 8) (b : BitVec 8) : Statement (.or n d a b) :=
  ⟨.inl rfl, rfl⟩
theorem Sys2Proof.Laws.Encoded.xor (n : Bool) (d : BitVec 8) (a : BitVec 8) (b : BitVec 8) : Statement (.xor n d a b) :=
  ⟨.inl rfl, rfl⟩
theorem Sys2Proof.Laws.Encoded.andn (n : Bool) (d : BitVec 8) (a : BitVec 8) (b : BitVec 8) : Statement (.andn n d a b) :=
  ⟨.inl rfl, rfl⟩
theorem Sys2Proof.Laws.Encoded.shl (n : Bool) (d : BitVec 8) (a : BitVec 8) (b : BitVec 8) : Statement (.shl n d a b) :=
  ⟨.inl rfl, rfl⟩
theorem Sys2Proof.Laws.Encoded.shr (n : Bool) (d : BitVec 8) (a : BitVec 8) (b : BitVec 8) : Statement (.shr n d a b) :=
  ⟨.inl rfl, rfl⟩
theorem Sys2Proof.Laws.Encoded.sar (n : Bool) (d : BitVec 8) (a : BitVec 8) (b : BitVec 8) : Statement (.sar n d a b) :=
  ⟨.inl rfl, rfl⟩
theorem Sys2Proof.Laws.Encoded.rotl (n : Bool) (d : BitVec 8) (a : BitVec 8) (b : BitVec 8) : Statement (.rotl n d a b) :=
  ⟨.inl rfl, rfl⟩
theorem Sys2Proof.Laws.Encoded.iun (n : Bool) (d : BitVec 8) (a : BitVec 8) (f : BitVec 8) : Statement (.iun n d a f) :=
  ⟨.inl rfl, rfl⟩
theorem Sys2Proof.Laws.Encoded.bfx (n : Bool) (d : BitVec 8) (a : BitVec 8) (b : BitVec 8) : Statement (.bfx n d a b) :=
  ⟨.inl rfl, rfl⟩
theorem Sys2Proof.Laws.Encoded.bfi (n : Bool) (d : BitVec 8) (a : BitVec 8) (b : BitVec 8) : Statement (.bfi n d a b) :=
  ⟨.inl rfl, rfl⟩
theorem Sys2Proof.Laws.Encoded.iaddi (n : Bool) (d : BitVec 8) (a : BitVec 8) (i : BitVec 8) : Statement (.iaddi n d a i) :=
  ⟨.inl rfl, rfl⟩
theorem Sys2Proof.Laws.Encoded.shli (n : Bool) (d : BitVec 8) (a : BitVec 8) (i : BitVec 5) : Statement (.shli n d a i) :=
  ⟨.inl rfl, rfl⟩
theorem Sys2Proof.Laws.Encoded.shri (n : Bool) (d : BitVec 8) (a : BitVec 8) (i : BitVec 5) : Statement (.shri n d a i) :=
  ⟨.inl rfl, rfl⟩
theorem Sys2Proof.Laws.Encoded.sari (n : Bool) (d : BitVec 8) (a : BitVec 8) (i : BitVec 5) : Statement (.sari n d a i) :=
  ⟨.inl rfl, rfl⟩
theorem Sys2Proof.Laws.Encoded.andi (n : Bool) (d : BitVec 8) (a : BitVec 8) (i : BitVec 8) : Statement (.andi n d a i) :=
  ⟨.inl rfl, rfl⟩
theorem Sys2Proof.Laws.Encoded.ori (n : Bool) (d : BitVec 8) (a : BitVec 8) (i : BitVec 8) : Statement (.ori n d a i) :=
  ⟨.inl rfl, rfl⟩
theorem Sys2Proof.Laws.Encoded.xori (n : Bool) (d : BitVec 8) (a : BitVec 8) (i : BitVec 8) : Statement (.xori n d a i) :=
  ⟨.inl rfl, rfl⟩
theorem Sys2Proof.Laws.Encoded.movi (n : Bool) (d : BitVec 8) (i : BitVec 16) : Statement (.movi n d i) :=
  ⟨.inl rfl, rfl⟩
theorem Sys2Proof.Laws.Encoded.movhi (d : BitVec 8) (i : BitVec 16) : Statement (.movhi d i) :=
  ⟨.inl rfl, rfl⟩
theorem Sys2Proof.Laws.Encoded.mov (n : Bool) (d : BitVec 8) (a : BitVec 8) : Statement (.mov n d a) :=
  ⟨.inl rfl, rfl⟩
theorem Sys2Proof.Laws.Encoded.icmp (c : BitVec 4) (p : BitVec 4) (w : Bool) (a : BitVec 8) (b : BitVec 8) : Statement (.icmp c p w a b) :=
  ⟨.inl rfl, rfl⟩
theorem Sys2Proof.Laws.Encoded.fadd (n : Bool) (d : BitVec 8) (a : BitVec 8) (b : BitVec 8) : Statement (.fadd n d a b) :=
  ⟨.inl rfl, rfl⟩
theorem Sys2Proof.Laws.Encoded.fsub (n : Bool) (d : BitVec 8) (a : BitVec 8) (b : BitVec 8) : Statement (.fsub n d a b) :=
  ⟨.inl rfl, rfl⟩
theorem Sys2Proof.Laws.Encoded.fmul (n : Bool) (d : BitVec 8) (a : BitVec 8) (b : BitVec 8) : Statement (.fmul n d a b) :=
  ⟨.inl rfl, rfl⟩
theorem Sys2Proof.Laws.Encoded.ffma (n : Bool) (d : BitVec 8) (a : BitVec 8) (b : BitVec 8) : Statement (.ffma n d a b) :=
  ⟨.inl rfl, rfl⟩
theorem Sys2Proof.Laws.Encoded.fmin (n : Bool) (d : BitVec 8) (a : BitVec 8) (b : BitVec 8) : Statement (.fmin n d a b) :=
  ⟨.inl rfl, rfl⟩
theorem Sys2Proof.Laws.Encoded.fmax (n : Bool) (d : BitVec 8) (a : BitVec 8) (b : BitVec 8) : Statement (.fmax n d a b) :=
  ⟨.inl rfl, rfl⟩
theorem Sys2Proof.Laws.Encoded.fun (n : Bool) (d : BitVec 8) (a : BitVec 8) (f : BitVec 8) : Statement (.fun n d a f) :=
  ⟨.inl rfl, rfl⟩
theorem Sys2Proof.Laws.Encoded.fcmp (c : BitVec 4) (p : BitVec 4) (w : Bool) (a : BitVec 8) (b : BitVec 8) : Statement (.fcmp c p w a b) :=
  ⟨.inl rfl, rfl⟩
theorem Sys2Proof.Laws.Encoded.sel (n : Bool) (d : BitVec 8) (a : BitVec 8) (b : BitVec 8) : Statement (.sel n d a b) :=
  ⟨.inl rfl, rfl⟩
theorem Sys2Proof.Laws.Encoded.badd2 (n : Bool) (d : BitVec 8) (a : BitVec 8) (b : BitVec 8) : Statement (.badd2 n d a b) :=
  ⟨.inl rfl, rfl⟩
theorem Sys2Proof.Laws.Encoded.bmul2 (n : Bool) (d : BitVec 8) (a : BitVec 8) (b : BitVec 8) : Statement (.bmul2 n d a b) :=
  ⟨.inl rfl, rfl⟩
theorem Sys2Proof.Laws.Encoded.bfma2 (n : Bool) (d : BitVec 8) (a : BitVec 8) (b : BitVec 8) : Statement (.bfma2 n d a b) :=
  ⟨.inl rfl, rfl⟩
theorem Sys2Proof.Laws.Encoded.hadd2 (n : Bool) (d : BitVec 8) (a : BitVec 8) (b : BitVec 8) : Statement (.hadd2 n d a b) :=
  ⟨.inl rfl, rfl⟩
theorem Sys2Proof.Laws.Encoded.hmul2 (n : Bool) (d : BitVec 8) (a : BitVec 8) (b : BitVec 8) : Statement (.hmul2 n d a b) :=
  ⟨.inl rfl, rfl⟩
theorem Sys2Proof.Laws.Encoded.hfma2 (n : Bool) (d : BitVec 8) (a : BitVec 8) (b : BitVec 8) : Statement (.hfma2 n d a b) :=
  ⟨.inl rfl, rfl⟩
theorem Sys2Proof.Laws.Encoded.dot4i (n : Bool) (d : BitVec 8) (a : BitVec 8) (b : BitVec 8) : Statement (.dot4i n d a b) :=
  ⟨.inl rfl, rfl⟩
theorem Sys2Proof.Laws.Encoded.dot2b (n : Bool) (d : BitVec 8) (a : BitVec 8) (b : BitVec 8) : Statement (.dot2b n d a b) :=
  ⟨.inl rfl, rfl⟩
theorem Sys2Proof.Laws.Encoded.dot4f8 (n : Bool) (d : BitVec 8) (a : BitVec 8) (b : BitVec 8) : Statement (.dot4f8 n d a b) :=
  ⟨.inl rfl, rfl⟩
theorem Sys2Proof.Laws.Encoded.ldexp (n : Bool) (d : BitVec 8) (a : BitVec 8) (b : BitVec 8) : Statement (.ldexp n d a b) :=
  ⟨.inl rfl, rfl⟩
theorem Sys2Proof.Laws.Encoded.cvt (n : Bool) (d : BitVec 8) (a : BitVec 8) (f : BitVec 8) : Statement (.cvt n d a f) :=
  ⟨.inl rfl, rfl⟩
theorem Sys2Proof.Laws.Encoded.f8pack (n : Bool) (d : BitVec 8) (a : BitVec 8) (b : BitVec 8) : Statement (.f8pack n d a b) :=
  ⟨.inl rfl, rfl⟩
theorem Sys2Proof.Laws.Encoded.f8unpk (d : BitVec 8) (a : BitVec 8) (b : BitVec 8) : Statement (.f8unpk d a b) :=
  ⟨.inl rfl, rfl⟩
theorem Sys2Proof.Laws.Encoded.sfu (n : Bool) (d : BitVec 8) (a : BitVec 8) (f : BitVec 8) : Statement (.sfu n d a f) :=
  ⟨.inl rfl, rfl⟩
theorem Sys2Proof.Laws.Encoded.qamax (d : BitVec 8) (a : BitVec 8) : Statement (.qamax d a) :=
  ⟨.inl rfl, rfl⟩
theorem Sys2Proof.Laws.Encoded.qscale (d : BitVec 8) (a : BitVec 8) (m : Bool) : Statement (.qscale d a m) :=
  ⟨.inl rfl, rfl⟩
theorem Sys2Proof.Laws.Encoded.rng (d : BitVec 8) (a : BitVec 8) (b : BitVec 8) : Statement (.rng d a b) :=
  ⟨.inl rfl, rfl⟩
theorem Sys2Proof.Laws.Encoded.shfl (n : Bool) (d : BitVec 8) (a : BitVec 8) (b : BitVec 8) : Statement (.shfl n d a b) :=
  ⟨.inl rfl, rfl⟩
theorem Sys2Proof.Laws.Encoded.perm (n : Bool) (d : BitVec 8) (a : BitVec 8) (b : BitVec 8) : Statement (.perm n d a b) :=
  ⟨.inl rfl, rfl⟩
theorem Sys2Proof.Laws.Encoded.vote (c : BitVec 4) (p : BitVec 4) (w : Bool) (s : BitVec 4) : Statement (.vote c p w s) :=
  ⟨.inl rfl, rfl⟩
theorem Sys2Proof.Laws.Encoded.ballot (d : BitVec 8) (p : BitVec 4) : Statement (.ballot d p) :=
  ⟨.inl rfl, rfl⟩
theorem Sys2Proof.Laws.Encoded.wred (d : BitVec 8) (a : BitVec 8) (f : BitVec 8) : Statement (.wred d a f) :=
  ⟨.inl rfl, rfl⟩
theorem Sys2Proof.Laws.Encoded.wscan (n : Bool) (d : BitVec 8) (a : BitVec 8) (f : BitVec 8) : Statement (.wscan n d a f) :=
  ⟨.inl rfl, rfl⟩
theorem Sys2Proof.Laws.Encoded.v2s (d : BitVec 8) (a : BitVec 8) (l : BitVec 5) : Statement (.v2s d a l) :=
  ⟨.inl rfl, rfl⟩
theorem Sys2Proof.Laws.Encoded.s2v (n : Bool) (d : BitVec 8) (a : BitVec 8) : Statement (.s2v n d a) :=
  ⟨.inl rfl, rfl⟩
theorem Sys2Proof.Laws.Encoded.sadd (d : BitVec 8) (a : BitVec 8) (b : BitVec 8) : Statement (.sadd d a b) :=
  ⟨.inl rfl, rfl⟩
theorem Sys2Proof.Laws.Encoded.ssub (d : BitVec 8) (a : BitVec 8) (b : BitVec 8) : Statement (.ssub d a b) :=
  ⟨.inl rfl, rfl⟩
theorem Sys2Proof.Laws.Encoded.smul (d : BitVec 8) (a : BitVec 8) (b : BitVec 8) : Statement (.smul d a b) :=
  ⟨.inl rfl, rfl⟩
theorem Sys2Proof.Laws.Encoded.sand (d : BitVec 8) (a : BitVec 8) (b : BitVec 8) : Statement (.sand d a b) :=
  ⟨.inl rfl, rfl⟩
theorem Sys2Proof.Laws.Encoded.sor (d : BitVec 8) (a : BitVec 8) (b : BitVec 8) : Statement (.sor d a b) :=
  ⟨.inl rfl, rfl⟩
theorem Sys2Proof.Laws.Encoded.sxor (d : BitVec 8) (a : BitVec 8) (b : BitVec 8) : Statement (.sxor d a b) :=
  ⟨.inl rfl, rfl⟩
theorem Sys2Proof.Laws.Encoded.sshl (d : BitVec 8) (a : BitVec 8) (b : BitVec 8) : Statement (.sshl d a b) :=
  ⟨.inl rfl, rfl⟩
theorem Sys2Proof.Laws.Encoded.sshr (d : BitVec 8) (a : BitVec 8) (b : BitVec 8) : Statement (.sshr d a b) :=
  ⟨.inl rfl, rfl⟩
theorem Sys2Proof.Laws.Encoded.ssar (d : BitVec 8) (a : BitVec 8) (b : BitVec 8) : Statement (.ssar d a b) :=
  ⟨.inl rfl, rfl⟩
theorem Sys2Proof.Laws.Encoded.smin (d : BitVec 8) (a : BitVec 8) (b : BitVec 8) : Statement (.smin d a b) :=
  ⟨.inl rfl, rfl⟩
theorem Sys2Proof.Laws.Encoded.smax (d : BitVec 8) (a : BitVec 8) (b : BitVec 8) : Statement (.smax d a b) :=
  ⟨.inl rfl, rfl⟩
theorem Sys2Proof.Laws.Encoded.saddi (d : BitVec 8) (a : BitVec 8) (i : BitVec 8) : Statement (.saddi d a i) :=
  ⟨.inl rfl, rfl⟩
theorem Sys2Proof.Laws.Encoded.smovi (d : BitVec 8) (i : BitVec 16) : Statement (.smovi d i) :=
  ⟨.inl rfl, rfl⟩
theorem Sys2Proof.Laws.Encoded.scmp (c : BitVec 4) (p : BitVec 4) (w : Bool) (a : BitVec 8) (b : BitVec 8) : Statement (.scmp c p w a b) :=
  ⟨.inl rfl, rfl⟩
theorem Sys2Proof.Laws.Encoded.sadd64 (d : BitVec 8) (a : BitVec 8) (b : BitVec 8) : Statement (.sadd64 d a b) :=
  ⟨.inl rfl, rfl⟩
theorem Sys2Proof.Laws.Encoded.ssel (d : BitVec 8) (a : BitVec 8) (b : BitVec 8) : Statement (.ssel d a b) :=
  ⟨.inl rfl, rfl⟩
theorem Sys2Proof.Laws.Encoded.tld (t : BitVec 5) (v : BitVec 8) (n : BitVec 5) : Statement (.tld t v n) :=
  ⟨.inl rfl, rfl⟩
theorem Sys2Proof.Laws.Encoded.tst (t : BitVec 5) (v : BitVec 8) (n : BitVec 5) : Statement (.tst t v n) :=
  ⟨.inl rfl, rfl⟩
theorem Sys2Proof.Laws.Encoded.tmma (d : BitVec 8) (a : BitVec 5) (b : BitVec 5) (t : BitVec 4) : Statement (.tmma d a b t) :=
  ⟨.inl rfl, rfl⟩
theorem Sys2Proof.Laws.Encoded.tmmac (d : BitVec 8) (a : BitVec 5) (b : BitVec 5) (t : BitVec 4) : Statement (.tmmac d a b t) :=
  ⟨.inl rfl, rfl⟩
theorem Sys2Proof.Laws.Encoded.tzero (t : BitVec 5) : Statement (.tzero t) :=
  ⟨.inl rfl, rfl⟩
theorem Sys2Proof.Laws.Encoded.tmov (r : Bool) (v : BitVec 8) (t : BitVec 5) : Statement (.tmov r v t) :=
  ⟨.inl rfl, rfl⟩
theorem Sys2Proof.Laws.Encoded.movl (n : Bool) (d : BitVec 8) (lit : BitVec 32) : Statement (.movl n d lit) :=
  ⟨.inr rfl, rfl⟩
theorem Sys2Proof.Laws.Encoded.smovl (d : BitVec 8) (lit : BitVec 32) : Statement (.smovl d lit) :=
  ⟨.inr rfl, rfl⟩
theorem Sys2Proof.Laws.Encoded.ldb (d : BitVec 8) (v : BitVec 8) (n : BitVec 5) (i : BitVec 3) (z : Bool) : Statement (.ldb d v n i z) :=
  ⟨.inl rfl, rfl⟩
theorem Sys2Proof.Laws.Encoded.ldh (d : BitVec 8) (v : BitVec 8) (n : BitVec 5) (i : BitVec 3) (z : Bool) : Statement (.ldh d v n i z) :=
  ⟨.inl rfl, rfl⟩
theorem Sys2Proof.Laws.Encoded.ldw (d : BitVec 8) (v : BitVec 8) (n : BitVec 5) (i : BitVec 3) (z : Bool) : Statement (.ldw d v n i z) :=
  ⟨.inl rfl, rfl⟩
theorem Sys2Proof.Laws.Encoded.ldd (d : BitVec 8) (v : BitVec 8) (n : BitVec 5) (i : BitVec 3) (z : Bool) : Statement (.ldd d v n i z) :=
  ⟨.inl rfl, rfl⟩
theorem Sys2Proof.Laws.Encoded.ldq (d : BitVec 8) (v : BitVec 8) (n : BitVec 5) (i : BitVec 3) (z : Bool) : Statement (.ldq d v n i z) :=
  ⟨.inl rfl, rfl⟩
theorem Sys2Proof.Laws.Encoded.stb (d : BitVec 8) (v : BitVec 8) (n : BitVec 5) (i : BitVec 3) (z : Bool) : Statement (.stb d v n i z) :=
  ⟨.inl rfl, rfl⟩
theorem Sys2Proof.Laws.Encoded.sth (d : BitVec 8) (v : BitVec 8) (n : BitVec 5) (i : BitVec 3) (z : Bool) : Statement (.sth d v n i z) :=
  ⟨.inl rfl, rfl⟩
theorem Sys2Proof.Laws.Encoded.stw (d : BitVec 8) (v : BitVec 8) (n : BitVec 5) (i : BitVec 3) (z : Bool) : Statement (.stw d v n i z) :=
  ⟨.inl rfl, rfl⟩
theorem Sys2Proof.Laws.Encoded.std (d : BitVec 8) (v : BitVec 8) (n : BitVec 5) (i : BitVec 3) (z : Bool) : Statement (.std d v n i z) :=
  ⟨.inl rfl, rfl⟩
theorem Sys2Proof.Laws.Encoded.stq (d : BitVec 8) (v : BitVec 8) (n : BitVec 5) (i : BitVec 3) (z : Bool) : Statement (.stq d v n i z) :=
  ⟨.inl rfl, rfl⟩
theorem Sys2Proof.Laws.Encoded.sldw (d : BitVec 8) (n : BitVec 5) (i : BitVec 3) : Statement (.sldw d n i) :=
  ⟨.inl rfl, rfl⟩
theorem Sys2Proof.Laws.Encoded.sldd (d : BitVec 8) (n : BitVec 5) (i : BitVec 3) : Statement (.sldd d n i) :=
  ⟨.inl rfl, rfl⟩
theorem Sys2Proof.Laws.Encoded.atom (f : BitVec 4) (d : BitVec 8) (v : BitVec 8) (n : BitVec 5) : Statement (.atom f d v n) :=
  ⟨.inl rfl, rfl⟩
theorem Sys2Proof.Laws.Encoded.atomn (f : BitVec 4) (d : BitVec 8) (v : BitVec 8) (n : BitVec 5) : Statement (.atomn f d v n) :=
  ⟨.inl rfl, rfl⟩
theorem Sys2Proof.Laws.Encoded.fence (s : BitVec 2) (k : BitVec 2) (m : BitVec 5) : Statement (.fence s k m) :=
  ⟨.inl rfl, rfl⟩
theorem Sys2Proof.Laws.Encoded.drain (p : BitVec 5) : Statement (.drain p) :=
  ⟨.inl rfl, rfl⟩
theorem Sys2Proof.Laws.Encoded.copy (b : BitVec 9) (k : BitVec 3) : Statement (.copy b k) :=
  ⟨.inl rfl, rfl⟩
theorem Sys2Proof.Laws.Encoded.copyg (b : BitVec 9) (k : BitVec 3) (i : BitVec 8) : Statement (.copyg b k i) :=
  ⟨.inl rfl, rfl⟩
theorem Sys2Proof.Laws.Encoded.copys (b : BitVec 9) (k : BitVec 3) (i : BitVec 8) : Statement (.copys b k i) :=
  ⟨.inl rfl, rfl⟩
theorem Sys2Proof.Laws.Encoded.kstat (d : BitVec 9) (k : BitVec 3) : Statement (.kstat d k) :=
  ⟨.inl rfl, rfl⟩
theorem Sys2Proof.Laws.Encoded.rayq (q : BitVec 8) (r : BitVec 8) (n : BitVec 5) (f : BitVec 3) : Statement (.rayq q r n f) :=
  ⟨.inl rfl, rfl⟩
theorem Sys2Proof.Laws.Encoded.ald (v : BitVec 8) (o : BitVec 8) (w : BitVec 8) : Statement (.ald v o w) :=
  ⟨.inl rfl, rfl⟩
theorem Sys2Proof.Laws.Encoded.ast (v : BitVec 8) (o : BitVec 8) (w : BitVec 8) : Statement (.ast v o w) :=
  ⟨.inl rfl, rfl⟩
theorem Sys2Proof.Laws.Encoded.csend (b : BitVec 9) (k : BitVec 3) : Statement (.csend b k) :=
  ⟨.inl rfl, rfl⟩
theorem Sys2Proof.Laws.Encoded.coll (b : BitVec 9) (k : BitVec 3) : Statement (.coll b k) :=
  ⟨.inl rfl, rfl⟩
theorem Sys2Proof.Laws.Encoded.wrecPost (p : BitVec 4) (v : BitVec 8) (q : BitVec 8) : Statement (.wrecPost p v q) :=
  ⟨.inl rfl, rfl⟩
theorem Sys2Proof.Laws.Encoded.wrecTake (p : BitVec 4) (v : BitVec 8) : Statement (.wrecTake p v) :=
  ⟨.inl rfl, rfl⟩
theorem Sys2Proof.Laws.Encoded.wrecReturn : Statement .wrecReturn :=
  ⟨.inl rfl, rfl⟩
theorem Sys2Proof.Laws.Encoded.bra (p : BitVec 4) (g : Bool) (s : BitVec 18) : Statement (.bra p g s) :=
  ⟨.inl rfl, rfl⟩
theorem Sys2Proof.Laws.Encoded.brc (p : BitVec 4) (g : Bool) (s : BitVec 18) : Statement (.brc p g s) :=
  ⟨.inl rfl, rfl⟩
theorem Sys2Proof.Laws.Encoded.call (p : BitVec 4) (g : Bool) (s : BitVec 18) : Statement (.call p g s) :=
  ⟨.inl rfl, rfl⟩
theorem Sys2Proof.Laws.Encoded.rcv (s : BitVec 18) : Statement (.rcv s) :=
  ⟨.inl rfl, rfl⟩
theorem Sys2Proof.Laws.Encoded.nop : Statement .nop :=
  ⟨.inl rfl, rfl⟩
theorem Sys2Proof.Laws.Encoded.ret : Statement .ret :=
  ⟨.inl rfl, rfl⟩
theorem Sys2Proof.Laws.Encoded.exit : Statement .exit :=
  ⟨.inl rfl, rfl⟩
theorem Sys2Proof.Laws.Encoded.yield : Statement .yield :=
  ⟨.inl rfl, rfl⟩
theorem Sys2Proof.Laws.Encoded.trap (c : BitVec 16) : Statement (.trap c) :=
  ⟨.inl rfl, rfl⟩
theorem Sys2Proof.Laws.Encoded.bkpt (c : BitVec 16) : Statement (.bkpt c) :=
  ⟨.inl rfl, rfl⟩
theorem Sys2Proof.Laws.Encoded.bar (b : BitVec 4) (w : Bool) : Statement (.bar b w) :=
  ⟨.inl rfl, rfl⟩
theorem Sys2Proof.Laws.Encoded.gsync (s : BitVec 8) : Statement (.gsync s) :=
  ⟨.inl rfl, rfl⟩
theorem Sys2Proof.Laws.Encoded.mbar (b : BitVec 4) (m : BitVec 2) : Statement (.mbar b m) :=
  ⟨.inl rfl, rfl⟩
theorem Sys2Proof.Laws.Encoded.waitv (n : BitVec 5) (c : BitVec 3) (k : BitVec 3) (v : BitVec 8) : Statement (.waitv n c k v) :=
  ⟨.inl rfl, rfl⟩
theorem Sys2Proof.Laws.Encoded.step (n : BitVec 19) : Statement (.step n) :=
  ⟨.inl rfl, rfl⟩
theorem Sys2Proof.Laws.Encoded.launch (n : BitVec 5) (q : BitVec 4) : Statement (.launch n q) :=
  ⟨.inl rfl, rfl⟩
theorem Sys2Proof.Laws.Encoded.grow (i : BitVec 8) (d : BitVec 8) : Statement (.grow i d) :=
  ⟨.inl rfl, rfl⟩
theorem Sys2Proof.Laws.Encoded.chsend (c : BitVec 4) (d : BitVec 8) : Statement (.chsend c d) :=
  ⟨.inl rfl, rfl⟩
theorem Sys2Proof.Laws.Encoded.chrecv (c : BitVec 4) (d : BitVec 8) (p : BitVec 4) : Statement (.chrecv c d p) :=
  ⟨.inl rfl, rfl⟩
theorem Sys2Proof.Laws.Encoded.chclose (c : BitVec 4) : Statement (.chclose c) :=
  ⟨.inl rfl, rfl⟩
theorem Sys2Proof.Laws.Encoded.pref (n : BitVec 5) (o : BitVec 8) (l : BitVec 2) : Statement (.pref n o l) :=
  ⟨.inl rfl, rfl⟩
theorem Sys2Proof.Laws.Encoded.cinv (n : BitVec 5) (o : BitVec 8) (a : Bool) : Statement (.cinv n o a) :=
  ⟨.inl rfl, rfl⟩
theorem Sys2Proof.Laws.Encoded.rdcpurge (n : BitVec 5) (o : BitVec 8) (a : Bool) : Statement (.rdcpurge n o a) :=
  ⟨.inl rfl, rfl⟩
theorem Sys2Proof.Laws.Encoded.csrr (s : BitVec 11) (d : BitVec 8) : Statement (.csrr s d) :=
  ⟨.inl rfl, rfl⟩
theorem Sys2Proof.Laws.Encoded.csrw (s : BitVec 11) (r : BitVec 8) : Statement (.csrw s r) :=
  ⟨.inl rfl, rfl⟩
theorem Sys2Proof.Laws.Encoded.sleep (n : BitVec 19) : Statement (.sleep n) :=
  ⟨.inl rfl, rfl⟩
theorem Sys2Proof.Laws.Encoded.brx (n : BitVec 5) (c : Bool) : Statement (.brx n c) :=
  ⟨.inl rfl, rfl⟩
theorem Sys2Proof.Laws.Encoded.xp (a : BitVec 3) (b : BitVec 5) (c : BitVec 3) (d : BitVec 5) (e : BitVec 3) (f : BitVec 5) : Statement (.xp a b c d e f) :=
  ⟨.inl rfl, rfl⟩
theorem Sys2Proof.Laws.Encoded.xc (p : BitVec 4) (g : Bool) (c : BitVec 8) (r : BitVec 3) (s : Bool) (n : BitVec 3) (i : BitVec 5) : Statement (.xc p g c r s n i) :=
  ⟨.inl rfl, rfl⟩
theorem Sys2Proof.Laws.Encoded.mend : Statement .mend :=
  ⟨rfl, rfl⟩
theorem Sys2Proof.Laws.Encoded.mmac (acc : Bool) (m : BitVec 6) (t : BitVec 7) (x : BitVec 3) (off : BitVec 20) (stride : BitVec 13) : Statement (.mmac acc m t x off stride) :=
  ⟨rfl, rfl⟩
theorem Sys2Proof.Laws.Encoded.mmacb (acc : Bool) (m : BitVec 6) (t : BitVec 7) (x : BitVec 3) (off : BitVec 20) (stride : BitVec 13) : Statement (.mmacb acc m t x off stride) :=
  ⟨rfl, rfl⟩
theorem Sys2Proof.Laws.Encoded.mmaci (acc : Bool) (m : BitVec 6) (t : BitVec 7) (x : BitVec 3) (off : BitVec 20) (stride : BitVec 13) : Statement (.mmaci acc m t x off stride) :=
  ⟨rfl, rfl⟩
theorem Sys2Proof.Laws.Encoded.mcmac (acc : Bool) (m : BitVec 6) (t : BitVec 7) (x : BitVec 3) (off : BitVec 20) (stride : BitVec 13) : Statement (.mcmac acc m t x off stride) :=
  ⟨rfl, rfl⟩
theorem Sys2Proof.Laws.Encoded.mmace5 (acc : Bool) (m : BitVec 6) (t : BitVec 7) (x : BitVec 3) (off : BitVec 20) (stride : BitVec 13) : Statement (.mmace5 acc m t x off stride) :=
  ⟨rfl, rfl⟩
theorem Sys2Proof.Laws.Encoded.msa (w : BitVec 8) (m : BitVec 6) (s : BitVec 3) (x : BitVec 3) (off : BitVec 19) : Statement (.msa w m s x off) :=
  ⟨rfl, rfl⟩
theorem Sys2Proof.Laws.Encoded.msai (w : BitVec 8) (m : BitVec 6) (sat : Bool) : Statement (.msai w m sat) :=
  ⟨rfl, rfl⟩
theorem Sys2Proof.Laws.Encoded.mclr (win : Bool) (w : BitVec 8) (c : BitVec 8) : Statement (.mclr win w c) :=
  ⟨rfl, rfl⟩
theorem Sys2Proof.Laws.Encoded.mout (w : BitVec 8) (m : BitVec 6) (fmt : BitVec 3) (x : BitVec 3) (off : BitVec 19) (stride : BitVec 13) : Statement (.mout w m fmt x off stride) :=
  ⟨rfl, rfl⟩
theorem Sys2Proof.Laws.Encoded.streamMbar (b : BitVec 4) (mode : BitVec 2) : Statement (.streamMbar b mode) :=
  ⟨rfl, rfl⟩
theorem Sys2Proof.Laws.Encoded.mset (x : BitVec 3) (hi : Bool) (imm : BitVec 48) : Statement (.mset x hi imm) :=
  ⟨rfl, rfl⟩
theorem Sys2Proof.Laws.Encoded.madv (d : BitVec 3) (x : BitVec 3) (imm : BitVec 40) : Statement (.madv d x imm) :=
  ⟨rfl, rfl⟩
theorem Sys2Proof.Laws.Encoded.mloop (x : BitVec 3) (off : BitVec 18) : Statement (.mloop x off) :=
  ⟨rfl, rfl⟩
theorem Sys2Proof.Laws.Encoded.atopk (w : BitVec 8) (c : BitVec 8) (k : BitVec 10) (len : BitVec 3) (x : BitVec 3) (off : BitVec 19) : Statement (.atopk w c k len x off) :=
  ⟨rfl, rfl⟩
theorem Sys2Proof.Laws.Encoded.asmax (w : BitVec 8) (c : BitVec 8) (k : BitVec 3) (len : BitVec 3) : Statement (.asmax w c k len) :=
  ⟨rfl, rfl⟩
theorem Sys2Proof.Laws.Encoded.asample (w : BitVec 8) (c : BitVec 8) (list : Bool) (key : BitVec 3) (ctr : BitVec 3) (d : BitVec 3) (len : BitVec 3) (x : BitVec 3) (off : BitVec 19) : Statement (.asample w c list key ctr d len x off) :=
  ⟨rfl, rfl⟩
theorem Sys2Proof.Laws.Encoded.mstep (n : BitVec 32) : Statement (.mstep n) :=
  ⟨rfl, rfl⟩
theorem Sys2Proof.Laws.Encoded.mnop : Statement .mnop :=
  ⟨rfl, rfl⟩
theorem Sys2Proof.Laws.Encoded.clauseSelect (core : Nat) (sub : Nat) (slot1 : Bool) : Statement (.clauseSelect core sub slot1) :=
  rfl
theorem Sys2Proof.Laws.Encoded.deferredMove (b : Nat) (wv : Nat) : Statement (.deferredMove b wv) :=
  rfl
theorem Sys2Proof.Laws.Encoded.instructionFetchComplete (core : Nat) (cx : Nat) (line : Nat) : Statement (.instructionFetchComplete core cx line) :=
  rfl
theorem Sys2Proof.Laws.Encoded.wavePromote (b : Nat) (wv : Nat) : Statement (.wavePromote b wv) :=
  rfl
theorem Sys2Proof.Laws.Encoded.resultWriteback (b : Nat) (wv : Nat) : Statement (.resultWriteback b wv) :=
  rfl
theorem Sys2Proof.Laws.Encoded.storeLeaveCore (b : Nat) (wv : Nat) : Statement (.storeLeaveCore b wv) :=
  rfl
theorem Sys2Proof.Laws.Encoded.loadComplete (b : Nat) (wv : Nat) : Statement (.loadComplete b wv) :=
  rfl
theorem Sys2Proof.Laws.Encoded.atomReturn (b : Nat) (wv : Nat) : Statement (.atomReturn b wv) :=
  rfl
theorem Sys2Proof.Laws.Encoded.abortCompletion (site : AbortSite) : Statement (.abortCompletion site) :=
  rfl
theorem Sys2Proof.Laws.Encoded.strikeRollback (core : Nat) : Statement (.strikeRollback core) :=
  rfl
theorem Sys2Proof.Laws.Encoded.strikeUncore (die : Nat) : Statement (.strikeUncore die) :=
  rfl
theorem Sys2Proof.Laws.Encoded.residueReissue (core : Nat) (sub : Nat) (phys : Nat) (recurs : Bool) : Statement (.residueReissue core sub phys recurs) :=
  rfl
theorem Sys2Proof.Laws.Encoded.columnRemap (core : Nat) (col : Nat) (recurs : Bool) : Statement (.columnRemap core col recurs) :=
  rfl
theorem Sys2Proof.Laws.Encoded.deadlockDetect (b : Nat) : Statement (.deadlockDetect b) :=
  rfl
theorem Sys2Proof.Laws.Encoded.sleepExpire (b : Nat) (wv : Nat) : Statement (.sleepExpire b wv) :=
  rfl
theorem Sys2Proof.Laws.Encoded.setPhaseComplete (l : Nat) (set : Nat) : Statement (.setPhaseComplete l set) :=
  rfl
theorem Sys2Proof.Laws.Encoded.waitvReread (b : Nat) (wv : Nat) : Statement (.waitvReread b wv) :=
  rfl
theorem Sys2Proof.Laws.Encoded.fenceComplete (b : Nat) (wv : Nat) : Statement (.fenceComplete b wv) :=
  rfl
theorem Sys2Proof.Laws.Encoded.drainComplete (b : Nat) (wv : Nat) : Statement (.drainComplete b wv) :=
  rfl
theorem Sys2Proof.Laws.Encoded.copySector (core : Nat) : Statement (.copySector core) :=
  rfl
theorem Sys2Proof.Laws.Encoded.streamOwnerChange (core : Nat) : Statement (.streamOwnerChange core) :=
  rfl
theorem Sys2Proof.Laws.Encoded.streamFault (b : Nat) : Statement (.streamFault b) :=
  rfl
theorem Sys2Proof.Laws.Encoded.rayqComplete (b : Nat) (wv : Nat) : Statement (.rayqComplete b wv) :=
  rfl
theorem Sys2Proof.Laws.Encoded.launchPacket (ap : Nat) (ws : List (BitVec 32)) : Statement (.launchPacket ap ws) :=
  rfl
theorem Sys2Proof.Laws.Encoded.resume (ap : Nat) (ws : List (BitVec 32)) : Statement (.resume ap ws) :=
  rfl
theorem Sys2Proof.Laws.Encoded.qownWrite (q : Nat) (v : BitVec 32) : Statement (.qownWrite q v) :=
  rfl
theorem Sys2Proof.Laws.Encoded.registerWrite (off : Nat) (v : BitVec 32) : Statement (.registerWrite off v) :=
  rfl
theorem Sys2Proof.Laws.Encoded.launchStart (q : Nat) : Statement (.launchStart q) :=
  rfl
theorem Sys2Proof.Laws.Encoded.memoryWaitReread (q : Nat) : Statement (.memoryWaitReread q) :=
  rfl
theorem Sys2Proof.Laws.Encoded.dispatchBlock : Statement .dispatchBlock :=
  rfl
theorem Sys2Proof.Laws.Encoded.blockStart (core : Nat) : Statement (.blockStart core) :=
  rfl
theorem Sys2Proof.Laws.Encoded.stealRequest (core : Nat) : Statement (.stealRequest core) :=
  rfl
theorem Sys2Proof.Laws.Encoded.blockEnd (b : Nat) : Statement (.blockEnd b) :=
  rfl
theorem Sys2Proof.Laws.Encoded.launchComplete (l : Nat) : Statement (.launchComplete l) :=
  rfl
theorem Sys2Proof.Laws.Encoded.pocketFrameGrant (cx : Nat) : Statement (.pocketFrameGrant cx) :=
  rfl
theorem Sys2Proof.Laws.Encoded.requestEntryWrite (cx : Nat) : Statement (.requestEntryWrite cx) :=
  rfl
theorem Sys2Proof.Laws.Encoded.blockHalt (b : Nat) : Statement (.blockHalt b) :=
  rfl
theorem Sys2Proof.Laws.Encoded.haltSave (b : Nat) : Statement (.haltSave b) :=
  rfl
theorem Sys2Proof.Laws.Encoded.trapRecordWrite (cx : Nat) : Statement (.trapRecordWrite cx) :=
  rfl
theorem Sys2Proof.Laws.Encoded.deadlineExpire (core : Nat) (cx : Nat) : Statement (.deadlineExpire core cx) :=
  rfl
theorem Sys2Proof.Laws.Encoded.cutReport (l : Nat) : Statement (.cutReport l) :=
  rfl
theorem Sys2Proof.Laws.Encoded.cutComplete (l : Nat) : Statement (.cutComplete l) :=
  rfl
theorem Sys2Proof.Laws.Encoded.hostWrite (pa : Nat) (data : List (BitVec 8)) : Statement (.hostWrite pa data) :=
  rfl
theorem Sys2Proof.Laws.Encoded.linkTraining (port : Nat) (peer : Nat) (peerPort : Nat) : Statement (.linkTraining port peer peerPort) :=
  rfl
theorem Sys2Proof.Laws.Encoded.nullFlit (port : Nat) (f : Flit) : Statement (.nullFlit port f) :=
  rfl
theorem Sys2Proof.Laws.Encoded.readFlit (port : Nat) (f : Flit) : Statement (.readFlit port f) :=
  rfl
theorem Sys2Proof.Laws.Encoded.writeFlit (port : Nat) (f : Flit) : Statement (.writeFlit port f) :=
  rfl
theorem Sys2Proof.Laws.Encoded.atomFlit (port : Nat) (f : Flit) : Statement (.atomFlit port f) :=
  rfl
theorem Sys2Proof.Laws.Encoded.recFlit (port : Nat) (f : Flit) : Statement (.recFlit port f) :=
  rfl
theorem Sys2Proof.Laws.Encoded.collFlit (port : Nat) (f : Flit) : Statement (.collFlit port f) :=
  rfl
theorem Sys2Proof.Laws.Encoded.rdataFlit (port : Nat) (f : Flit) : Statement (.rdataFlit port f) :=
  rfl
theorem Sys2Proof.Laws.Encoded.wackFlit (port : Nat) (f : Flit) : Statement (.wackFlit port f) :=
  rfl
theorem Sys2Proof.Laws.Encoded.arspFlit (port : Nat) (f : Flit) : Statement (.arspFlit port f) :=
  rfl
theorem Sys2Proof.Laws.Encoded.abortFlit (port : Nat) (f : Flit) : Statement (.abortFlit port f) :=
  rfl
theorem Sys2Proof.Laws.Encoded.totalsFlit (port : Nat) (f : Flit) : Statement (.totalsFlit port f) :=
  rfl
theorem Sys2Proof.Laws.Encoded.lendFlit (port : Nat) (f : Flit) : Statement (.lendFlit port f) :=
  rfl
theorem Sys2Proof.Laws.Encoded.linkNak (port : Nat) (f : Flit) : Statement (.linkNak port f) :=
  rfl
theorem Sys2Proof.Laws.Encoded.flitForward (port : Nat) (f : Flit) : Statement (.flitForward port f) :=
  rfl
theorem Sys2Proof.Laws.Encoded.lendingRound (port : Nat) : Statement (.lendingRound port) :=
  rfl
theorem Sys2Proof.Laws.Encoded.lendResend (port : Nat) : Statement (.lendResend port) :=
  rfl
theorem Sys2Proof.Laws.Encoded.totalsSend (peer : Nat) (cls : Nat) : Statement (.totalsSend peer cls) :=
  rfl
theorem Sys2Proof.Laws.Encoded.requestTimeout (target : Nat) (idx : Nat) : Statement (.requestTimeout target idx) :=
  rfl
theorem Sys2Proof.Laws.Encoded.tagQuarantineEnd (target : Nat) (idx : Nat) : Statement (.tagQuarantineEnd target idx) :=
  rfl
theorem Sys2Proof.Laws.Encoded.staleDrop (port : Nat) : Statement (.staleDrop port) :=
  rfl
theorem Sys2Proof.Laws.Encoded.targetTick : Statement .targetTick :=
  rfl
theorem Sys2Proof.Laws.Encoded.collAccept (b : Nat) (wv : Nat) : Statement (.collAccept b wv) :=
  rfl
theorem Sys2Proof.Laws.Encoded.chunkStep : Statement .chunkStep :=
  rfl
theorem Sys2Proof.Laws.Encoded.priorityAgeing (id : Nat) : Statement (.priorityAgeing id) :=
  rfl
theorem Sys2Proof.Laws.Encoded.chunkLost (id : Nat) : Statement (.chunkLost id) :=
  rfl
theorem Sys2Proof.Laws.Encoded.uetMessage (src : Nat) (data : List (BitVec 8)) : Statement (.uetMessage src data) :=
  rfl
theorem Sys2Proof.Laws.Encoded.commFree (id : Nat) : Statement (.commFree id) :=
  rfl
theorem Sys2Proof.Laws.Encoded.hbmReadTransfer (pa : Nat) (x : Burst) : Statement (.hbmReadTransfer pa x) :=
  rfl
theorem Sys2Proof.Laws.Encoded.hbmWriteTransfer (pa : Nat) (x : Burst) : Statement (.hbmWriteTransfer pa x) :=
  rfl
theorem Sys2Proof.Laws.Encoded.throttleStep (die : Nat) (x : Reading) : Statement (.throttleStep die x) :=
  rfl
theorem Sys2Proof.Laws.Encoded.firmwareActivate (unit : Nat) : Statement (.firmwareActivate unit) :=
  rfl
theorem Sys2Proof.Laws.Encoded.reset : Statement .reset :=
  rfl
theorem Sys2Proof.Laws.Encoded.mchkEntryFree (core : Nat) (j : Nat) : Statement (.mchkEntryFree core j) :=
  rfl
theorem Sys2Proof.Laws.Encoded.logEntryFree (stack : Nat) (xfer : Bool) (j : Nat) : Statement (.logEntryFree stack xfer j) :=
  rfl
theorem Sys2Proof.Laws.Encoded.mread (tag : Nat) (off : Nat) (n : Nat) : Statement (.mread tag off n) :=
  rfl
theorem Sys2Proof.Laws.Encoded.mwrite (tag : Nat) (off : Nat) (ws : List (BitVec 32)) : Statement (.mwrite tag off ws) :=
  rfl
theorem Sys2Proof.Laws.Encoded.ctxwrite (tag : Nat) (cx : Nat) (desc : List (BitVec 32)) : Statement (.ctxwrite tag cx desc) :=
  rfl
theorem Sys2Proof.Laws.Encoded.preempt (tag : Nat) (cx : Nat) : Statement (.preempt tag cx) :=
  rfl
theorem Sys2Proof.Laws.Encoded.preemptCut (tag : Nat) (cx : Nat) (q : Nat) (sq : BitVec 32) : Statement (.preemptCut tag cx q sq) :=
  rfl
theorem Sys2Proof.Laws.Encoded.unpreempt (tag : Nat) (cx : Nat) : Statement (.unpreempt tag cx) :=
  rfl
theorem Sys2Proof.Laws.Encoded.resetctx (tag : Nat) (cx : Nat) : Statement (.resetctx tag cx) :=
  rfl
theorem Sys2Proof.Laws.Encoded.invalidate (tag : Nat) (cx : Nat) (base : BitVec 64) (len : BitVec 64) : Statement (.invalidate tag cx base len) :=
  rfl
theorem Sys2Proof.Laws.Encoded.commcreate (tag : Nat) (cx : Nat) (rec : BitVec 64) : Statement (.commcreate tag cx rec) :=
  rfl
theorem Sys2Proof.Laws.Encoded.commretire (tag : Nat) (id : Nat) : Statement (.commretire tag id) :=
  rfl
theorem Sys2Proof.Laws.Encoded.recarea (tag : Nat) (cx : Nat) (addr : BitVec 64) (slots : Nat) : Statement (.recarea tag cx addr slots) :=
  rfl
theorem Sys2Proof.Laws.Encoded.uetpeer (tag : Nat) (idx : Nat) (entry : List (BitVec 32)) : Statement (.uetpeer tag idx entry) :=
  rfl
theorem Sys2Proof.Laws.Encoded.keyset (tag : Nat) (cx : Nat) (slot : Nat) (key : BitVec 128) : Statement (.keyset tag cx slot key) :=
  rfl
theorem Sys2Proof.Laws.Encoded.keyempty (tag : Nat) (cx : Nat) (slot : Nat) : Statement (.keyempty tag cx slot) :=
  rfl
theorem Sys2Proof.Laws.Encoded.mint (tag : Nat) (dev : Nat) (cx : Nat) (rights : Nat) (win : Nat) (ext : Nat) (sub : Nat) (life : Nat) : Statement (.mint tag dev cx rights win ext sub life) :=
  rfl
theorem Sys2Proof.Laws.Encoded.window (tag : Nat) (idx : Nat) (entry : BitVec 64) : Statement (.window tag idx entry) :=
  rfl
theorem Sys2Proof.Laws.Encoded.fenceCommand (tag : Nat) (kind : Nat) (part : Nat) : Statement (.fenceCommand tag kind part) :=
  rfl
theorem Sys2Proof.Laws.Encoded.unfence (tag : Nat) (kind : Nat) (part : Nat) : Statement (.unfence tag kind part) :=
  rfl
theorem Sys2Proof.Laws.Encoded.route (tag : Nat) (dst : Nat) (entry : BitVec 128) : Statement (.route tag dst entry) :=
  rfl
theorem Sys2Proof.Laws.Encoded.fwupdate (tag : Nat) (addr : BitVec 64) (len : Nat) : Statement (.fwupdate tag addr len) :=
  rfl
theorem Sys2Proof.Laws.Encoded.attest (tag : Nat) (nonce : List (BitVec 8)) : Statement (.attest tag nonce) :=
  rfl
theorem Sys2Proof.Laws.Encoded.clock (tag : Nat) (die : Nat) (mhz : Nat) : Statement (.clock tag die mhz) :=
  rfl
theorem Sys2Proof.Laws.Encoded.freeze (tag : Nat) : Statement (.freeze tag) :=
  rfl
theorem Sys2Proof.Laws.Encoded.repairclr (tag : Nat) (idx : Nat) : Statement (.repairclr tag idx) :=
  rfl
theorem Sys2Proof.Laws.Encoded.undefinedOpcode (w : BitVec 32) : Statement (.undefinedOpcode w) :=
  rfl
theorem Sys2Proof.Laws.Encoded.crcFailure (port : Nat) (f : Flit) : Statement (.crcFailure port f) :=
  rfl
theorem Sys2Proof.Laws.Encoded.linkDown (kind : Nat) (num : Nat) : Statement (.linkDown kind num) :=
  rfl
theorem Sys2Proof.Laws.Encoded.unlistedCommandCode (code : Nat) (tag : Nat) : Statement (.unlistedCommandCode code tag) :=
  rfl
theorem Sys2Proof.Laws.Encoded.uetRetransmission (peer : Nat) : Statement (.uetRetransmission peer) :=
  rfl
theorem Sys2Proof.Laws.Encoded.uetAcknowledgement (peer : Nat) : Statement (.uetAcknowledgement peer) :=
  rfl
end

