-- ==== Sys2Proof/Laws/Waves.lean ====
section
/-! SUPPORT. Finding a block, a wave or a core after an update, and what the shared ends of a word do: retiring
(R8, R13), taking a trap (R330), holding the slot (R8). -/

namespace Sys2Proof.Machine

open Sys2Proof

/-! ### Lists -/

theorem find?_updFirst_same {α : Type} (p : α → Bool) (f : α → α) (hp : ∀ x, p x = true → p (f x) = true) :
    ∀ l : List α, (updFirst p f l).find? p = (l.find? p).map f
  | [] => rfl
  | x :: xs => by
    by_cases h : p x = true
    · simp [updFirst, h, hp x h]
    · simp [updFirst, h, find?_updFirst_same p f hp xs]

theorem find?_updFirst_other {α : Type} (p q : α → Bool) (f : α → α) (hpq : ∀ x, p x = true → q x = false)
    (hf : ∀ x, p x = true → q (f x) = false) : ∀ l : List α, (updFirst p f l).find? q = l.find? q
  | [] => rfl
  | x :: xs => by
    by_cases h : p x = true
    · simp [updFirst, h, hpq x h, hf x h]
    · by_cases hq : q x = true
      · simp [updFirst, h, hq]
      · simp [updFirst, h, hq, find?_updFirst_other p q f hpq hf xs]

/-! ### Blocks and waves -/

/-- The block just changed, by a change that keeps its name. -/
theorem block?_updBlock_same (s : State) (u : Nat) (f : Block → Block) (hf : ∀ b, (f b).uid = b.uid) :
    (s.updBlock u f).block? u = (s.block? u).map f := by
  unfold State.block? State.updBlock
  exact find?_updFirst_same _ f (by intro b h; simpa [hf b] using h) _

/-- Every other block. -/
theorem block?_updBlock_other (s : State) {u u' : Nat} (f : Block → Block) (hf : ∀ b, (f b).uid = b.uid)
    (h : u' ≠ u) : (s.updBlock u f).block? u' = s.block? u' := by
  unfold State.block? State.updBlock
  refine find?_updFirst_other _ _ f ?_ ?_ _
  · intro b hb
    have : b.uid = u := by simpa using hb
    simp [this, Ne.symm h]
  · intro b hb
    have : b.uid = u := by simpa using hb
    simp [hf, this, Ne.symm h]

theorem wave?_updWave_same (b : Block) (i : Nat) (f : Wave → Wave) (hf : ∀ w, w.idx = i → (f w).idx = i) :
    (b.updWave i f).wave? i = (b.wave? i).map f := by
  unfold Block.wave? Block.updWave
  exact find?_updFirst_same _ f (by intro w h; simpa using hf w (by simpa using h)) _

theorem wave?_updWave_other (b : Block) {i j : Nat} (f : Wave → Wave) (hf : ∀ w, w.idx = i → (f w).idx = i)
    (h : j ≠ i) : (b.updWave i f).wave? j = b.wave? j := by
  unfold Block.wave? Block.updWave
  refine find?_updFirst_other _ _ f ?_ ?_ _
  · intro w hw
    have : w.idx = i := by simpa using hw
    simp [this, Ne.symm h]
  · intro w hw
    have := hf w (by simpa using hw)
    simp [this, Ne.symm h]

theorem State.checkpoint_block? (s : State) (k u i : Nat) (a f : Bool) (u' : Nat) :
    (s.checkpoint k u i a f).block? u' = s.block? u' := rfl
theorem noteWord_block? (s : State) (c : Cur) (u : Nat) : (noteWord s c).block? u = s.block? u := rfl
theorem State.tick_block? (s : State) (u : Nat) : s.tick.block? u = s.block? u := rfl
theorem State.issues_block? (s : State) (l : List Issue) (u : Nat) :
    ({ s with issues := l } : State).block? u = s.block? u := rfl
theorem State.block?_uid {s : State} {u : Nat} {b : Block} (h : s.block? u = some b) : b.uid = u := by
  have := List.find?_some h
  simpa using this
theorem Block.wave?_idx {b : Block} {i : Nat} {w : Wave} (h : b.wave? i = some w) : w.idx = i := by
  have := List.find?_some h
  simpa using this

/-! ### The word that issues -/

/-- What the state holds when a clause's word is at hand. -/
theorem cur?_spec {s : State} {c : Cur} (h : s.cur? = some c) :
    (∃ t, s.issues = c.iss :: t) ∧ s.block? c.iss.block = some c.blk ∧ c.blk.wave? c.iss.wave = some c.wv ∧
      c.wv.part? c.iss.part = some c.pt ∧ c.blk.uid = c.iss.block ∧ c.wv.idx = c.iss.wave := by
  unfold State.cur? at h
  split at h
  · simp at h
  next i t hi =>
    split at h
    · simp at h
    next b hb =>
      split at h
      · simp at h
      next w hw =>
        split at h
        · simp at h
        next p hp =>
          obtain rfl := Option.some.inj h
          exact ⟨⟨t, hi⟩, hb, hw, hp, State.block?_uid hb, Block.wave?_idx hw⟩

end Sys2Proof.Machine
end

