-- ==== Sys2Proof/Laws/Retire.lean ====
section
/-! SUPPORT. What retiring a word does (R8, R13, R15): the one lemma a proof about a clause word cites. -/

namespace Sys2Proof.Machine

open Sys2Proof

/-- The wave whose part has moved to the next clause. -/
def nextClause (c : Cur) (w : Wave) : Wave :=
  match w.part? c.iss.part with
  | some p => w.setPart c.iss.part (some { p with pc := c.nextPc, word := 0 })
  | none => w

/-- The wave of a clause that ends: its YIELD bit marks the slots that pass it over (R11). -/
def clauseYield (c : Cur) (w : Wave) : Wave :=
  let slots : BitVec 2 := if c.iss.mix then 3 else if c.iss.slot1 then 2 else 1
  if c.iss.header.getLsbD 18 then { w with yielded := slots } else w

/-- The wave of a clause that has ended. -/
def endedWave (c : Cur) (w : Wave) : Wave := countSkid c.blk (clauseYield c w)

/-- The wave as it stands after a word retires. -/
def retiredWave (s : State) (c : Cur) (d : Done) : Wave :=
  let w := d.wave.addPend d.writes (s.now + d.lat)
  if (c.iss.advance d).k > headerN c.iss.header then
    countSkid c.blk (clauseYield c (nextClause c w))
  else countSkid c.blk w

theorem advance_part (i : Issue) (d : Done) : (i.advance d).part = i.part := by
  unfold Issue.advance; split <;> simp [*]
theorem advance_header (i : Issue) (d : Done) : (i.advance d).header = i.header := by
  unfold Issue.advance; split <;> simp [*]
theorem advance_k (i : Issue) (d : Done) : (i.advance d).k = i.k + d.words := by
  unfold Issue.advance; split <;> simp [*]

@[simp] theorem countSkid_idx (b : Block) (w : Wave) : (countSkid b w).idx = w.idx := by
  unfold countSkid; repeat' split
  all_goals rfl
@[simp] theorem Wave.addPend_idx (w : Wave) (r : Regs) (n : Nat) : (w.addPend r n).idx = w.idx := by
  unfold Wave.addPend; split <;> rfl
@[simp] theorem Wave.setPart_idx (w : Wave) (k : Nat) (p : Option Part) : (w.setPart k p).idx = w.idx := by
  unfold Wave.setPart; repeat' split
  all_goals rfl
@[simp] theorem nextClause_idx (c : Cur) (w : Wave) : (nextClause c w).idx = w.idx := by
  unfold nextClause; split <;> simp
@[simp] theorem clauseYield_idx (c : Cur) (w : Wave) : (clauseYield c w).idx = w.idx := by
  unfold clauseYield; dsimp only; split <;> rfl
@[simp] theorem endedWave_idx (c : Cur) (w : Wave) : (endedWave c w).idx = w.idx := by simp [endedWave]
@[simp] theorem retiredWave_idx (s : State) (c : Cur) (d : Done) : (retiredWave s c d).idx = d.wave.idx := by
  unfold retiredWave; dsimp only; split <;> simp
@[simp] theorem countSkid_exitedLanes (b : Block) (w : Wave) : (countSkid b w).exitedLanes = w.exitedLanes := by
  unfold countSkid; repeat' split
  all_goals rfl
@[simp] theorem Wave.addPend_exitedLanes (w : Wave) (r : Regs) (n : Nat) : (w.addPend r n).exitedLanes = w.exitedLanes := by
  unfold Wave.addPend; split <;> rfl
@[simp] theorem Wave.setPart_exitedLanes (w : Wave) (k : Nat) (p : Option Part) : (w.setPart k p).exitedLanes = w.exitedLanes := by
  unfold Wave.setPart; repeat' split
  all_goals rfl
@[simp] theorem nextClause_exitedLanes (c : Cur) (w : Wave) : (nextClause c w).exitedLanes = w.exitedLanes := by
  unfold nextClause; split <;> simp
@[simp] theorem clauseYield_exitedLanes (c : Cur) (w : Wave) : (clauseYield c w).exitedLanes = w.exitedLanes := by
  unfold clauseYield; dsimp only; split <;> rfl
@[simp] theorem endedWave_exitedLanes (c : Cur) (w : Wave) : (endedWave c w).exitedLanes = w.exitedLanes := by simp [endedWave]
@[simp] theorem retiredWave_exitedLanes (s : State) (c : Cur) (d : Done) : (retiredWave s c d).exitedLanes = d.wave.exitedLanes := by
  unfold retiredWave; dsimp only; split <;> simp
@[simp] theorem countSkid_dead (b : Block) (w : Wave) : (countSkid b w).dead = w.dead := by
  unfold countSkid; repeat' split
  all_goals rfl
@[simp] theorem Wave.addPend_dead (w : Wave) (r : Regs) (n : Nat) : (w.addPend r n).dead = w.dead := by
  unfold Wave.addPend; split <;> rfl
@[simp] theorem Wave.setPart_dead (w : Wave) (k : Nat) (p : Option Part) : (w.setPart k p).dead = w.dead := by
  unfold Wave.setPart; repeat' split
  all_goals rfl
@[simp] theorem nextClause_dead (c : Cur) (w : Wave) : (nextClause c w).dead = w.dead := by
  unfold nextClause; split <;> simp
@[simp] theorem clauseYield_dead (c : Cur) (w : Wave) : (clauseYield c w).dead = w.dead := by
  unfold clauseYield; dsimp only; split <;> rfl
@[simp] theorem endedWave_dead (c : Cur) (w : Wave) : (endedWave c w).dead = w.dead := by simp [endedWave]
@[simp] theorem retiredWave_dead (s : State) (c : Cur) (d : Done) : (retiredWave s c d).dead = d.wave.dead := by
  unfold retiredWave; dsimp only; split <;> simp
@[simp] theorem countSkid_starve (b : Block) (w : Wave) : (countSkid b w).starve = w.starve := by
  unfold countSkid; repeat' split
  all_goals rfl
@[simp] theorem Wave.addPend_starve (w : Wave) (r : Regs) (n : Nat) : (w.addPend r n).starve = w.starve := by
  unfold Wave.addPend; split <;> rfl
@[simp] theorem Wave.setPart_starve (w : Wave) (k : Nat) (p : Option Part) : (w.setPart k p).starve = w.starve := by
  unfold Wave.setPart; repeat' split
  all_goals rfl
@[simp] theorem nextClause_starve (c : Cur) (w : Wave) : (nextClause c w).starve = w.starve := by
  unfold nextClause; split <;> simp
@[simp] theorem clauseYield_starve (c : Cur) (w : Wave) : (clauseYield c w).starve = w.starve := by
  unfold clauseYield; dsimp only; split <;> rfl
@[simp] theorem endedWave_starve (c : Cur) (w : Wave) : (endedWave c w).starve = w.starve := by simp [endedWave]
@[simp] theorem retiredWave_starve (s : State) (c : Cur) (d : Done) : (retiredWave s c d).starve = d.wave.starve := by
  unfold retiredWave; dsimp only; split <;> simp
@[simp] theorem countSkid_step (b : Block) (w : Wave) : (countSkid b w).step = w.step := by
  unfold countSkid; repeat' split
  all_goals rfl
@[simp] theorem Wave.addPend_step (w : Wave) (r : Regs) (n : Nat) : (w.addPend r n).step = w.step := by
  unfold Wave.addPend; split <;> rfl
@[simp] theorem Wave.setPart_step (w : Wave) (k : Nat) (p : Option Part) : (w.setPart k p).step = w.step := by
  unfold Wave.setPart; repeat' split
  all_goals rfl
@[simp] theorem nextClause_step (c : Cur) (w : Wave) : (nextClause c w).step = w.step := by
  unfold nextClause; split <;> simp
@[simp] theorem clauseYield_step (c : Cur) (w : Wave) : (clauseYield c w).step = w.step := by
  unfold clauseYield; dsimp only; split <;> rfl
@[simp] theorem endedWave_step (c : Cur) (w : Wave) : (endedWave c w).step = w.step := by simp [endedWave]
@[simp] theorem retiredWave_step (s : State) (c : Cur) (d : Done) : (retiredWave s c d).step = d.wave.step := by
  unfold retiredWave; dsimp only; split <;> simp
@[simp] theorem countSkid_lastSeq (b : Block) (w : Wave) : (countSkid b w).lastSeq = w.lastSeq := by
  unfold countSkid; repeat' split
  all_goals rfl
@[simp] theorem Wave.addPend_lastSeq (w : Wave) (r : Regs) (n : Nat) : (w.addPend r n).lastSeq = w.lastSeq := by
  unfold Wave.addPend; split <;> rfl
@[simp] theorem Wave.setPart_lastSeq (w : Wave) (k : Nat) (p : Option Part) : (w.setPart k p).lastSeq = w.lastSeq := by
  unfold Wave.setPart; repeat' split
  all_goals rfl
@[simp] theorem nextClause_lastSeq (c : Cur) (w : Wave) : (nextClause c w).lastSeq = w.lastSeq := by
  unfold nextClause; split <;> simp
@[simp] theorem clauseYield_lastSeq (c : Cur) (w : Wave) : (clauseYield c w).lastSeq = w.lastSeq := by
  unfold clauseYield; dsimp only; split <;> rfl
@[simp] theorem endedWave_lastSeq (c : Cur) (w : Wave) : (endedWave c w).lastSeq = w.lastSeq := by simp [endedWave]
@[simp] theorem retiredWave_lastSeq (s : State) (c : Cur) (d : Done) : (retiredWave s c d).lastSeq = d.wave.lastSeq := by
  unfold retiredWave; dsimp only; split <;> simp
@[simp] theorem countSkid_cycleHi (b : Block) (w : Wave) : (countSkid b w).cycleHi = w.cycleHi := by
  unfold countSkid; repeat' split
  all_goals rfl
@[simp] theorem Wave.addPend_cycleHi (w : Wave) (r : Regs) (n : Nat) : (w.addPend r n).cycleHi = w.cycleHi := by
  unfold Wave.addPend; split <;> rfl
@[simp] theorem Wave.setPart_cycleHi (w : Wave) (k : Nat) (p : Option Part) : (w.setPart k p).cycleHi = w.cycleHi := by
  unfold Wave.setPart; repeat' split
  all_goals rfl
@[simp] theorem nextClause_cycleHi (c : Cur) (w : Wave) : (nextClause c w).cycleHi = w.cycleHi := by
  unfold nextClause; split <;> simp
@[simp] theorem clauseYield_cycleHi (c : Cur) (w : Wave) : (clauseYield c w).cycleHi = w.cycleHi := by
  unfold clauseYield; dsimp only; split <;> rfl
@[simp] theorem endedWave_cycleHi (c : Cur) (w : Wave) : (endedWave c w).cycleHi = w.cycleHi := by simp [endedWave]
@[simp] theorem retiredWave_cycleHi (s : State) (c : Cur) (d : Done) : (retiredWave s c d).cycleHi = d.wave.cycleHi := by
  unfold retiredWave; dsimp only; split <;> simp
@[simp] theorem countSkid_loads (b : Block) (w : Wave) : (countSkid b w).loads = w.loads := by
  unfold countSkid; repeat' split
  all_goals rfl
@[simp] theorem Wave.addPend_loads (w : Wave) (r : Regs) (n : Nat) : (w.addPend r n).loads = w.loads := by
  unfold Wave.addPend; split <;> rfl
@[simp] theorem Wave.setPart_loads (w : Wave) (k : Nat) (p : Option Part) : (w.setPart k p).loads = w.loads := by
  unfold Wave.setPart; repeat' split
  all_goals rfl
@[simp] theorem nextClause_loads (c : Cur) (w : Wave) : (nextClause c w).loads = w.loads := by
  unfold nextClause; split <;> simp
@[simp] theorem clauseYield_loads (c : Cur) (w : Wave) : (clauseYield c w).loads = w.loads := by
  unfold clauseYield; dsimp only; split <;> rfl
@[simp] theorem endedWave_loads (c : Cur) (w : Wave) : (endedWave c w).loads = w.loads := by simp [endedWave]
@[simp] theorem retiredWave_loads (s : State) (c : Cur) (d : Done) : (retiredWave s c d).loads = d.wave.loads := by
  unfold retiredWave; dsimp only; split <;> simp
@[simp] theorem countSkid_sq (b : Block) (w : Wave) : (countSkid b w).sq = w.sq := by
  unfold countSkid; repeat' split
  all_goals rfl
@[simp] theorem Wave.addPend_sq (w : Wave) (r : Regs) (n : Nat) : (w.addPend r n).sq = w.sq := by
  unfold Wave.addPend; split <;> rfl
@[simp] theorem Wave.setPart_sq (w : Wave) (k : Nat) (p : Option Part) : (w.setPart k p).sq = w.sq := by
  unfold Wave.setPart; repeat' split
  all_goals rfl
@[simp] theorem nextClause_sq (c : Cur) (w : Wave) : (nextClause c w).sq = w.sq := by
  unfold nextClause; split <;> simp
@[simp] theorem clauseYield_sq (c : Cur) (w : Wave) : (clauseYield c w).sq = w.sq := by
  unfold clauseYield; dsimp only; split <;> rfl
@[simp] theorem endedWave_sq (c : Cur) (w : Wave) : (endedWave c w).sq = w.sq := by simp [endedWave]
@[simp] theorem retiredWave_sq (s : State) (c : Cur) (d : Done) : (retiredWave s c d).sq = d.wave.sq := by
  unfold retiredWave; dsimp only; split <;> simp
@[simp] theorem countSkid_atoms (b : Block) (w : Wave) : (countSkid b w).atoms = w.atoms := by
  unfold countSkid; repeat' split
  all_goals rfl
@[simp] theorem Wave.addPend_atoms (w : Wave) (r : Regs) (n : Nat) : (w.addPend r n).atoms = w.atoms := by
  unfold Wave.addPend; split <;> rfl
@[simp] theorem Wave.setPart_atoms (w : Wave) (k : Nat) (p : Option Part) : (w.setPart k p).atoms = w.atoms := by
  unfold Wave.setPart; repeat' split
  all_goals rfl
@[simp] theorem nextClause_atoms (c : Cur) (w : Wave) : (nextClause c w).atoms = w.atoms := by
  unfold nextClause; split <;> simp
@[simp] theorem clauseYield_atoms (c : Cur) (w : Wave) : (clauseYield c w).atoms = w.atoms := by
  unfold clauseYield; dsimp only; split <;> rfl
@[simp] theorem endedWave_atoms (c : Cur) (w : Wave) : (endedWave c w).atoms = w.atoms := by simp [endedWave]
@[simp] theorem retiredWave_atoms (s : State) (c : Cur) (d : Done) : (retiredWave s c d).atoms = d.wave.atoms := by
  unfold retiredWave; dsimp only; split <;> simp
@[simp] theorem countSkid_acks (b : Block) (w : Wave) : (countSkid b w).acks = w.acks := by
  unfold countSkid; repeat' split
  all_goals rfl
@[simp] theorem Wave.addPend_acks (w : Wave) (r : Regs) (n : Nat) : (w.addPend r n).acks = w.acks := by
  unfold Wave.addPend; split <;> rfl
@[simp] theorem Wave.setPart_acks (w : Wave) (k : Nat) (p : Option Part) : (w.setPart k p).acks = w.acks := by
  unfold Wave.setPart; repeat' split
  all_goals rfl
@[simp] theorem nextClause_acks (c : Cur) (w : Wave) : (nextClause c w).acks = w.acks := by
  unfold nextClause; split <;> simp
@[simp] theorem clauseYield_acks (c : Cur) (w : Wave) : (clauseYield c w).acks = w.acks := by
  unfold clauseYield; dsimp only; split <;> rfl
@[simp] theorem endedWave_acks (c : Cur) (w : Wave) : (endedWave c w).acks = w.acks := by simp [endedWave]
@[simp] theorem retiredWave_acks (s : State) (c : Cur) (d : Done) : (retiredWave s c d).acks = d.wave.acks := by
  unfold retiredWave; dsimp only; split <;> simp
@[simp] theorem countSkid_rays (b : Block) (w : Wave) : (countSkid b w).rays = w.rays := by
  unfold countSkid; repeat' split
  all_goals rfl
@[simp] theorem Wave.addPend_rays (w : Wave) (r : Regs) (n : Nat) : (w.addPend r n).rays = w.rays := by
  unfold Wave.addPend; split <;> rfl
@[simp] theorem Wave.setPart_rays (w : Wave) (k : Nat) (p : Option Part) : (w.setPart k p).rays = w.rays := by
  unfold Wave.setPart; repeat' split
  all_goals rfl
@[simp] theorem nextClause_rays (c : Cur) (w : Wave) : (nextClause c w).rays = w.rays := by
  unfold nextClause; split <;> simp
@[simp] theorem clauseYield_rays (c : Cur) (w : Wave) : (clauseYield c w).rays = w.rays := by
  unfold clauseYield; dsimp only; split <;> rfl
@[simp] theorem endedWave_rays (c : Cur) (w : Wave) : (endedWave c w).rays = w.rays := by simp [endedWave]
@[simp] theorem retiredWave_rays (s : State) (c : Cur) (d : Done) : (retiredWave s c d).rays = d.wave.rays := by
  unfold retiredWave; dsimp only; split <;> simp
@[simp] theorem countSkid_colls (b : Block) (w : Wave) : (countSkid b w).colls = w.colls := by
  unfold countSkid; repeat' split
  all_goals rfl
@[simp] theorem Wave.addPend_colls (w : Wave) (r : Regs) (n : Nat) : (w.addPend r n).colls = w.colls := by
  unfold Wave.addPend; split <;> rfl
@[simp] theorem Wave.setPart_colls (w : Wave) (k : Nat) (p : Option Part) : (w.setPart k p).colls = w.colls := by
  unfold Wave.setPart; repeat' split
  all_goals rfl
@[simp] theorem nextClause_colls (c : Cur) (w : Wave) : (nextClause c w).colls = w.colls := by
  unfold nextClause; split <;> simp
@[simp] theorem clauseYield_colls (c : Cur) (w : Wave) : (clauseYield c w).colls = w.colls := by
  unfold clauseYield; dsimp only; split <;> rfl
@[simp] theorem endedWave_colls (c : Cur) (w : Wave) : (endedWave c w).colls = w.colls := by simp [endedWave]
@[simp] theorem retiredWave_colls (s : State) (c : Cur) (d : Done) : (retiredWave s c d).colls = d.wave.colls := by
  unfold retiredWave; dsimp only; split <;> simp
@[simp] theorem countSkid_run (b : Block) (w : Wave) : (countSkid b w).run = w.run := by
  unfold countSkid; repeat' split
  all_goals rfl
@[simp] theorem Wave.addPend_run (w : Wave) (r : Regs) (n : Nat) : (w.addPend r n).run = w.run := by
  unfold Wave.addPend; split <;> rfl
@[simp] theorem Wave.setPart_run (w : Wave) (k : Nat) (p : Option Part) : (w.setPart k p).run = w.run := by
  unfold Wave.setPart; repeat' split
  all_goals rfl
@[simp] theorem nextClause_run (c : Cur) (w : Wave) : (nextClause c w).run = w.run := by
  unfold nextClause; split <;> simp
@[simp] theorem clauseYield_run (c : Cur) (w : Wave) : (clauseYield c w).run = w.run := by
  unfold clauseYield; dsimp only; split <;> rfl
@[simp] theorem endedWave_run (c : Cur) (w : Wave) : (endedWave c w).run = w.run := by simp [endedWave]
@[simp] theorem retiredWave_run (s : State) (c : Cur) (d : Done) : (retiredWave s c d).run = d.wave.run := by
  unfold retiredWave; dsimp only; split <;> simp
@[simp] theorem countSkid_args (b : Block) (w : Wave) : (countSkid b w).args = w.args := by
  unfold countSkid; repeat' split
  all_goals rfl
@[simp] theorem Wave.addPend_args (w : Wave) (r : Regs) (n : Nat) : (w.addPend r n).args = w.args := by
  unfold Wave.addPend; split <;> rfl
@[simp] theorem Wave.setPart_args (w : Wave) (k : Nat) (p : Option Part) : (w.setPart k p).args = w.args := by
  unfold Wave.setPart; repeat' split
  all_goals rfl
@[simp] theorem nextClause_args (c : Cur) (w : Wave) : (nextClause c w).args = w.args := by
  unfold nextClause; split <;> simp
@[simp] theorem clauseYield_args (c : Cur) (w : Wave) : (clauseYield c w).args = w.args := by
  unfold clauseYield; dsimp only; split <;> rfl
@[simp] theorem endedWave_args (c : Cur) (w : Wave) : (endedWave c w).args = w.args := by simp [endedWave]
@[simp] theorem retiredWave_args (s : State) (c : Cur) (d : Done) : (retiredWave s c d).args = d.wave.args := by
  unfold retiredWave; dsimp only; split <;> simp
@[simp] theorem countSkid_service (b : Block) (w : Wave) : (countSkid b w).service = w.service := by
  unfold countSkid; repeat' split
  all_goals rfl
@[simp] theorem Wave.addPend_service (w : Wave) (r : Regs) (n : Nat) : (w.addPend r n).service = w.service := by
  unfold Wave.addPend; split <;> rfl
@[simp] theorem Wave.setPart_service (w : Wave) (k : Nat) (p : Option Part) : (w.setPart k p).service = w.service := by
  unfold Wave.setPart; repeat' split
  all_goals rfl
@[simp] theorem nextClause_service (c : Cur) (w : Wave) : (nextClause c w).service = w.service := by
  unfold nextClause; split <;> simp
@[simp] theorem clauseYield_service (c : Cur) (w : Wave) : (clauseYield c w).service = w.service := by
  unfold clauseYield; dsimp only; split <;> rfl
@[simp] theorem endedWave_service (c : Cur) (w : Wave) : (endedWave c w).service = w.service := by simp [endedWave]
@[simp] theorem retiredWave_service (s : State) (c : Cur) (d : Done) : (retiredWave s c d).service = d.wave.service := by
  unfold retiredWave; dsimp only; split <;> simp
@[simp] theorem countSkid_v (b : Block) (w : Wave) : (countSkid b w).v = w.v := by
  unfold countSkid; repeat' split
  all_goals rfl
@[simp] theorem Wave.addPend_v (w : Wave) (r : Regs) (n : Nat) : (w.addPend r n).v = w.v := by
  unfold Wave.addPend; split <;> rfl
@[simp] theorem Wave.setPart_v (w : Wave) (k : Nat) (p : Option Part) : (w.setPart k p).v = w.v := by
  unfold Wave.setPart; repeat' split
  all_goals rfl
@[simp] theorem nextClause_v (c : Cur) (w : Wave) : (nextClause c w).v = w.v := by
  unfold nextClause; split <;> simp
@[simp] theorem clauseYield_v (c : Cur) (w : Wave) : (clauseYield c w).v = w.v := by
  unfold clauseYield; dsimp only; split <;> rfl
@[simp] theorem endedWave_v (c : Cur) (w : Wave) : (endedWave c w).v = w.v := by simp [endedWave]
@[simp] theorem retiredWave_v (s : State) (c : Cur) (d : Done) : (retiredWave s c d).v = d.wave.v := by
  unfold retiredWave; dsimp only; split <;> simp
@[simp] theorem countSkid_s (b : Block) (w : Wave) : (countSkid b w).s = w.s := by
  unfold countSkid; repeat' split
  all_goals rfl
@[simp] theorem Wave.addPend_s (w : Wave) (r : Regs) (n : Nat) : (w.addPend r n).s = w.s := by
  unfold Wave.addPend; split <;> rfl
@[simp] theorem Wave.setPart_s (w : Wave) (k : Nat) (p : Option Part) : (w.setPart k p).s = w.s := by
  unfold Wave.setPart; repeat' split
  all_goals rfl
@[simp] theorem nextClause_s (c : Cur) (w : Wave) : (nextClause c w).s = w.s := by
  unfold nextClause; split <;> simp
@[simp] theorem clauseYield_s (c : Cur) (w : Wave) : (clauseYield c w).s = w.s := by
  unfold clauseYield; dsimp only; split <;> rfl
@[simp] theorem endedWave_s (c : Cur) (w : Wave) : (endedWave c w).s = w.s := by simp [endedWave]
@[simp] theorem retiredWave_s (s : State) (c : Cur) (d : Done) : (retiredWave s c d).s = d.wave.s := by
  unfold retiredWave; dsimp only; split <;> simp
@[simp] theorem countSkid_p (b : Block) (w : Wave) : (countSkid b w).p = w.p := by
  unfold countSkid; repeat' split
  all_goals rfl
@[simp] theorem Wave.addPend_p (w : Wave) (r : Regs) (n : Nat) : (w.addPend r n).p = w.p := by
  unfold Wave.addPend; split <;> rfl
@[simp] theorem Wave.setPart_p (w : Wave) (k : Nat) (p : Option Part) : (w.setPart k p).p = w.p := by
  unfold Wave.setPart; repeat' split
  all_goals rfl
@[simp] theorem nextClause_p (c : Cur) (w : Wave) : (nextClause c w).p = w.p := by
  unfold nextClause; split <;> simp
@[simp] theorem clauseYield_p (c : Cur) (w : Wave) : (clauseYield c w).p = w.p := by
  unfold clauseYield; dsimp only; split <;> rfl
@[simp] theorem endedWave_p (c : Cur) (w : Wave) : (endedWave c w).p = w.p := by simp [endedWave]
@[simp] theorem retiredWave_p (s : State) (c : Cur) (d : Done) : (retiredWave s c d).p = d.wave.p := by
  unfold retiredWave; dsimp only; split <;> simp
@[simp] theorem countSkid_t (b : Block) (w : Wave) : (countSkid b w).t = w.t := by
  unfold countSkid; repeat' split
  all_goals rfl
@[simp] theorem Wave.addPend_t (w : Wave) (r : Regs) (n : Nat) : (w.addPend r n).t = w.t := by
  unfold Wave.addPend; split <;> rfl
@[simp] theorem Wave.setPart_t (w : Wave) (k : Nat) (p : Option Part) : (w.setPart k p).t = w.t := by
  unfold Wave.setPart; repeat' split
  all_goals rfl
@[simp] theorem nextClause_t (c : Cur) (w : Wave) : (nextClause c w).t = w.t := by
  unfold nextClause; split <;> simp
@[simp] theorem clauseYield_t (c : Cur) (w : Wave) : (clauseYield c w).t = w.t := by
  unfold clauseYield; dsimp only; split <;> rfl
@[simp] theorem endedWave_t (c : Cur) (w : Wave) : (endedWave c w).t = w.t := by simp [endedWave]
@[simp] theorem retiredWave_t (s : State) (c : Cur) (d : Done) : (retiredWave s c d).t = d.wave.t := by
  unfold retiredWave; dsimp only; split <;> simp
@[simp] theorem countSkid_flags (b : Block) (w : Wave) : (countSkid b w).flags = w.flags := by
  unfold countSkid; repeat' split
  all_goals rfl
@[simp] theorem Wave.addPend_flags (w : Wave) (r : Regs) (n : Nat) : (w.addPend r n).flags = w.flags := by
  unfold Wave.addPend; split <;> rfl
@[simp] theorem Wave.setPart_flags (w : Wave) (k : Nat) (p : Option Part) : (w.setPart k p).flags = w.flags := by
  unfold Wave.setPart; repeat' split
  all_goals rfl
@[simp] theorem nextClause_flags (c : Cur) (w : Wave) : (nextClause c w).flags = w.flags := by
  unfold nextClause; split <;> simp
@[simp] theorem clauseYield_flags (c : Cur) (w : Wave) : (clauseYield c w).flags = w.flags := by
  unfold clauseYield; dsimp only; split <;> rfl
@[simp] theorem endedWave_flags (c : Cur) (w : Wave) : (endedWave c w).flags = w.flags := by simp [endedWave]
@[simp] theorem retiredWave_flags (s : State) (c : Cur) (d : Done) : (retiredWave s c d).flags = d.wave.flags := by
  unfold retiredWave; dsimp only; split <;> simp
theorem endClause_agenda (s : State) (c : Cur) (w : Wave) : (endClause s c w).agenda = s.agenda := by simp [endClause]
theorem retire_agenda (s : State) (c : Cur) (d : Done) : (retire s c d).agenda = s.agenda := by
  unfold retire; dsimp only; split <;> simp [endClause_agenda]
theorem takeTrapAt_agenda (s : State) (c : Cur) (t : TrapInfo) (g : Part → Part) : (takeTrapAt s c t g).agenda = s.agenda := by simp [takeTrapAt]
theorem takeTrap_agenda (s : State) (c : Cur) (t : TrapInfo) : (takeTrap s c t).agenda = s.agenda := takeTrapAt_agenda s c t _
theorem holdSlot_agenda (s : State) : (holdSlot s).agenda = s.agenda := by
  unfold holdSlot; split <;> simp
theorem endClause_free (s : State) (c : Cur) (w : Wave) : (endClause s c w).free = s.free := by simp [endClause]
theorem retire_free (s : State) (c : Cur) (d : Done) : (retire s c d).free = s.free := by
  unfold retire; dsimp only; split <;> simp [endClause_free]
theorem takeTrapAt_free (s : State) (c : Cur) (t : TrapInfo) (g : Part → Part) : (takeTrapAt s c t g).free = s.free := by simp [takeTrapAt]
theorem takeTrap_free (s : State) (c : Cur) (t : TrapInfo) : (takeTrap s c t).free = s.free := takeTrapAt_free s c t _
theorem holdSlot_free (s : State) : (holdSlot s).free = s.free := by
  unfold holdSlot; split <;> simp
theorem endClause_mem (s : State) (c : Cur) (w : Wave) : (endClause s c w).mem = s.mem := by simp [endClause]
theorem retire_mem (s : State) (c : Cur) (d : Done) : (retire s c d).mem = s.mem := by
  unfold retire; dsimp only; split <;> simp [endClause_mem]
theorem takeTrapAt_mem (s : State) (c : Cur) (t : TrapInfo) (g : Part → Part) : (takeTrapAt s c t g).mem = s.mem := by simp [takeTrapAt]
theorem takeTrap_mem (s : State) (c : Cur) (t : TrapInfo) : (takeTrap s c t).mem = s.mem := takeTrapAt_mem s c t _
theorem holdSlot_mem (s : State) : (holdSlot s).mem = s.mem := by
  unfold holdSlot; split <;> simp
theorem endClause_dram (s : State) (c : Cur) (w : Wave) : (endClause s c w).dram = s.dram := by simp [endClause]
theorem retire_dram (s : State) (c : Cur) (d : Done) : (retire s c d).dram = s.dram := by
  unfold retire; dsimp only; split <;> simp [endClause_dram]
theorem takeTrapAt_dram (s : State) (c : Cur) (t : TrapInfo) (g : Part → Part) : (takeTrapAt s c t g).dram = s.dram := by simp [takeTrapAt]
theorem takeTrap_dram (s : State) (c : Cur) (t : TrapInfo) : (takeTrap s c t).dram = s.dram := takeTrapAt_dram s c t _
theorem holdSlot_dram (s : State) : (holdSlot s).dram = s.dram := by
  unfold holdSlot; split <;> simp
theorem endClause_hostMem (s : State) (c : Cur) (w : Wave) : (endClause s c w).hostMem = s.hostMem := by simp [endClause]
theorem retire_hostMem (s : State) (c : Cur) (d : Done) : (retire s c d).hostMem = s.hostMem := by
  unfold retire; dsimp only; split <;> simp [endClause_hostMem]
theorem takeTrapAt_hostMem (s : State) (c : Cur) (t : TrapInfo) (g : Part → Part) : (takeTrapAt s c t g).hostMem = s.hostMem := by simp [takeTrapAt]
theorem takeTrap_hostMem (s : State) (c : Cur) (t : TrapInfo) : (takeTrap s c t).hostMem = s.hostMem := takeTrapAt_hostMem s c t _
theorem holdSlot_hostMem (s : State) : (holdSlot s).hostMem = s.hostMem := by
  unfold holdSlot; split <;> simp
theorem endClause_l1 (s : State) (c : Cur) (w : Wave) : (endClause s c w).l1 = s.l1 := by simp [endClause]
theorem retire_l1 (s : State) (c : Cur) (d : Done) : (retire s c d).l1 = s.l1 := by
  unfold retire; dsimp only; split <;> simp [endClause_l1]
theorem takeTrapAt_l1 (s : State) (c : Cur) (t : TrapInfo) (g : Part → Part) : (takeTrapAt s c t g).l1 = s.l1 := by simp [takeTrapAt]
theorem takeTrap_l1 (s : State) (c : Cur) (t : TrapInfo) : (takeTrap s c t).l1 = s.l1 := takeTrapAt_l1 s c t _
theorem holdSlot_l1 (s : State) : (holdSlot s).l1 = s.l1 := by
  unfold holdSlot; split <;> simp
theorem endClause_l2 (s : State) (c : Cur) (w : Wave) : (endClause s c w).l2 = s.l2 := by simp [endClause]
theorem retire_l2 (s : State) (c : Cur) (d : Done) : (retire s c d).l2 = s.l2 := by
  unfold retire; dsimp only; split <;> simp [endClause_l2]
theorem takeTrapAt_l2 (s : State) (c : Cur) (t : TrapInfo) (g : Part → Part) : (takeTrapAt s c t g).l2 = s.l2 := by simp [takeTrapAt]
theorem takeTrap_l2 (s : State) (c : Cur) (t : TrapInfo) : (takeTrap s c t).l2 = s.l2 := takeTrapAt_l2 s c t _
theorem holdSlot_l2 (s : State) : (holdSlot s).l2 = s.l2 := by
  unfold holdSlot; split <;> simp
theorem endClause_reports (s : State) (c : Cur) (w : Wave) : (endClause s c w).reports = s.reports := by simp [endClause]
theorem retire_reports (s : State) (c : Cur) (d : Done) : (retire s c d).reports = s.reports := by
  unfold retire; dsimp only; split <;> simp [endClause_reports]
theorem takeTrapAt_reports (s : State) (c : Cur) (t : TrapInfo) (g : Part → Part) : (takeTrapAt s c t g).reports = s.reports := by simp [takeTrapAt]
theorem takeTrap_reports (s : State) (c : Cur) (t : TrapInfo) : (takeTrap s c t).reports = s.reports := takeTrapAt_reports s c t _
theorem holdSlot_reports (s : State) : (holdSlot s).reports = s.reports := by
  unfold holdSlot; split <;> simp
theorem endClause_rdc (s : State) (c : Cur) (w : Wave) : (endClause s c w).rdc = s.rdc := by simp [endClause]
theorem retire_rdc (s : State) (c : Cur) (d : Done) : (retire s c d).rdc = s.rdc := by
  unfold retire; dsimp only; split <;> simp [endClause_rdc]
theorem takeTrapAt_rdc (s : State) (c : Cur) (t : TrapInfo) (g : Part → Part) : (takeTrapAt s c t g).rdc = s.rdc := by simp [takeTrapAt]
theorem takeTrap_rdc (s : State) (c : Cur) (t : TrapInfo) : (takeTrap s c t).rdc = s.rdc := takeTrapAt_rdc s c t _
theorem holdSlot_rdc (s : State) : (holdSlot s).rdc = s.rdc := by
  unfold holdSlot; split <;> simp
theorem endClause_icache (s : State) (c : Cur) (w : Wave) : (endClause s c w).icache = s.icache := by simp [endClause]
theorem retire_icache (s : State) (c : Cur) (d : Done) : (retire s c d).icache = s.icache := by
  unfold retire; dsimp only; split <;> simp [endClause_icache]
theorem takeTrapAt_icache (s : State) (c : Cur) (t : TrapInfo) (g : Part → Part) : (takeTrapAt s c t g).icache = s.icache := by simp [takeTrapAt]
theorem takeTrap_icache (s : State) (c : Cur) (t : TrapInfo) : (takeTrap s c t).icache = s.icache := takeTrapAt_icache s c t _
theorem holdSlot_icache (s : State) : (holdSlot s).icache = s.icache := by
  unfold holdSlot; split <;> simp
theorem endClause_raycache (s : State) (c : Cur) (w : Wave) : (endClause s c w).raycache = s.raycache := by simp [endClause]
theorem retire_raycache (s : State) (c : Cur) (d : Done) : (retire s c d).raycache = s.raycache := by
  unfold retire; dsimp only; split <;> simp [endClause_raycache]
theorem takeTrapAt_raycache (s : State) (c : Cur) (t : TrapInfo) (g : Part → Part) : (takeTrapAt s c t g).raycache = s.raycache := by simp [takeTrapAt]
theorem takeTrap_raycache (s : State) (c : Cur) (t : TrapInfo) : (takeTrap s c t).raycache = s.raycache := takeTrapAt_raycache s c t _
theorem holdSlot_raycache (s : State) : (holdSlot s).raycache = s.raycache := by
  unfold holdSlot; split <;> simp
theorem endClause_rayClear (s : State) (c : Cur) (w : Wave) : (endClause s c w).rayClear = s.rayClear := by simp [endClause]
theorem retire_rayClear (s : State) (c : Cur) (d : Done) : (retire s c d).rayClear = s.rayClear := by
  unfold retire; dsimp only; split <;> simp [endClause_rayClear]
theorem takeTrapAt_rayClear (s : State) (c : Cur) (t : TrapInfo) (g : Part → Part) : (takeTrapAt s c t g).rayClear = s.rayClear := by simp [takeTrapAt]
theorem takeTrap_rayClear (s : State) (c : Cur) (t : TrapInfo) : (takeTrap s c t).rayClear = s.rayClear := takeTrapAt_rayClear s c t _
theorem holdSlot_rayClear (s : State) : (holdSlot s).rayClear = s.rayClear := by
  unfold holdSlot; split <;> simp
theorem endClause_tlb (s : State) (c : Cur) (w : Wave) : (endClause s c w).tlb = s.tlb := by simp [endClause]
theorem retire_tlb (s : State) (c : Cur) (d : Done) : (retire s c d).tlb = s.tlb := by
  unfold retire; dsimp only; split <;> simp [endClause_tlb]
theorem takeTrapAt_tlb (s : State) (c : Cur) (t : TrapInfo) (g : Part → Part) : (takeTrapAt s c t g).tlb = s.tlb := by simp [takeTrapAt]
theorem takeTrap_tlb (s : State) (c : Cur) (t : TrapInfo) : (takeTrap s c t).tlb = s.tlb := takeTrapAt_tlb s c t _
theorem holdSlot_tlb (s : State) : (holdSlot s).tlb = s.tlb := by
  unfold holdSlot; split <;> simp
theorem endClause_ctxs (s : State) (c : Cur) (w : Wave) : (endClause s c w).ctxs = s.ctxs := by simp [endClause]
theorem retire_ctxs (s : State) (c : Cur) (d : Done) : (retire s c d).ctxs = s.ctxs := by
  unfold retire; dsimp only; split <;> simp [endClause_ctxs]
theorem takeTrapAt_ctxs (s : State) (c : Cur) (t : TrapInfo) (g : Part → Part) : (takeTrapAt s c t g).ctxs = s.ctxs := by simp [takeTrapAt]
theorem takeTrap_ctxs (s : State) (c : Cur) (t : TrapInfo) : (takeTrap s c t).ctxs = s.ctxs := takeTrapAt_ctxs s c t _
theorem holdSlot_ctxs (s : State) : (holdSlot s).ctxs = s.ctxs := by
  unfold holdSlot; split <;> simp
theorem endClause_queues (s : State) (c : Cur) (w : Wave) : (endClause s c w).queues = s.queues := by simp [endClause]
theorem retire_queues (s : State) (c : Cur) (d : Done) : (retire s c d).queues = s.queues := by
  unfold retire; dsimp only; split <;> simp [endClause_queues]
theorem takeTrapAt_queues (s : State) (c : Cur) (t : TrapInfo) (g : Part → Part) : (takeTrapAt s c t g).queues = s.queues := by simp [takeTrapAt]
theorem takeTrap_queues (s : State) (c : Cur) (t : TrapInfo) : (takeTrap s c t).queues = s.queues := takeTrapAt_queues s c t _
theorem holdSlot_queues (s : State) : (holdSlot s).queues = s.queues := by
  unfold holdSlot; split <;> simp
theorem endClause_slots (s : State) (c : Cur) (w : Wave) : (endClause s c w).slots = s.slots := by simp [endClause]
theorem retire_slots (s : State) (c : Cur) (d : Done) : (retire s c d).slots = s.slots := by
  unfold retire; dsimp only; split <;> simp [endClause_slots]
theorem takeTrapAt_slots (s : State) (c : Cur) (t : TrapInfo) (g : Part → Part) : (takeTrapAt s c t g).slots = s.slots := by simp [takeTrapAt]
theorem takeTrap_slots (s : State) (c : Cur) (t : TrapInfo) : (takeTrap s c t).slots = s.slots := takeTrapAt_slots s c t _
theorem holdSlot_slots (s : State) : (holdSlot s).slots = s.slots := by
  unfold holdSlot; split <;> simp
theorem endClause_msix (s : State) (c : Cur) (w : Wave) : (endClause s c w).msix = s.msix := by simp [endClause]
theorem retire_msix (s : State) (c : Cur) (d : Done) : (retire s c d).msix = s.msix := by
  unfold retire; dsimp only; split <;> simp [endClause_msix]
theorem takeTrapAt_msix (s : State) (c : Cur) (t : TrapInfo) (g : Part → Part) : (takeTrapAt s c t g).msix = s.msix := by simp [takeTrapAt]
theorem takeTrap_msix (s : State) (c : Cur) (t : TrapInfo) : (takeTrap s c t).msix = s.msix := takeTrapAt_msix s c t _
theorem holdSlot_msix (s : State) : (holdSlot s).msix = s.msix := by
  unfold holdSlot; split <;> simp
theorem endClause_pba (s : State) (c : Cur) (w : Wave) : (endClause s c w).pba = s.pba := by simp [endClause]
theorem retire_pba (s : State) (c : Cur) (d : Done) : (retire s c d).pba = s.pba := by
  unfold retire; dsimp only; split <;> simp [endClause_pba]
theorem takeTrapAt_pba (s : State) (c : Cur) (t : TrapInfo) (g : Part → Part) : (takeTrapAt s c t g).pba = s.pba := by simp [takeTrapAt]
theorem takeTrap_pba (s : State) (c : Cur) (t : TrapInfo) : (takeTrap s c t).pba = s.pba := takeTrapAt_pba s c t _
theorem holdSlot_pba (s : State) : (holdSlot s).pba = s.pba := by
  unfold holdSlot; split <;> simp
theorem endClause_raised (s : State) (c : Cur) (w : Wave) : (endClause s c w).raised = s.raised := by simp [endClause]
theorem retire_raised (s : State) (c : Cur) (d : Done) : (retire s c d).raised = s.raised := by
  unfold retire; dsimp only; split <;> simp [endClause_raised]
theorem takeTrapAt_raised (s : State) (c : Cur) (t : TrapInfo) (g : Part → Part) : (takeTrapAt s c t g).raised = s.raised := by simp [takeTrapAt]
theorem takeTrap_raised (s : State) (c : Cur) (t : TrapInfo) : (takeTrap s c t).raised = s.raised := takeTrapAt_raised s c t _
theorem holdSlot_raised (s : State) : (holdSlot s).raised = s.raised := by
  unfold holdSlot; split <;> simp
theorem endClause_launches (s : State) (c : Cur) (w : Wave) : (endClause s c w).launches = s.launches := by simp [endClause]
theorem retire_launches (s : State) (c : Cur) (d : Done) : (retire s c d).launches = s.launches := by
  unfold retire; dsimp only; split <;> simp [endClause_launches]
theorem takeTrapAt_launches (s : State) (c : Cur) (t : TrapInfo) (g : Part → Part) : (takeTrapAt s c t g).launches = s.launches := by simp [takeTrapAt]
theorem takeTrap_launches (s : State) (c : Cur) (t : TrapInfo) : (takeTrap s c t).launches = s.launches := takeTrapAt_launches s c t _
theorem holdSlot_launches (s : State) : (holdSlot s).launches = s.launches := by
  unfold holdSlot; split <;> simp
theorem endClause_nextOrder (s : State) (c : Cur) (w : Wave) : (endClause s c w).nextOrder = s.nextOrder := by simp [endClause]
theorem retire_nextOrder (s : State) (c : Cur) (d : Done) : (retire s c d).nextOrder = s.nextOrder := by
  unfold retire; dsimp only; split <;> simp [endClause_nextOrder]
theorem takeTrapAt_nextOrder (s : State) (c : Cur) (t : TrapInfo) (g : Part → Part) : (takeTrapAt s c t g).nextOrder = s.nextOrder := by simp [takeTrapAt]
theorem takeTrap_nextOrder (s : State) (c : Cur) (t : TrapInfo) : (takeTrap s c t).nextOrder = s.nextOrder := takeTrapAt_nextOrder s c t _
theorem holdSlot_nextOrder (s : State) : (holdSlot s).nextOrder = s.nextOrder := by
  unfold holdSlot; split <;> simp
theorem endClause_nextUid (s : State) (c : Cur) (w : Wave) : (endClause s c w).nextUid = s.nextUid := by simp [endClause]
theorem retire_nextUid (s : State) (c : Cur) (d : Done) : (retire s c d).nextUid = s.nextUid := by
  unfold retire; dsimp only; split <;> simp [endClause_nextUid]
theorem takeTrapAt_nextUid (s : State) (c : Cur) (t : TrapInfo) (g : Part → Part) : (takeTrapAt s c t g).nextUid = s.nextUid := by simp [takeTrapAt]
theorem takeTrap_nextUid (s : State) (c : Cur) (t : TrapInfo) : (takeTrap s c t).nextUid = s.nextUid := takeTrapAt_nextUid s c t _
theorem holdSlot_nextUid (s : State) : (holdSlot s).nextUid = s.nextUid := by
  unfold holdSlot; split <;> simp
theorem endClause_sv (s : State) (c : Cur) (w : Wave) : (endClause s c w).sv = s.sv := by simp [endClause]
theorem retire_sv (s : State) (c : Cur) (d : Done) : (retire s c d).sv = s.sv := by
  unfold retire; dsimp only; split <;> simp [endClause_sv]
theorem takeTrapAt_sv (s : State) (c : Cur) (t : TrapInfo) (g : Part → Part) : (takeTrapAt s c t g).sv = s.sv := by simp [takeTrapAt]
theorem takeTrap_sv (s : State) (c : Cur) (t : TrapInfo) : (takeTrap s c t).sv = s.sv := takeTrapAt_sv s c t _
theorem holdSlot_sv (s : State) : (holdSlot s).sv = s.sv := by
  unfold holdSlot; split <;> simp
theorem endClause_mantle (s : State) (c : Cur) (w : Wave) : (endClause s c w).mantle = s.mantle := by simp [endClause]
theorem retire_mantle (s : State) (c : Cur) (d : Done) : (retire s c d).mantle = s.mantle := by
  unfold retire; dsimp only; split <;> simp [endClause_mantle]
theorem takeTrapAt_mantle (s : State) (c : Cur) (t : TrapInfo) (g : Part → Part) : (takeTrapAt s c t g).mantle = s.mantle := by simp [takeTrapAt]
theorem takeTrap_mantle (s : State) (c : Cur) (t : TrapInfo) : (takeTrap s c t).mantle = s.mantle := takeTrapAt_mantle s c t _
theorem holdSlot_mantle (s : State) : (holdSlot s).mantle = s.mantle := by
  unfold holdSlot; split <;> simp
theorem endClause_rel (s : State) (c : Cur) (w : Wave) : (endClause s c w).rel = s.rel := by simp [endClause]
theorem retire_rel (s : State) (c : Cur) (d : Done) : (retire s c d).rel = s.rel := by
  unfold retire; dsimp only; split <;> simp [endClause_rel]
theorem takeTrapAt_rel (s : State) (c : Cur) (t : TrapInfo) (g : Part → Part) : (takeTrapAt s c t g).rel = s.rel := by simp [takeTrapAt]
theorem takeTrap_rel (s : State) (c : Cur) (t : TrapInfo) : (takeTrap s c t).rel = s.rel := takeTrapAt_rel s c t _
theorem holdSlot_rel (s : State) : (holdSlot s).rel = s.rel := by
  unfold holdSlot; split <;> simp
theorem endClause_mgmt (s : State) (c : Cur) (w : Wave) : (endClause s c w).mgmt = s.mgmt := by simp [endClause]
theorem retire_mgmt (s : State) (c : Cur) (d : Done) : (retire s c d).mgmt = s.mgmt := by
  unfold retire; dsimp only; split <;> simp [endClause_mgmt]
theorem takeTrapAt_mgmt (s : State) (c : Cur) (t : TrapInfo) (g : Part → Part) : (takeTrapAt s c t g).mgmt = s.mgmt := by simp [takeTrapAt]
theorem takeTrap_mgmt (s : State) (c : Cur) (t : TrapInfo) : (takeTrap s c t).mgmt = s.mgmt := takeTrapAt_mgmt s c t _
theorem holdSlot_mgmt (s : State) : (holdSlot s).mgmt = s.mgmt := by
  unfold holdSlot; split <;> simp

/-- A wave replaced in its block: what each block and wave then is. -/
theorem updWave_only {s t : State} {c : Cur} {w : Wave} (hc : s.cur? = some c) (hw : w.idx = c.wv.idx)
    (ht : t.blocks = (s.updWave c.blk.uid c.iss.wave fun _ => w).blocks) (ho : OutsideKept s t) :
    OnlyWave s t c.blk c.iss.wave w := by
  obtain ⟨_, hb, hwv, _, hu, hi⟩ := cur?_spec hc
  have key (u : Nat) : t.block? u = (s.updWave c.blk.uid c.iss.wave fun _ => w).block? u := by
    unfold State.block?; rw [ht]
  have hidx : ∀ w0 : Wave, w0.idx = c.iss.wave → ((fun _ => w) w0 : Wave).idx = c.iss.wave := fun _ _ => hw.trans hi
  have hself : t.block? c.blk.uid = some (c.blk.updWave c.iss.wave fun _ => w) := by
    rw [key, State.updWave, block?_updBlock_same _ _ _ (fun _ => by rfl), hu, hb]; rfl
  refine ⟨ho, fun u hne => ?_, ⟨_, hself⟩, fun j hj => ?_, ?_⟩
  · rw [key, State.updWave, block?_updBlock_other _ _ (fun _ => by rfl) hne]
  · rw [State.wave?, hself]
    exact wave?_updWave_other _ _ hidx hj
  · rw [State.wave?, hself]
    show (c.blk.updWave c.iss.wave fun _ => w).wave? c.iss.wave = some w
    rw [wave?_updWave_same _ _ _ hidx, hwv]; rfl

theorem retire_blocks (s : State) (c : Cur) (d : Done) :
    (retire s c d).blocks = (s.updWave c.blk.uid c.iss.wave fun _ => retiredWave s c d).blocks := by
  unfold retire retiredWave
  dsimp only
  rw [advance_part, advance_header]
  split
  · rfl
  · rfl

theorem retire_outside (s : State) (c : Cur) (d : Done) : OutsideKept s (retire s c d) := by
  constructor <;> first
    | exact retire_agenda s c d
    | exact retire_free s c d
    | exact retire_mem s c d
    | exact retire_dram s c d
    | exact retire_hostMem s c d
    | exact retire_l1 s c d
    | exact retire_l2 s c d
    | exact retire_reports s c d
    | exact retire_rdc s c d
    | exact retire_icache s c d
    | exact retire_raycache s c d
    | exact retire_rayClear s c d
    | exact retire_tlb s c d
    | exact retire_ctxs s c d
    | exact retire_queues s c d
    | exact retire_slots s c d
    | exact retire_msix s c d
    | exact retire_pba s c d
    | exact retire_raised s c d
    | exact retire_launches s c d
    | exact retire_nextOrder s c d
    | exact retire_nextUid s c d
    | exact retire_sv s c d
    | exact retire_mantle s c d
    | exact retire_rel s c d
    | exact retire_mgmt s c d

/-- A word that retires changes its wave and nothing else but the clock, the slot and the core's own records. -/
theorem retire_only {s : State} {c : Cur} {d : Done} (hc : s.cur? = some c) (hw : d.wave.idx = c.wv.idx) :
    OnlyWave s (retire s c d) c.blk c.iss.wave (retiredWave s c d) :=
  updWave_only hc (by simpa using hw) (retire_blocks s c d) (retire_outside s c d)

theorem endClause_outside (s : State) (c : Cur) (w : Wave) : OutsideKept s (endClause s c w) := by
  constructor <;> first
    | exact endClause_agenda s c w
    | exact endClause_free s c w
    | exact endClause_mem s c w
    | exact endClause_dram s c w
    | exact endClause_hostMem s c w
    | exact endClause_l1 s c w
    | exact endClause_l2 s c w
    | exact endClause_reports s c w
    | exact endClause_rdc s c w
    | exact endClause_icache s c w
    | exact endClause_raycache s c w
    | exact endClause_rayClear s c w
    | exact endClause_tlb s c w
    | exact endClause_ctxs s c w
    | exact endClause_queues s c w
    | exact endClause_slots s c w
    | exact endClause_msix s c w
    | exact endClause_pba s c w
    | exact endClause_raised s c w
    | exact endClause_launches s c w
    | exact endClause_nextOrder s c w
    | exact endClause_nextUid s c w
    | exact endClause_sv s c w
    | exact endClause_mantle s c w
    | exact endClause_rel s c w
    | exact endClause_mgmt s c w

/-- A word that ends its clause changes its wave and nothing else but the clock, the slot and the core's own
records. -/
theorem endClause_only {s : State} {c : Cur} {w : Wave} (hc : s.cur? = some c) (hw : w.idx = c.wv.idx) :
    OnlyWave s (endClause s c w) c.blk c.iss.wave (endedWave c w) :=
  updWave_only hc (by simpa [endedWave] using hw) rfl (endClause_outside s c w)

theorem takeTrap_outside (s : State) (c : Cur) (t : TrapInfo) : OutsideKept s (takeTrap s c t) := by
  constructor <;> first
    | exact takeTrap_agenda s c t
    | exact takeTrap_free s c t
    | exact takeTrap_mem s c t
    | exact takeTrap_dram s c t
    | exact takeTrap_hostMem s c t
    | exact takeTrap_l1 s c t
    | exact takeTrap_l2 s c t
    | exact takeTrap_reports s c t
    | exact takeTrap_rdc s c t
    | exact takeTrap_icache s c t
    | exact takeTrap_raycache s c t
    | exact takeTrap_rayClear s c t
    | exact takeTrap_tlb s c t
    | exact takeTrap_ctxs s c t
    | exact takeTrap_queues s c t
    | exact takeTrap_slots s c t
    | exact takeTrap_msix s c t
    | exact takeTrap_pba s c t
    | exact takeTrap_raised s c t
    | exact takeTrap_launches s c t
    | exact takeTrap_nextOrder s c t
    | exact takeTrap_nextUid s c t
    | exact takeTrap_sv s c t
    | exact takeTrap_mantle s c t
    | exact takeTrap_rel s c t
    | exact takeTrap_mgmt s c t

/-- A word that issues with nothing against it does what its meaning says. -/
theorem runWord_go {s : State} {c : Cur} {form : Cur → Form} (h : Issues s c form) (go : Cur → Form → Out) :
    runWord s form go = go c (form c) := by
  simp [runWord, h.cur, h.running, h.legal, h.ready]

/-- What the issue of a word can do. -/
theorem runWord_cases {s t : State} {form : Cur → Form} {go : Cur → Form → Out} (h : runWord s form go = .next t) :
    ∃ c, s.cur? = some c ∧
      (t = holdSlot s ∨
       (∃ n, (form c).fault c.iss = some n ∧ t = takeTrap s c { cause := n, opcode := (form c).opcode }) ∨
       (Issues s c form ∧ go c (form c) = .next t)) := by
  unfold runWord at h
  split at h
  · simp at h
  next c hc =>
    refine ⟨c, hc, ?_⟩
    by_cases hr : c.wv.run = .running
    · rw [if_neg (by simp [hr])] at h
      split at h
      next n hn => exact .inr (.inl ⟨n, hn, by simpa using h.symm⟩)
      next hn =>
        by_cases hw : (form c).waits c.wv = true
        · rw [if_pos hw] at h
          exact .inl (by simpa using h.symm)
        · rw [if_neg hw] at h
          exact .inr (.inr ⟨⟨hc, hr, hn, by simpa using hw⟩, h⟩)
    · rw [if_pos (by simp [hr])] at h
      exact .inl (by simpa using h.symm)

end Sys2Proof.Machine
end

