-- ==== Sys2Proof/Laws/Regs.lean ====
section
/-! SUPPORT. The laws of the register files: what each register reads as after a write (R15, R86, R130). -/

namespace Sys2Proof.Machine

open Sys2Proof

theorem vLane_setLanes (mask : Mask) (n : Nat) (f : Nat → Word) (r l : Nat) (hl : l < 32) :
    ∀ (k : Nat) (v : Words), k ≤ 32 →
      vLane (setLanes mask n f k v) r l = if r = n ∧ l < k ∧ mask.getLsbD l = true then f l else vLane v r l
  | 0, v, _ => by simp [setLanes]
  | k + 1, v, hk => by
    have hne : (32 * r + l = 32 * n + k) ↔ (r = n ∧ l = k) := by omega
    have ih := vLane_setLanes mask n f r l hl k v (by omega)
    have hlt : l ≠ k → ((l < k + 1) ↔ l < k) := by omega
    unfold setLanes
    by_cases hm : mask.getLsbD k = true
    · by_cases hk2 : r = n ∧ l = k
      · obtain ⟨rfl, rfl⟩ := hk2
        simp [hm, vLane, getAt_setAt]
      · have : vLane (setAt 0 (setLanes mask n f k v) (32 * n + k) (f k)) r l = vLane (setLanes mask n f k v) r l := by
          simp [vLane, getAt_setAt, hne, hk2]
        simp only [hm, if_true]
        rw [this, ih]
        by_cases h1 : r = n
        · have h2 : l ≠ k := fun h2 => hk2 ⟨h1, h2⟩
          simp [h1, hlt h2]
        · simp [h1]
    · simp only [hm]
      rw [if_neg (by simp), ih]
      by_cases h2 : l = k
      · subst h2; simp [hm]
      · simp [hlt h2]

/-- A vector register after a write of the lanes of a mask. -/
theorem vLane_setV (w : Wave) (n : Nat) (m : Mask) (f : Nat → Word) (r l : Nat) (hl : l < 32) :
    vLane (w.setV n m f).v r l = if r = n ∧ m.getLsbD l = true then f l else vLane w.v r l := by
  have := vLane_setLanes m n f r l hl 32 w.v (Nat.le_refl _)
  simpa [Wave.setV, hl] using this

theorem getS_setS (w : Wave) (n r : Nat) (x : Word) : (w.setS n x).getS r = if r = n then x else w.getS r := by
  simp [Wave.setS, Wave.getS, getAt_setAt]

theorem getP_setP (w : Wave) (n r : Nat) (x : Mask) :
    (w.setP n x).getP r = if r = n ∧ n ≠ 15 then x else w.getP r := by
  unfold Wave.setP Wave.getP
  by_cases h : n = 15
  · simp [h]
  · by_cases hr : r = 15
    · simp [h, hr]
      intro h15; omega
    · by_cases hn : r = n <;> simp [h, hr, hn, getAt_setAt]

/-- P15 always reads as all ones (R99). -/
theorem getP_15 (w : Wave) : w.getP 15 = 0xFFFFFFFF#32 := rfl

end Sys2Proof.Machine
end

