-- ==== Sys2Proof/Tests/Slice0.lean ====
section
/-! SUPPORT. The author's own tests: words written out from the encoding tables, ill-formed terms, worked results of
the spec, and for every statement with hypotheses states and operands that meet them. -/

namespace Sys2Proof.Tests

open Sys2Proof Sys2Proof.Machine Sys2Proof.Claims

set_option Elab.async false

/-- A machine whose one wave has one live lane and a MIX clause in its issue slots. -/
def s0 : State := State.reset.ready false []
/-- The word that issues there. -/
def c0 : Cur :=
  { iss := readyIssue 1, blk := readyBlock 1 (readyLaunch 0 false) 0 false, wv := readyWave (readyLaunch 0 false) 0 false,
    pt := { pc := BitVec.ofNat 64 readyCode, word := 0, mask := 1, rho := 0, stack := [], wait := .none } }

theorem cur0 : s0.cur? = some c0 := rfl

theorem issues0 {form : Cur → Form} (h : (form c0).fault c0.iss = none) (g : (form c0).waits c0.wv = false) :
    Issues s0 c0 form := ⟨cur0, rfl, h, g⟩


/-- A machine like `s0` whose clause, wave and block are the given ones. -/
def mk (i : Issue) (b : Block) (w : Wave) : State := { s0 with issues := [i], blocks := [{ b with waves := [w] }] }
/-- The word that issues there. -/
def cm (i : Issue) (b : Block) (w : Wave) : Cur :=
  { iss := i, blk := { b with waves := [w] }, wv := w, pt := (w.part? 0).getD c0.pt }

/-- An XC before the word: predicate P15, the other fields zero, but for those given. -/
def xc1 (fields : Word) : Issue := { readyIssue 1 with xc := some (0x01E00000 ||| fields) }
/-- The machine with that XC. -/
def sx (fields : Word) : State := mk (xc1 fields) c0.blk c0.wv
/-- Its word. -/
def cx (fields : Word) : Cur := cm (xc1 fields) c0.blk c0.wv
/-! ### Decoding: words written out from the encoding tables (R36, R47-R55)

Each row is an encoding of spec/opcode_table.json or of R54 and R55 with its fields filled in, lowest address first. -/

theorem test_decode_clause_iadd :
    decodeBytes [0xE2, 0x47, 0x57, 0x01] = .ok (.iadd true 87 71 226, []) ∧
    decodeBytes [0x42, 0xD5, 0x67, 0x03] = .ok (.isub true 103 213 66, []) ∧
    decodeBytes [0x59, 0x03, 0x0E, 0x04] = .ok (.imul false 14 3 89, []) ∧
    decodeBytes [0x8B, 0x77, 0x16, 0x07] = .ok (.imulhs true 22 119 139, []) ∧
    decodeBytes [0xFB, 0x51, 0x05, 0x09] = .ok (.imulhu true 5 81 251, []) ∧
    decodeBytes [0xF6, 0x04, 0xA8, 0x0A] = .ok (.imad false 168 4 246, []) ∧
    decodeBytes [0x51, 0x63, 0x14, 0x0D] = .ok (.imin true 20 99 81, []) ∧
    decodeBytes [0xC3, 0xFB, 0xD8, 0x0F] = .ok (.imax true 216 251 195, []) ∧
    decodeBytes [0xDD, 0xF3, 0xDC, 0x11] = .ok (.umin true 220 243 221, []) ∧
    decodeBytes [0xA1, 0x4D, 0x2E, 0x12] = .ok (.umax false 46 77 161, []) ∧
    decodeBytes [0x2F, 0x4E, 0xF7, 0x14] = .ok (.and false 247 78 47, []) ∧
    decodeBytes [0x48, 0x2F, 0xA6, 0x17] = .ok (.or true 166 47 72, []) :=
  ⟨rfl, rfl, rfl, rfl, rfl, rfl, rfl, rfl, rfl, rfl, rfl, rfl⟩

theorem test_decode_clause_xor :
    decodeBytes [0x22, 0x0A, 0xED, 0x19] = .ok (.xor true 237 10 34, []) ∧
    decodeBytes [0x23, 0xF7, 0x65, 0x1B] = .ok (.andn true 101 247 35, []) ∧
    decodeBytes [0x3E, 0xB3, 0xFB, 0x1D] = .ok (.shl true 251 179 62, []) ∧
    decodeBytes [0xCC, 0xAD, 0x45, 0x1E] = .ok (.shr false 69 173 204, []) ∧
    decodeBytes [0xF3, 0x4B, 0x84, 0x20] = .ok (.sar false 132 75 243, []) ∧
    decodeBytes [0x73, 0xC8, 0x23, 0x22] = .ok (.rotl false 35 200 115, []) ∧
    decodeBytes [0x10, 0x7C, 0x3A, 0x24] = .ok (.iun false 58 124 16, []) ∧
    decodeBytes [0xF1, 0xB0, 0xF7, 0x26] = .ok (.bfx false 247 176 241, []) ∧
    decodeBytes [0x94, 0x90, 0x6B, 0x29] = .ok (.bfi true 107 144 148, []) ∧
    decodeBytes [0x32, 0xA3, 0xDE, 0x2B] = .ok (.iaddi true 222 163 50, []) ∧
    decodeBytes [0x0D, 0x87, 0xFE, 0x2C] = .ok (.shli false 254 135 13, []) ∧
    decodeBytes [0x11, 0x3E, 0x7A, 0x2E] = .ok (.shri false 122 62 17, []) :=
  ⟨rfl, rfl, rfl, rfl, rfl, rfl, rfl, rfl, rfl, rfl, rfl, rfl⟩

theorem test_decode_clause_sari :
    decodeBytes [0x0E, 0xBF, 0x04, 0x31] = .ok (.sari true 4 191 14, []) ∧
    decodeBytes [0x88, 0x94, 0x36, 0x32] = .ok (.andi false 54 148 136, []) ∧
    decodeBytes [0xA6, 0x95, 0x53, 0x35] = .ok (.ori true 83 149 166, []) ∧
    decodeBytes [0x13, 0xD3, 0xE1, 0x36] = .ok (.xori false 225 211 19, []) ∧
    decodeBytes [0x4C, 0xA3, 0xBD, 0x38] = .ok (.movi false 189 0xa34c, []) ∧
    decodeBytes [0xF5, 0x02, 0x22, 0x3A] = .ok (.movhi 34 757, []) ∧
    decodeBytes [0x00, 0x9A, 0x58, 0x3C] = .ok (.mov false 88 154, []) ∧
    decodeBytes [0xD6, 0x2F, 0x5A, 0x3F] = .ok (.icmp 10 13 false 47 214, []) ∧
    decodeBytes [0x35, 0x3D, 0x66, 0x41] = .ok (.fadd true 102 61 53, []) ∧
    decodeBytes [0x1D, 0x9D, 0x58, 0x43] = .ok (.fsub true 88 157 29, []) ∧
    decodeBytes [0x9D, 0x46, 0xFE, 0x45] = .ok (.fmul true 254 70 157, []) ∧
    decodeBytes [0x24, 0x02, 0x54, 0x47] = .ok (.ffma true 84 2 36, []) :=
  ⟨rfl, rfl, rfl, rfl, rfl, rfl, rfl, rfl, rfl, rfl, rfl, rfl⟩

theorem test_decode_clause_fmin :
    decodeBytes [0xEA, 0x3E, 0x30, 0x48] = .ok (.fmin false 48 62 234, []) ∧
    decodeBytes [0xAB, 0xBB, 0xCE, 0x4A] = .ok (.fmax false 206 187 171, []) ∧
    decodeBytes [0x41, 0x84, 0x81, 0x4C] = .ok (.fun false 129 132 65, []) ∧
    decodeBytes [0x19, 0x8E, 0x7A, 0x4F] = .ok (.fcmp 11 13 false 142 25, []) ∧
    decodeBytes [0x7E, 0x51, 0x9A, 0x51] = .ok (.sel true 154 81 126, []) ∧
    decodeBytes [0x60, 0xF4, 0xD6, 0x53] = .ok (.badd2 true 214 244 96, []) ∧
    decodeBytes [0xA1, 0x11, 0x5B, 0x55] = .ok (.bmul2 true 91 17 161, []) ∧
    decodeBytes [0x56, 0x3F, 0x32, 0x56] = .ok (.bfma2 false 50 63 86, []) ∧
    decodeBytes [0x52, 0xBC, 0x47, 0x58] = .ok (.hadd2 false 71 188 82, []) ∧
    decodeBytes [0xDC, 0x6E, 0x7E, 0x5B] = .ok (.hmul2 true 126 110 220, []) ∧
    decodeBytes [0x79, 0x3A, 0x67, 0x5C] = .ok (.hfma2 false 103 58 121, []) ∧
    decodeBytes [0x52, 0xF3, 0x8E, 0x5E] = .ok (.dot4i false 142 243 82, []) :=
  ⟨rfl, rfl, rfl, rfl, rfl, rfl, rfl, rfl, rfl, rfl, rfl, rfl⟩

theorem test_decode_clause_dot2b :
    decodeBytes [0x71, 0x1B, 0xAF, 0x60] = .ok (.dot2b false 175 27 113, []) ∧
    decodeBytes [0x8A, 0xB8, 0x18, 0x63] = .ok (.dot4f8 true 24 184 138, []) ∧
    decodeBytes [0x1F, 0xD8, 0xE2, 0x65] = .ok (.ldexp true 226 216 31, []) ∧
    decodeBytes [0x79, 0x57, 0xF8, 0x6C] = .ok (.cvt false 248 87 121, []) ∧
    decodeBytes [0xC3, 0x05, 0x5A, 0x6E] = .ok (.f8pack false 90 5 195, []) ∧
    decodeBytes [0x01, 0xC0, 0x61, 0x70] = .ok (.f8unpk 97 192 1, []) ∧
    decodeBytes [0x2F, 0x87, 0xEC, 0x73] = .ok (.sfu true 236 135 47, []) ∧
    decodeBytes [0x00, 0x1B, 0x5B, 0x74] = .ok (.qamax 91 27, []) ∧
    decodeBytes [0x01, 0x2A, 0x67, 0x76] = .ok (.qscale 103 42 true, []) ∧
    decodeBytes [0xF9, 0xD3, 0x37, 0x78] = .ok (.rng 55 211 249, []) ∧
    decodeBytes [0x55, 0xB1, 0x21, 0x80] = .ok (.shfl false 33 177 85, []) ∧
    decodeBytes [0x88, 0xBE, 0x19, 0x82] = .ok (.perm false 25 190 136, []) :=
  ⟨rfl, rfl, rfl, rfl, rfl, rfl, rfl, rfl, rfl, rfl, rfl, rfl⟩

theorem test_decode_clause_vote :
    decodeBytes [0x00, 0x0C, 0x42, 0x85] = .ok (.vote 10 1 false 12, []) ∧
    decodeBytes [0x00, 0x0C, 0xB2, 0x86] = .ok (.ballot 178 12, []) ∧
    decodeBytes [0x24, 0x6B, 0x70, 0x88] = .ok (.wred 112 107 36, []) ∧
    decodeBytes [0x7E, 0x91, 0x3E, 0x8A] = .ok (.wscan false 62 145 126, []) ∧
    decodeBytes [0x18, 0xC6, 0x2C, 0x8C] = .ok (.v2s 44 198 24, []) ∧
    decodeBytes [0x00, 0xFE, 0xEF, 0x8E] = .ok (.s2v false 239 254, []) ∧
    decodeBytes [0xB8, 0xA3, 0x28, 0x90] = .ok (.sadd 40 163 184, []) ∧
    decodeBytes [0x47, 0x1C, 0x71, 0x92] = .ok (.ssub 113 28 71, []) ∧
    decodeBytes [0x9C, 0x32, 0xAB, 0x94] = .ok (.smul 171 50 156, []) ∧
    decodeBytes [0x95, 0x71, 0x04, 0x96] = .ok (.sand 4 113 149, []) ∧
    decodeBytes [0xF1, 0x9A, 0xB8, 0x98] = .ok (.sor 184 154 241, []) ∧
    decodeBytes [0x3B, 0x65, 0xF3, 0x9A] = .ok (.sxor 243 101 59, []) :=
  ⟨rfl, rfl, rfl, rfl, rfl, rfl, rfl, rfl, rfl, rfl, rfl, rfl⟩

theorem test_decode_clause_sshl :
    decodeBytes [0x63, 0xB0, 0x46, 0x9C] = .ok (.sshl 70 176 99, []) ∧
    decodeBytes [0xD0, 0xF2, 0x89, 0x9E] = .ok (.sshr 137 242 208, []) ∧
    decodeBytes [0xB9, 0x5E, 0x27, 0xA0] = .ok (.ssar 39 94 185, []) ∧
    decodeBytes [0x47, 0x9F, 0x13, 0xA2] = .ok (.smin 19 159 71, []) ∧
    decodeBytes [0x0C, 0x22, 0xE1, 0xA4] = .ok (.smax 225 34 12, []) ∧
    decodeBytes [0xAC, 0x57, 0x6F, 0xA6] = .ok (.saddi 111 87 172, []) ∧
    decodeBytes [0x74, 0xB4, 0xCE, 0xA8] = .ok (.smovi 206 0xb474, []) ∧
    decodeBytes [0x46, 0x45, 0x76, 0xAB] = .ok (.scmp 11 11 false 69 70, []) ∧
    decodeBytes [0xE4, 0x24, 0x71, 0xAC] = .ok (.sadd64 113 36 228, []) ∧
    decodeBytes [0x14, 0x05, 0xC0, 0xAE] = .ok (.ssel 192 5 20, []) ∧
    decodeBytes [0x10, 0x6E, 0xB1, 0xB1] = .ok (.tld 27 183 1, []) ∧
    decodeBytes [0xA0, 0x97, 0xC0, 0xB3] = .ok (.tst 28 75 26, []) :=
  ⟨rfl, rfl, rfl, rfl, rfl, rfl, rfl, rfl, rfl, rfl, rfl, rfl⟩

theorem test_decode_clause_tmma :
    decodeBytes [0x38, 0x4C, 0x1E, 0xB5] = .ok (.tmma 143 4 24 7, []) ∧
    decodeBytes [0x08, 0x36, 0x2B, 0xB7] = .ok (.tmmac 149 19 12 1, []) ∧
    decodeBytes [0x00, 0x00, 0xE0, 0xB9] = .ok (.tzero 30, []) ∧
    decodeBytes [0x00, 0xD0, 0x8B, 0xBB] = .ok (.tmov true 139 26, []) ∧
    decodeBytes [0xD8, 0x69, 0x98, 0xC0] = .ok (.ldb 76 52 29 4 false, []) ∧
    decodeBytes [0x4B, 0x15, 0xEF, 0xC3] = .ok (.ldh 247 138 20 5 true, []) ∧
    decodeBytes [0x26, 0xBE, 0x9B, 0xC4] = .ok (.ldw 77 223 2 3 false, []) ∧
    decodeBytes [0xEB, 0x92, 0x2A, 0xC7] = .ok (.ldd 149 73 14 5 true, []) ∧
    decodeBytes [0x54, 0xEE, 0x55, 0xC9] = .ok (.ldq 170 247 5 2 false, []) ∧
    decodeBytes [0x53, 0x23, 0x17, 0xCA] = .ok (.stb 11 145 21 1 true, []) ∧
    decodeBytes [0x6D, 0xE1, 0x82, 0xCD] = .ok (.sth 193 112 22 6 true, []) ∧
    decodeBytes [0x8C, 0xD3, 0x7C, 0xCE] = .ok (.stw 62 105 24 6 false, []) :=
  ⟨rfl, rfl, rfl, rfl, rfl, rfl, rfl, rfl, rfl, rfl, rfl, rfl⟩

theorem test_decode_clause_std :
    decodeBytes [0xA5, 0xD6, 0x98, 0xD0] = .ok (.std 76 107 10 2 true, []) ∧
    decodeBytes [0x75, 0xB4, 0x67, 0xD2] = .ok (.stq 51 218 7 2 true, []) ∧
    decodeBytes [0xFB, 0x00, 0x42, 0xD5] = .ok (.sldw 161 15 5, []) ∧
    decodeBytes [0x15, 0x01, 0xE0, 0xD7] = .ok (.sldd 240 17 2, []) ∧
    decodeBytes [0x85, 0x94, 0xE3, 0xD9] = .ok (.atom 15 28 164 5, []) ∧
    decodeBytes [0x72, 0x3B, 0x86, 0xDA] = .ok (.atomn 4 49 219 18, []) ∧
    decodeBytes [0x00, 0x00, 0xA3, 0xDC] = .ok (.fence 1 1 3, []) ∧
    decodeBytes [0x00, 0x00, 0xE0, 0xDE] = .ok (.drain 14, []) ∧
    decodeBytes [0x00, 0x80, 0x98, 0xE1] = .ok (.copy 408 4, []) ∧
    decodeBytes [0x20, 0x6A, 0x55, 0xE3] = .ok (.copyg 341 3 81, []) ∧
    decodeBytes [0xE0, 0xFA, 0xAD, 0xE4] = .ok (.copys 173 7 215, []) ∧
    decodeBytes [0x00, 0x80, 0xCA, 0xE6] = .ok (.kstat 202 4, []) :=
  ⟨rfl, rfl, rfl, rfl, rfl, rfl, rfl, rfl, rfl, rfl, rfl, rfl⟩

theorem test_decode_clause_rayq :
    decodeBytes [0x94, 0x71, 0xF2, 0xE9] = .ok (.rayq 249 56 25 4, []) ∧
    decodeBytes [0x5E, 0xF4, 0x4B, 0xEB] = .ok (.ald 165 250 47, []) ∧
    decodeBytes [0xF4, 0xF9, 0x52, 0xEC] = .ok (.ast 41 124 250, []) ∧
    decodeBytes [0x00, 0x80, 0xFB, 0xF1] = .ok (.csend 507 4, []) ∧
    decodeBytes [0x00, 0xE0, 0x3F, 0xF2] = .ok (.coll 63 7, []) ∧
    decodeBytes [0xD2, 0x7F, 0x13, 0xF4] = .ok (.wrecPost 9 191 233, []) ∧
    decodeBytes [0x00, 0x0E, 0x33, 0xF4] = .ok (.wrecTake 9 135, []) ∧
    decodeBytes [0x00, 0x00, 0x40, 0xF4] = .ok (.wrecReturn, []) ∧
    decodeBytes [0x0B, 0x8A, 0x20, 0xF9] = .ok (.bra 9 false 0x8a0b, []) ∧
    decodeBytes [0xA3, 0x94, 0xB5, 0xF9] = .ok (.brc 13 true 0x194a3, []) ∧
    decodeBytes [0xA0, 0xA5, 0x29, 0xF8] = .ok (.call 1 false 0x1a5a0, []) ∧
    decodeBytes [0xE4, 0x94, 0x0E, 0xF8] = .ok (.rcv 0x294e4, []) :=
  ⟨rfl, rfl, rfl, rfl, rfl, rfl, rfl, rfl, rfl, rfl, rfl, rfl⟩

theorem test_decode_clause_nop :
    decodeBytes [0x00, 0x00, 0x00, 0xFA] = .ok (.nop, []) ∧
    decodeBytes [0x00, 0x00, 0x08, 0xFA] = .ok (.ret, []) ∧
    decodeBytes [0x00, 0x00, 0x10, 0xFA] = .ok (.exit, []) ∧
    decodeBytes [0x00, 0x00, 0x18, 0xFA] = .ok (.yield, []) ∧
    decodeBytes [0x93, 0x7A, 0x20, 0xFA] = .ok (.trap 0x7a93, []) ∧
    decodeBytes [0x1A, 0xA1, 0x28, 0xFA] = .ok (.bkpt 0xa11a, []) ∧
    decodeBytes [0x00, 0x80, 0x37, 0xFA] = .ok (.bar 15 false, []) ∧
    decodeBytes [0x00, 0x88, 0x3A, 0xFA] = .ok (.gsync 81, []) ∧
    decodeBytes [0x00, 0xA0, 0x45, 0xFA] = .ok (.mbar 11 1, []) ∧
    decodeBytes [0xC6, 0xE6, 0x4E, 0xFA] = .ok (.waitv 27 4 6 198, []) ∧
    decodeBytes [0x6B, 0xAD, 0x57, 0xFA] = .ok (.step 0x7ad6b, []) ∧
    decodeBytes [0x00, 0xFC, 0x59, 0xFA] = .ok (.launch 7 15, []) :=
  ⟨rfl, rfl, rfl, rfl, rfl, rfl, rfl, rfl, rfl, rfl, rfl, rfl⟩

theorem test_decode_clause_grow :
    decodeBytes [0x68, 0x17, 0x60, 0xFA] = .ok (.grow 2 237, []) ∧
    decodeBytes [0x00, 0x60, 0x69, 0xFA] = .ok (.chsend 2 192, []) ∧
    decodeBytes [0x78, 0x33, 0x73, 0xFA] = .ok (.chrecv 6 102 15, []) ∧
    decodeBytes [0x00, 0x00, 0x79, 0xFA] = .ok (.chclose 2, []) ∧
    decodeBytes [0x90, 0xCD, 0x84, 0xFA] = .ok (.pref 19 54 1, []) ∧
    decodeBytes [0x20, 0xA2, 0x8E, 0xFA] = .ok (.cinv 26 136 true, []) ∧
    decodeBytes [0xC0, 0x46, 0x94, 0xFA] = .ok (.rdcpurge 17 27 false, []) ∧
    decodeBytes [0xD6, 0x11, 0x9D, 0xFA] = .ok (.csrr 0x511 214, []) ∧
    decodeBytes [0x33, 0x45, 0xA0, 0xFA] = .ok (.csrw 69 51, []) ∧
    decodeBytes [0x04, 0xDD, 0xAC, 0xFA] = .ok (.sleep 0x4dd04, []) ∧
    decodeBytes [0x00, 0xE0, 0xB4, 0xFA] = .ok (.brx 19 true, []) ∧
    decodeBytes [0x6A, 0xC5, 0x31, 0xFD] = .ok (.xp 4 24 7 2 5 21, []) :=
  ⟨rfl, rfl, rfl, rfl, rfl, rfl, rfl, rfl, rfl, rfl, rfl, rfl⟩

theorem test_decode_clause_xc :
    decodeBytes [0xF6, 0xD7, 0x58, 0xFE] = .ok (.xc 2 true 141 3 true 7 22, []) := rfl

theorem test_decode_stream_mend :
    decodeStreamBytes [0x00, 0x00, 0x00, 0x00, 0x00, 0x00, 0x00, 0x00] = .ok (.mend, []) ∧
    decodeStreamBytes [0x00, 0xCB, 0x64, 0x62, 0xBD, 0xC6, 0x8F, 0x07] = .ok (.mmac true 49 124 3 0x5eb13 0x4cb, []) ∧
    decodeStreamBytes [0x00, 0x64, 0x47, 0xF5, 0x04, 0xCE, 0xD5, 0x0B] = .ok (.mmacb true 58 92 7 0x27aa 0x764, []) ∧
    decodeStreamBytes [0x00, 0x0B, 0x4C, 0xAB, 0x1D, 0x64, 0x88, 0x0F] = .ok (.mmaci true 49 6 2 0xed5a 0xc0b, []) ∧
    decodeStreamBytes [0x00, 0xAC, 0x4C, 0xB1, 0x40, 0x83, 0xE6, 0x13] = .ok (.mcmac true 60 104 1 0xa058a 0xcac, []) ∧
    decodeStreamBytes [0x00, 0x00, 0xC8, 0x49, 0x4A, 0xC4, 0x4A, 0x15] = .ok (.msa 82 44 2 1 0x14939, []) ∧
    decodeStreamBytes [0x00, 0x00, 0x00, 0x00, 0x00, 0x68, 0x15, 0x18] = .ok (.msai 5 22 true, []) ∧
    decodeStreamBytes [0x00, 0x00, 0x00, 0x00, 0x00, 0xCC, 0x37, 0x1F] = .ok (.mclr true 155 230, []) ∧
    decodeStreamBytes [0x00, 0xAD, 0xCD, 0xBC, 0xEF, 0x89, 0xCA, 0x20] = .ok (.mout 50 40 4 7 0x5f799 0x16b4, []) ∧
    decodeStreamBytes [0x00, 0x00, 0x00, 0x00, 0x00, 0x00, 0xA0, 0x25] = .ok (.streamMbar 6 2, []) :=
  ⟨rfl, rfl, rfl, rfl, rfl, rfl, rfl, rfl, rfl, rfl⟩

theorem test_decode_stream_mset :
    decodeStreamBytes [0xCD, 0x25, 0xB6, 0x40, 0xAD, 0x4A, 0xC0, 0x28] = .ok (.mset 1 true 0x4aad40b625cd, []) ∧
    decodeStreamBytes [0x96, 0x65, 0x48, 0x54, 0xAE, 0x00, 0x40, 0x2D] = .ok (.madv 2 4 0xae54486596, []) ∧
    decodeStreamBytes [0x68, 0x8E, 0x02, 0x00, 0x00, 0x00, 0x00, 0x32] = .ok (.mloop 4 0x28e68, []) ∧
    decodeStreamBytes [0x00, 0xB1, 0x2D, 0xE9, 0xA6, 0xB5, 0x33, 0x36] = .ok (.atopk 140 237 422 7 2 0x25b62, []) ∧
    decodeStreamBytes [0x00, 0x00, 0x00, 0x00, 0xC0, 0xE2, 0xFC, 0x3A] = .ok (.asmax 191 56 5 4, []) ∧
    decodeStreamBytes [0x00, 0x01, 0x3F, 0xDB, 0x7F, 0x2A, 0x96, 0x3E] = .ok (.asample 165 138 true 1 7 7 6 6 0x67e02, []) ∧
    decodeStreamBytes [0x00, 0x00, 0x00, 0x9C, 0x65, 0x3C, 0x4A, 0x41] = .ok (.mstep 0x528f1967, []) ∧
    decodeStreamBytes [0x00, 0x00, 0x00, 0x00, 0x00, 0x00, 0x00, 0x44] = .ok (.mnop, []) ∧
    decodeStreamBytes [0x00, 0x78, 0xD3, 0xD6, 0xA6, 0xB2, 0x9D, 0x4A] = .ok (.mmace5 true 19 91 1 0x536b6 0x1378, []) :=
  ⟨rfl, rfl, rfl, rfl, rfl, rfl, rfl, rfl, rfl⟩

/-- The words with a literal (R98, R137), and the worked example of R55. -/
theorem test_decode_literals :
    decodeBytes [0x00, 0x00, 0x05, 0xBD, 0x78, 0x56, 0x34, 0x12] = .ok (.movl true 5 0x12345678, []) ∧
    decodeBytes [0x00, 0x00, 0x7F, 0xBE, 0xFF, 0xFF, 0xFF, 0xFF] = .ok (.smovl 127 0xFFFFFFFF, []) ∧
    decodeStreamBytes [0x00, 0x80, 0x00, 0x80, 0x00, 0x52, 0xF8, 0x05] = .ok (.mmac false 63 5 1 0x400 128, []) :=
  ⟨rfl, rfl, rfl⟩

/-- Bits that are no instruction are rejected by name. -/
theorem test_decode_rejects :
    decodeBytes [0, 0, 0, 0x80] = .ok (.shfl false 0 0 0, []) ∧ decodeBytes [0, 0, 0, 0xEE] = .error .undefinedOpcode ∧
    decodeBytes [1, 0, 0, 0xFA] = .error (.fixedBits "NOP") ∧ decodeBytes [0, 0, 0] = .error .truncated ∧
    decodeBytes [0, 0, 0, 0xBC, 0] = .error .truncated ∧
    decodeStreamBytes [0, 0, 0, 0, 0, 0, 0, 0x4C] = .error .undefinedStreamOpcode ∧
    decodeStreamBytes [1, 0, 0, 0, 0, 0, 0, 0x44] = .error (.fixedBits "MNOP") := ⟨rfl, rfl, rfl, rfl, rfl, rfl, rfl⟩

/-! ### The words of the spec's worked examples -/

/-- Words of 04, 05, 06, 10, 11, 12 and 08 with the bytes their sums give. -/
theorem test_decode_examples :
    decodeBytes (bytes32 0x3C020100) = .ok (.mov false 2 1, []) ∧ decodeBytes (bytes32 0x3EC20304) = .ok (.icmp 6 1 false 3 4, []) ∧
    decodeBytes (bytes32 0x3EC30304) = .ok (.icmp 6 1 true 3 4, []) ∧ decodeBytes (bytes32 0x6C0C0408) = .ok (.cvt false 12 4 8, []) ∧
    decodeBytes (bytes32 0x741E2800) = .ok (.qamax 30 40, []) ∧ decodeBytes (bytes32 0x761F1E00) = .ok (.qscale 31 30 false, []) ∧
    decodeBytes (bytes32 0x7810020A) = .ok (.rng 16 2 10, []) ∧ decodeBytes (bytes32 0x86140100) = .ok (.ballot 20 1, []) ∧
    decodeBytes (bytes32 0x88150100) = .ok (.wred 21 1 0, []) ∧ decodeBytes (bytes32 0x80030102) = .ok (.shfl false 3 1 2, []) ∧
    decodeBytes (bytes32 0x82040102) = .ok (.perm false 4 1 2, []) := ⟨rfl, rfl, rfl, rfl, rfl, rfl, rfl, rfl, rfl, rfl, rfl⟩

theorem test_decode_examples_more :
    decodeBytes (bytes32 0xC4060E24) = .ok (.ldw 3 7 2 2 false, []) ∧ decodeBytes (bytes32 0xCE020031) = .ok (.stw 1 0 3 0 true, []) ∧
    decodeBytes (bytes32 0xD92100E2) = .ok (.atom 9 8 7 2, []) ∧ decodeBytes (bytes32 0xDD230000) = .ok (.fence 2 1 3, []) ∧
    decodeBytes (bytes32 0xDC820000) = .ok (.fence 1 0 2, []) ∧ decodeBytes (bytes32 0xE2102500) = .ok (.copyg 16 1 40, []) ∧
    decodeBytes (bytes32 0xE61E2000) = .ok (.kstat 30 1, []) ∧ decodeBytes (bytes32 0xB4200080) = .ok (.tmma 16 0 1 0, []) ∧
    decodeBytes (bytes32 0xFA40A000) = .ok (.mbar 1 1, []) ∧ decodeBytes (bytes32 0xFA404000) = .ok (.mbar 0 2, []) ∧
    decodeBytes (bytes32 0xEA05E800) = .ok (.ald 2 244 0, []) ∧ decodeBytes (bytes32 0xE8203042) = .ok (.rayq 16 24 4 2, []) ∧
    decodeBytes (bytes32 0xDDB10000) = .ok (.fence 3 1 17, []) :=
  ⟨rfl, rfl, rfl, rfl, rfl, rfl, rfl, rfl, rfl, rfl, rfl, rfl, rfl⟩

theorem test_decode_examples_stream :
    decodeStreamWord 0x2460000000000000 = .ok (.streamMbar 1 2) ∧ decodeStreamWord 0x290000003F000000 = .ok (.mset 2 false 0x3F000000) ∧
    decodeStreamWord 0x1E00000000000000 = .ok (.mclr true 0 0) ∧ decodeStreamWord 0x04000E0000008000 = .ok (.mmac false 0 0 7 0 128) ∧
    decodeStreamWord 0x140005C008000000 = .ok (.msa 0 0 2 7 0x100) ∧ decodeStreamWord 0x04001E0010008000 = .ok (.mmac false 0 1 7 0x80 128) ∧
    decodeStreamWord 0x2410000000000000 = .ok (.streamMbar 0 1) ∧ decodeStreamWord 0 = .ok .mend ∧
    decodeStreamWord 0x341000057C010000 = .ok (.atopk 4 0 5 3 7 0x200) := ⟨rfl, rfl, rfl, rfl, rfl, rfl, rfl, rfl, rfl⟩

/-! ### Ill-formed terms: one for each check -/

/-- A flit of a type that came in sequence, from device 5 to this device. -/
def flit0 (typ : BitVec 4) (payload : List Byte) : Flit :=
  { typ := typ, hop := 0, dst := 0, src := 5, via := 1023, tagIdx := 7, tagGen := 0, ctx := 1, cls := 0, cvc := 7, ccnt := 3, lack := 0,
    sec := 0, lseq := 0, payload := payload }
/-- A flit whose payload is too long. -/
def longFlit : Flit :=
  { typ := 0, hop := 0, dst := 0, src := 0, via := 0, tagIdx := 0, tagGen := 0, ctx := 0, cls := 0, cvc := 0, ccnt := 0, lack := 0, sec := 0,
    lseq := 0, payload := List.replicate 113 0 }

theorem test_illformed_core_steps :
    (Instr.clauseSelect 768 0 true).wf = false ∧ (Instr.clauseSelect 767 6 true).wf = false ∧ (Instr.deferredMove 0 32).wf = false ∧
    (Instr.instructionFetchComplete 768 0 0).wf = false ∧ (Instr.instructionFetchComplete 0 64 0).wf = false ∧
    (Instr.wavePromote 0 32).wf = false ∧ (Instr.resultWriteback 0 32).wf = false ∧ (Instr.storeLeaveCore 0 32).wf = false ∧
    (Instr.loadComplete 0 32).wf = false ∧ (Instr.atomReturn 0 32).wf = false ∧ (Instr.abortCompletion (.lanes 0 32 .atom 1)).wf = false ∧
    (Instr.abortCompletion (.part 0 0 5 0)).wf = false ∧ (Instr.abortCompletion (.copy 768)).wf = false ∧
    (Instr.abortCompletion (.corrected 9)).wf = false ∧ (Instr.abortCompletion (.sram (.l1 0 0 0 16) 0)).wf = false ∧
    (Instr.abortCompletion (.sram (.icache 768 0 0) 0)).wf = false ∧ (Instr.abortCompletion (.sram (.ray 0 64 0) 0)).wf = false ∧
    (Instr.abortCompletion (.sram (.tlb none 8 0 0 false) 0)).wf = false ∧ (Instr.abortCompletion (.sram (.l2 (2 ^ 33) 0) 0)).wf = false ∧
    (Instr.abortCompletion (.sram (.rdc 8 none 0 0) 0)).wf = false ∧ (Instr.abortCompletion (.sram (.lanes 5 0 0 0) 0)).wf = false ∧
    (Instr.abortCompletion (.sram (.scalar 0 32) 0)).wf = false ∧ (Instr.abortCompletion (.sram (.stream 4 0) 0)).wf = false ∧
    (Instr.abortCompletion (.sram (.mantle 64) 0)).wf = false ∧
    (Instr.abortCompletion (.mantle 64)).wf = false ∧ (Instr.strikeRollback 768).wf = false ∧ (Instr.strikeUncore 9).wf = false ∧
    (Instr.residueReissue 0 0 33 true).wf = false ∧ (Instr.columnRemap 0 65 true).wf = false ∧ (Instr.sleepExpire 0 32).wf = false ∧
    (Instr.setPhaseComplete 0 256).wf = false ∧ (Instr.waitvReread 0 32).wf = false ∧ (Instr.fenceComplete 0 32).wf = false ∧
    (Instr.drainComplete 0 32).wf = false ∧ (Instr.copySector 768).wf = false ∧ (Instr.streamOwnerChange 768).wf = false ∧
    (Instr.rayqComplete 0 32).wf = false ∧ (Instr.clauseSelect 767 5 true).wf = true := by decide

theorem test_illformed_launch_steps :
    (Instr.launchPacket 256 (List.replicate 64 0)).wf = false ∧ (Instr.launchPacket 0 (List.replicate 63 0)).wf = false ∧
    (Instr.resume 256 (List.replicate 64 0)).wf = false ∧ (Instr.resume 0 []).wf = false ∧ (Instr.qownWrite 16 0).wf = false ∧
    (Instr.registerWrite 2 0).wf = false ∧ (Instr.launchStart 16).wf = false ∧ (Instr.memoryWaitReread 16).wf = false ∧
    (Instr.blockStart 768).wf = false ∧ (Instr.stealRequest 768).wf = false ∧ (Instr.pocketFrameGrant 64).wf = false ∧
    (Instr.requestEntryWrite 64).wf = false ∧ (Instr.trapRecordWrite 64).wf = false ∧ (Instr.deadlineExpire 768 0).wf = false ∧
    (Instr.deadlineExpire 0 64).wf = false ∧ (Instr.hostWrite (2 ^ 40) [0]).wf = false ∧
    (Instr.launchPacket 255 (List.replicate 64 0)).wf = true := by decide +kernel

theorem test_illformed_fabric_steps :
    (Instr.linkTraining 32 0 0).wf = false ∧ (Instr.linkTraining 0 993 0).wf = false ∧ (Instr.linkTraining 0 0 32).wf = false ∧
    (Instr.nullFlit 0 longFlit).wf = false ∧ (Instr.readFlit 32 (flit0 1 [])).wf = false ∧ (Instr.writeFlit 0 longFlit).wf = false ∧
    (Instr.atomFlit 0 longFlit).wf = false ∧ (Instr.recFlit 0 longFlit).wf = false ∧ (Instr.collFlit 0 longFlit).wf = false ∧
    (Instr.rdataFlit 0 longFlit).wf = false ∧ (Instr.wackFlit 0 longFlit).wf = false ∧ (Instr.arspFlit 0 longFlit).wf = false ∧
    (Instr.abortFlit 0 longFlit).wf = false ∧ (Instr.totalsFlit 0 longFlit).wf = false ∧ (Instr.lendFlit 0 longFlit).wf = false ∧
    (Instr.linkNak 0 longFlit).wf = false ∧ (Instr.flitForward 0 longFlit).wf = false ∧ (Instr.lendingRound 32).wf = false ∧
    (Instr.lendResend 32).wf = false ∧ (Instr.totalsSend 993 0).wf = false ∧ (Instr.totalsSend 0 128).wf = false ∧
    (Instr.requestTimeout 993 0).wf = false ∧ (Instr.requestTimeout 0 1024).wf = false ∧ (Instr.tagQuarantineEnd 0 1024).wf = false ∧
    (Instr.staleDrop 32).wf = false ∧ (Instr.crcFailure 32 (flit0 1 [])).wf = false ∧ (Instr.collAccept 0 32).wf = false ∧
    (Instr.priorityAgeing 64).wf = false ∧ (Instr.chunkLost 64).wf = false ∧ (Instr.uetMessage 4096 []).wf = false ∧
    (Instr.commFree 64).wf = false ∧ (Instr.uetRetransmission 4096).wf = false ∧ (Instr.uetAcknowledgement 4096).wf = false ∧
    (Instr.nullFlit 31 (flit0 0 [])).wf = true := by decide +kernel

/-- A transfer without an error. -/
def burst0 : Burst :=
  { fails := 0, beat := 0, half := 0, lane := none, corrected := false, uncorrectable := false, bit := 0, bank := 0, row := 0, burst := 0 }

theorem test_illformed_management_steps :
    (Instr.hbmReadTransfer 32 burst0).wf = false ∧ (Instr.hbmWriteTransfer (2 ^ 40) burst0).wf = false ∧ (Instr.throttleStep 9 ⟨0, 40, 0⟩).wf = false ∧ (Instr.throttleStep 8 ⟨0, 2 ^ 16, 0⟩).wf = false ∧
    (Instr.mchkEntryFree 768 0).wf = false ∧ (Instr.mchkEntryFree 0 4).wf = false ∧ (Instr.logEntryFree 16 true 0).wf = false ∧
    (Instr.logEntryFree 0 true 64).wf = false ∧ (Instr.mread 65536 0 0).wf = false ∧ (Instr.mread 0 (2 ^ 32) 0).wf = false ∧
    (Instr.mwrite 0 0 (List.replicate 1024 0)).wf = false ∧ (Instr.ctxwrite 0 0 []).wf = false ∧ (Instr.preempt 65536 0).wf = false ∧
    (Instr.preemptCut 0 0 (2 ^ 32) 0).wf = false ∧ (Instr.unpreempt 0 (2 ^ 32)).wf = false ∧ (Instr.resetctx 65536 0).wf = false ∧
    (Instr.invalidate 0 (2 ^ 32) 0 0).wf = false ∧ (Instr.commcreate 0 (2 ^ 32) 0).wf = false ∧ (Instr.commretire 0 (2 ^ 32)).wf = false ∧
    (Instr.recarea 0 0 0 (2 ^ 32)).wf = false ∧ (Instr.uetpeer 0 0 []).wf = false ∧ (Instr.keyset 0 0 (2 ^ 32) 0).wf = false ∧
    (Instr.keyempty 0 0 (2 ^ 32)).wf = false ∧ (Instr.mint 0 0 0 0 0 0 0 (2 ^ 32)).wf = false ∧ (Instr.window 0 (2 ^ 32) 0).wf = false ∧
    (Instr.fenceCommand 0 0 (2 ^ 32)).wf = false ∧ (Instr.unfence 0 (2 ^ 32) 0).wf = false ∧ (Instr.route 0 (2 ^ 32) 0).wf = false ∧
    (Instr.fwupdate 0 0 (2 ^ 32)).wf = false ∧ (Instr.attest 0 []).wf = false ∧ (Instr.clock 0 0 (2 ^ 32)).wf = false ∧
    (Instr.freeze 65536).wf = false ∧ (Instr.repairclr 0 (2 ^ 32)).wf = false ∧ (Instr.unlistedCommandCode 256 0).wf = false ∧
    (Instr.mread 65535 0 1).wf = true := by decide +kernel

/-! ### Hypotheses that are met: register words -/

theorem witness_IntegerArithmetic : Issues s0 c0 (formV3 0x00 xcIntSat false 4 false 1 2 3) ∧
    Issues s0 c0 (formV3 0x01 xcIntSat false 4 false 0 239 0xF7) ∧ Issues s0 c0 (formV3 0x02 xcInt false 4 true 0 2 3) ∧
    Issues s0 c0 (formV3 0x05 xcIntC true 4 false 1 2 3) := ⟨issues0 rfl rfl, issues0 rfl rfl, issues0 rfl rfl, issues0 rfl rfl⟩

theorem witness_IntegerLogicAndShifts : Issues s0 c0 (formV3 0x0A xcInt false 4 false 1 2 3) ∧
    Issues s0 c0 (formV3 0x14 xcIntC true 4 false 1 2 3) ∧ Issues s0 c0 (formV3 0x2F xcIntC true 6 false 1 2 3) :=
  ⟨issues0 rfl rfl, issues0 rfl rfl, issues0 rfl rfl⟩

theorem witness_UnaryAndImmediate : Issues s0 c0 (formU 0x12 xcUn true 4 false 1 2) ∧ Issues s0 c0 (formU 0x15 xcImmHi true 4 false 1 2) ∧
    Issues s0 c0 (formVm 0x1C true false true false 1) ∧ Issues s0 c0 (formVm 0x1D false true true false 1) ∧
    Issues s0 c0 (formVm 0x5E false false false false 1) ∧ Issues s0 c0 (formU 0x26 { xcUn with rnd := true } true 4 false 1 2) :=
  ⟨issues0 rfl rfl, issues0 rfl rfl, issues0 rfl rfl, issues0 rfl rfl, issues0 rfl rfl, issues0 rfl rfl⟩

theorem witness_FloatingPoint : Issues s0 c0 (formV3 0x20 xcFp false 4 false 1 2 3) ∧ Issues s0 c0 (formV3 0x23 xcFpC true 4 false 1 2 3) ∧
    Issues s0 c0 (formV3 0x24 xcInt false 4 false 1 2 3) ∧ Issues s0 c0 (formV3 0x32 xcFp false 6 false 1 2 3) :=
  ⟨issues0 rfl rfl, issues0 rfl rfl, issues0 rfl rfl, issues0 rfl rfl⟩

theorem witness_PackedAndDot : Issues s0 c0 (formV3 0x29 xcFp false 4 false 1 2 3) ∧ Issues s0 c0 (formV3 0x2B xcFpC true 4 false 1 2 3) ∧
    Issues s0 c0 (formV3 0x30 xcFpC true 6 false 1 2 3) := ⟨issues0 rfl rfl, issues0 rfl rfl, issues0 rfl rfl⟩

theorem witness_ComparesAndSelect : Issues s0 c0 (formCmp 0x1F true 15 true 1 2) ∧ Issues s0 c0 (formCmp 0x27 true 0 false 1 2) ∧
    Issues s0 c0 (formVote 0 1 true 2) ∧ Issues (sx 0x7000) (cx 0x7000) (formSel false 1 2 3) :=
  ⟨issues0 rfl rfl, issues0 rfl rfl, issues0 rfl rfl, ⟨rfl, rfl, rfl, rfl⟩⟩

theorem witness_ConversionsAndQuantisation : Issues s0 c0 (formCvt false 1 2 0) ∧ Issues s0 c0 (formF8pack false 1 4 2) ∧
    Issues s0 c0 (formF8unpk 4 1 2) ∧ Issues s0 c0 (formSfu false 1 2 0) ∧ Issues s0 c0 (formQamax 1 4) ∧ Issues s0 c0 (formQscale 1 2) ∧
    Issues s0 c0 (formRng 4 1 2) :=
  ⟨issues0 rfl rfl, issues0 rfl rfl, issues0 rfl rfl, issues0 rfl rfl, issues0 rfl rfl, issues0 rfl rfl, issues0 rfl rfl⟩

theorem witness_LaneExchange : Issues s0 c0 (formV3 0x40 xcInt false 6 false 1 2 3) ∧ Issues s0 c0 (formBallot 1 2) ∧
    Issues s0 c0 (formWred 1 2 0) ∧ Issues s0 c0 (formU 0x45 xcUn true 12 false 1 2) ∧ Issues s0 c0 (formV2s 1 2) ∧
    Issues s0 c0 (formS2v false 1 2) ∧ permSender c0 3 0 32 = some 0 ∧ permSender c0 3 1 32 = none :=
  ⟨issues0 rfl rfl, issues0 rfl rfl, issues0 rfl rfl, issues0 rfl rfl, issues0 rfl rfl, issues0 rfl rfl, by decide, by decide⟩

theorem witness_QamaxDeliversTheLargest : Issues s0 c0 (formQamax 1 4) ∧ c0.execMask ≠ 0 ∧
    Issues (sx 0x100000) (cx 0x100000) (formQamax 1 4) ∧ (cx 0x100000).execMask = 0 :=
  ⟨issues0 rfl rfl, by decide, ⟨rfl, rfl, rfl, rfl⟩, by decide⟩

theorem witness_WredDeliversTheIdentity : Issues (sx 0x100000) (cx 0x100000) (formWred 1 2 0) ∧
    Issues (sx 0x100000) (cx 0x100000) (formWred 1 2 10) ∧ (cx 0x100000).execMask = 0 :=
  ⟨⟨rfl, rfl, rfl, rfl⟩, ⟨rfl, rfl, rfl, rfl⟩, by decide⟩

theorem witness_ScalarWords : Issues s0 c0 (formS3 0x48 1 1 2 3) ∧ Issues s0 c0 (formSaddi 1 2) ∧ Issues s0 c0 (formSmov 0x54 true 1) ∧
    Issues s0 c0 (formSmov 0x5F false 1) ∧ Issues (sx 0xF000) (cx 0xF000) (formSsel 1 2 3) ∧ Issues s0 c0 (formS3 0x56 2 2 4 6) ∧
    Issues s0 c0 (formScmp 0 1 true 2 3) ∧ c0.scalarTakes = true :=
  ⟨issues0 rfl rfl, issues0 rfl rfl, issues0 rfl rfl, issues0 rfl rfl, ⟨rfl, rfl, rfl, rfl⟩, issues0 rfl rfl, issues0 rfl rfl, rfl⟩

theorem witness_TileWords : Issues s0 c0 (formFrag 0x5A true true 40 8 0 2 false) ∧ Issues s0 c0 (formFrag 0x5B true true 72 8 0 2 true) ∧
    Issues s0 c0 (formTmov true 4 31) ∧ Issues s0 c0 (formTmov false 4 0) ∧ Issues s0 c0 (formTzero 31) :=
  ⟨issues0 rfl rfl, issues0 rfl rfl, issues0 rfl rfl, issues0 rfl rfl, issues0 rfl rfl⟩

/-! ### Hypotheses that are met: memory words -/

/-- `c0`'s wave with S0 and S1 holding an address. -/
def wAddr (lo hi : Word) : Wave := { c0.wv with s := [(0, lo), (1, hi)] }
/-- The machine of that wave. -/
def sa (lo hi : Word) : State := mk (readyIssue 1) c0.blk (wAddr lo hi)
/-- Its word. -/
def ca (lo hi : Word) : Cur := cm (readyIssue 1) c0.blk (wAddr lo hi)

/-- `s0` with its one page uncached. -/
def sUnc : State := { s0 with mem := setRun 0 (readyMem [] []) 0x20000 [0x7B, 0, 0, 0, 0, 2] }

/-- A load of four bytes from an uncached page, and one lane's byte from this device's memory. -/
theorem witness_LoadsIssue_bytes :
    (Issues sUnc c0 (formM 0x62 4 false 1 2 0 false) ∧ Goes sUnc c0 0x62 { r := true } c0.execMask (c0.laneAddr 0 2 4 false 0) 4 true ∧
      c0.acquires = none ∧ c0.execMask.getLsbD 0 = true ∧ inAperture (c0.laneAddr 0 2 4 false 0 0) = false ∧
      sUnc.translate 0 1 { r := true } (c0.laneAddr 0 2 4 false 0 0) = .ok { space := .here, pa := 0, policy := 2 } ∧
      ∀ i, i < 4 → sUnc.loadByte 0 1 c0.wv (c0.laneAddr 0 2 4 false 0 0 + BitVec.ofNat 64 i) { space := .here, pa := i, policy := 2 } = some 0) ∧
    (inAperture 0x1000 = false ∧ inAperture 0xFFFFFFFFFF07FFF0 = true ∧
      s0.translate 0 1 { r := true } 0x1000 = .ok { space := .here, pa := 0x1000, policy := 0 } ∧
      s0.loadByte 0 1 c0.wv 0x1000 { space := .here, pa := 0x1000, policy := 0 } = some 0x7F ∧
      ({ s0 with rel := { s0.rel with badBytes := [0x1000] } } : State).loadByte 0 1 c0.wv 0x1000 { space := .here, pa := 0x1000, policy := 0 } = none) :=
  ⟨⟨⟨rfl, rfl, rfl, rfl⟩, ⟨rfl, rfl, rfl⟩, rfl, rfl, rfl, rfl, by decide⟩, rfl, rfl, rfl, rfl, by decide⟩

theorem witness_LoadsIssue :
    (Issues s0 c0 (formM 0x62 4 false 1 2 0 false) ∧
      Goes s0 c0 0x62 { r := true } c0.execMask (c0.laneAddr 0 2 4 false (c0.memImm 3)) 4 true) ∧
    (Issues s0 c0 (formM 0x60 1 false 1 2 0 false) ∧
      Goes s0 c0 0x60 { r := true } c0.execMask (c0.laneAddr 0 2 1 false (c0.memImm 0)) 1 true) ∧
    (Issues (sa 0xFF07FFF0 0xFFFFFFFF) (ca 0xFF07FFF0 0xFFFFFFFF) (formM 0x64 16 false 4 0 0 true) ∧
      Goes (sa 0xFF07FFF0 0xFFFFFFFF) (ca 0xFF07FFF0 0xFFFFFFFF) 0x64 { r := true } 1
        ((ca 0xFF07FFF0 0xFFFFFFFF).laneAddr 0 0 16 true 0) 16 true) ∧
    (Issues s0 c0 (formSload 0x6B 8 2 0) ∧ Goes s0 c0 0x6B { r := true } 1 (scalarAddr 0 1 8 c0) 8 true) ∧
    (Issues s0 c0 (formTile 0x58 false 31 4 0) ∧ Goes s0 c0 0x58 { r := true } c0.liveMask (c0.laneAddr 0 4 16 false 0) 16 true) :=
  ⟨⟨issues0 rfl rfl, rfl, rfl, rfl⟩, ⟨issues0 rfl rfl, rfl, rfl, rfl⟩, ⟨⟨rfl, rfl, rfl, rfl⟩, rfl, rfl, rfl⟩, ⟨issues0 rfl rfl, rfl, rfl, rfl⟩,
   ⟨issues0 rfl rfl, rfl, rfl, rfl⟩⟩

/-- A load of `n` bytes into `dest`, its data here. -/
def landed (dest : LoadDest) (data : List (Nat × List Byte)) : LoadOp :=
  { part := 0, dest := dest, data := data, killed := 0, waits := [], acqScope := none, issued := 0, due := 0 }
/-- A machine whose wave waits for the load. -/
def sLoad (l : LoadOp) : State := mk (readyIssue 1) c0.blk { c0.wv with loads := [l] }
/-- Its block. -/
def bLoad (l : LoadOp) : Block := { c0.blk with waves := [{ c0.wv with loads := [l] }] }

theorem witness_LoadsComplete : (∀ l ∈ [landed (.vec 3 1) [(0, [1, 2, 3, 4])], landed (.scalar 510 2) [(0, [1, 2, 3, 4, 5, 6, 7, 8])],
      landed (.tile 31) [(0, List.replicate 16 9)]],
    (sLoad l).block? 1 = some (bLoad l) ∧ (bLoad l).wave? 0 = some { c0.wv with loads := [l] } ∧
    ({ c0.wv with loads := [l] } : Wave).loadDone (sLoad l).now = some l ∧ l.killed = 0) ∧
    sqByte { c0.wv with sq := [(0, .store 0 [(0, 8, [7])] none 0)] } 8 = some 7 ∧ sqByte c0.wv 8 = none ∧
    s0.l1Line 0 1 0 = none ∧ (∀ r ∈ s0.rdc, r.ctx ≠ none ∨ r.die ≠ dieOf 0) := by decide

theorem witness_StoresIssue :
    (Issues s0 c0 (formM 0x67 4 true 1 2 0 false) ∧ Goes s0 c0 0x67 { w := true } c0.execMask (c0.laneAddr 0 2 4 false (c0.memImm 0)) 4 false ∧
      ((lanesOf c0.execMask).any fun l => inAperture (c0.laneAddr 0 2 4 false (c0.memImm 0) l)) = false) ∧
    (let s := sa 0xFF07FFFC 0xFFFFFFFF; let c := ca 0xFF07FFFC 0xFFFFFFFF
     Issues s c (formM 0x67 4 true 1 0 0 true) ∧ Goes s c 0x67 { w := true } c.execMask (c.laneAddr 0 0 4 true (c.memImm 0)) 4 false ∧
      ((lanesOf c.execMask).any fun l => inAperture (c.laneAddr 0 0 4 true (c.memImm 0) l)) = true ∧ c.releases = none ∧
      c.wv.storesQueued = false ∧ c.wv.releaseReady (c.releases.getD 0) = true ∧
      (if cacheRelease c.releases then s.releaseL1 0 1 else .ok s) = .ok s ∧ s.releaseWaits 0 1 c.releases = false) ∧
    (Issues s0 c0 (formTile 0x59 true 31 4 0) ∧ Goes s0 c0 0x59 { w := true } c0.liveMask (c0.laneAddr 0 4 16 false 0) 16 false) :=
  ⟨⟨issues0 rfl rfl, ⟨rfl, rfl, rfl⟩, rfl⟩, ⟨⟨rfl, rfl, rfl, rfl⟩, ⟨rfl, rfl, rfl⟩, rfl, rfl, rfl, rfl, rfl, rfl⟩, ⟨issues0 rfl rfl, rfl, rfl, rfl⟩⟩

theorem witness_AtomicsIssue :
    (Issues s0 c0 (formAtom 0x6C true 9 2 1 0) ∧
      Goes s0 c0 0x6C { r := true, w := true, a := true } c0.execMask (c0.laneAddr 0 1 4 false 0) 4 false) ∧
    (let s := sa 0xFF000000 0xFFFFFFFF; let c := ca 0xFF000000 0xFFFFFFFF
     Issues s c (formAtom 0x6D false 10 2 1 0) ∧
      Goes s c 0x6D { r := true, w := true, a := true } c.execMask (c.laneAddr 0 1 4 false 0) 4 false ∧
      ((lanesOf c.execMask).any fun l => inAperture (c.laneAddr 0 1 4 false 0 l)) = true ∧ c.releases = none ∧
      c.wv.storesQueued = false ∧ c.wv.releaseReady (c.releases.getD 0) = true ∧ cacheRelease c.releases = false ∧
      s.releaseWaits 0 1 c.releases = false) :=
  ⟨⟨issues0 rfl rfl, rfl, rfl, rfl⟩, ⟨⟨rfl, rfl, rfl, rfl⟩, ⟨rfl, rfl, rfl⟩, rfl, rfl, rfl, rfl, rfl, rfl⟩⟩

theorem witness_FenceAndDrainHold : Issues s0 c0 (formHold 0x6E ((1 : BitVec 5) != 0)) ∧ Issues s0 c0 (formHold 0x6F ((31 : BitVec 5) != 0)) :=
  ⟨issues0 rfl rfl, issues0 rfl rfl⟩

/-- A hold of a fence since cycle 0. -/
def hold0 (acq rel : Bool) (inval : Option (Option (List Nat))) : Hold :=
  { opcode := 0x6E, pos := 0, part := 0, acq := acq, rel := rel, scope := 3, mask := 0x1F, mark := 0, since := 0, inval := inval }
/-- A machine past the strike window whose wave is held. -/
def sHold (r : WaveRun) : State := { mk (readyIssue 1) c0.blk { c0.wv with run := r } with now := 257 }
/-- A write-back of context 1 from core 0 that waits to be sent to device 5. -/
def evict0 : Queued :=
  { flit := { typ := 2, hop := 0, dst := 5, src := 0, via := 1023, tagIdx := 0, tagGen := 0, ctx := 1, cls := 0, cvc := 0, ccnt := 0, lack := 0,
              sec := 0, lseq := 0, payload := [] },
    req := some { rid := 1, dev := 5, sector := 4, count := 1, ctx := 1, fill := none, l1 := none, slot := none, owner := .evict 0 },
    packet := .single 1, since := 0 }
/-- The machine that has posted it. -/
def evicts (s : State) : State := { s with sv := { s.sv with egress := [evict0] } }
/-- Its block. -/
def bHold (r : WaveRun) : Block := { c0.blk with waves := [{ c0.wv with run := r }] }

theorem witness_FenceAndDrainComplete :
    (∀ h ∈ [hold0 true false none, hold0 false true none, hold0 true true none],
      (sHold (.fence h)).block? 1 = some (bHold (.fence h)) ∧ (bHold (.fence h)).wave? 0 = some { c0.wv with run := .fence h } ∧
      h.inval = none ∧ fenceReady (sHold (.fence h)) (bHold (.fence h)) { c0.wv with run := .fence h } h = true) ∧
    (sHold (.fence (hold0 true true none))).releaseL1 0 1 = .ok (sHold (.fence (hold0 true true none))) ∧
    ((sHold (.fence (hold0 true true none))).releaseWaits 0 1 (some 3) = false ∧
      (evicts (sHold (.fence (hold0 false true none)))).releaseL1 0 1 = .ok (evicts (sHold (.fence (hold0 false true none)))) ∧
      (evicts (sHold (.fence (hold0 false true none)))).releaseWaits 0 1 (some 3) = true ∧
      fenceReady (evicts (sHold (.fence (hold0 false true none)))) (bHold (.fence (hold0 false true none)))
        { c0.wv with run := .fence (hold0 false true none) } (hold0 false true none) = true) ∧
    ((sHold (.drain (hold0 false false none))).block? 1 = some (bHold (.drain (hold0 false false none))) ∧
      ((sHold (.drain (hold0 false false none))).core 0).copies = []) := ⟨by decide, rfl, ⟨rfl, rfl, rfl, rfl⟩, rfl, rfl⟩

theorem witness_ReleaseAndAcquire : s0.releaseL1 0 1 = .ok s0 ∧ (2 : Nat) ≤ 2 ∧ (1 : Nat) < 2 := ⟨rfl, by decide, by decide⟩

theorem witness_CacheWords : (Issues s0 c0 (formCache ((2 : BitVec 2) != 3) false 0 1) ∧ Issues s0 c0 (formCache true false 0 1) ∧
      Issues s0 c0 (formCache true true 0 0)) ∧
    ∀ i ∈ [none, some [0, 1]], let h := hold0 false false (some i)
      (sHold (.fence h)).block? 1 = some (bHold (.fence h)) ∧ (bHold (.fence h)).wave? 0 = some { c0.wv with run := .fence h } ∧
      h.acq = false ∧ (sHold (.fence h)).aged 0 h.since = true ∧
      cinvLines 0 1 (i.getD (((sHold (.fence h)).l1Of 0 1).map L1Line.line)) (sHold (.fence h)) = .ok (sHold (.fence h)) ∧
      (sHold (.fence h)).evicting 0 1 = false ∧
      cinvLines 0 1 (i.getD (((evicts (sHold (.fence h))).l1Of 0 1).map L1Line.line)) (evicts (sHold (.fence h))) = .ok (evicts (sHold (.fence h))) ∧
      (evicts (sHold (.fence h))).evicting 0 1 = true :=
  ⟨⟨issues0 rfl rfl, issues0 rfl rfl, issues0 rfl rfl⟩, by
    intro i hi
    simp only [List.mem_cons, List.not_mem_nil, or_false] at hi
    rcases hi with rfl | rfl <;> exact ⟨rfl, rfl, rfl, by decide, rfl, rfl, rfl, rfl⟩⟩

theorem witness_WindowWords : (Issues s0 c0 (formAcc 0x75 false 1 2 255) ∧ c0.badOffsets 2 = 0) ∧
    (Issues s0 c0 (formAcc 0x76 true 1 2 0) ∧ c0.wv.acqPending = false) ∧
    (let w := { c0.wv with v := [(64, 4097)] }
     Issues (mk (readyIssue 1) c0.blk w) (cm (readyIssue 1) c0.blk w) (formAcc 0x75 false 1 2 255) ∧
     Issues (mk (readyIssue 1) c0.blk w) (cm (readyIssue 1) c0.blk w) (formAcc 0x76 true 1 2 255) ∧
     (cm (readyIssue 1) c0.blk w).badOffsets 2 ≠ 0) ∧
    (let w := { c0.wv with v := [(64, 4096)] }
     Issues (mk (readyIssue 1) c0.blk w) (cm (readyIssue 1) c0.blk w) (formAcc 0x75 false 1 2 255) ∧
     (cm (readyIssue 1) c0.blk w).badOffsets 2 = 0) :=
  ⟨⟨issues0 rfl rfl, rfl⟩, ⟨issues0 rfl rfl, rfl⟩, ⟨⟨rfl, rfl, rfl, rfl⟩, ⟨rfl, rfl, rfl, rfl⟩, by decide⟩, ⟨rfl, rfl, rfl, rfl⟩, rfl⟩

/-- A machine whose wave's oldest atomic adds 5 at address 16. -/
def wAtom : Wave := { c0.wv with atoms := [.atom 0 0 (some 3) [(0, 16, 5, 0)] none none 0] }
/-- Its block. -/
def bAtom : Block := { c0.blk with waves := [wAtom] }

theorem witness_AtomicsReturn : ((mk (readyIssue 1) c0.blk wAtom).block? 1 = some bAtom ∧ bAtom.wave? 0 = some wAtom ∧
      (atomLanes bAtom 0 [(0, 16, 5, 0)] (mk (readyIssue 1) c0.blk wAtom)).2.1 = 0) ∧
    s0.l1Line 0 1 0 = none ∧ s0.translate 0 1 { r := true, w := true, a := true } 16 = .ok { space := .here, pa := 16, policy := 0 } ∧
    s0.isBad 16 4 = false := ⟨⟨rfl, rfl, rfl⟩, rfl, rfl, rfl⟩

/-- A wave whose oldest store, of four bytes at 16, is from cycle 0. -/
def wStore : Wave := { c0.wv with sq := [(0, .store 0 [(0, 16, [1, 2, 3, 4])] none 0)] }
/-- The L1 line that holds its bytes. -/
def line0 : L1Line := { core := 0, ctx := 1, line := 0, streaming := false, pinned := false, valid := 0, dirty := 0, bad := 0, data := [] }
/-- The machine, past the strike window. -/
def sStore (l1 : List L1Line) : State := { mk (readyIssue 1) c0.blk wStore with now := 257, l1 := l1 }

theorem witness_StoresLeave : ((sStore [line0]).block? 1 = some { c0.blk with waves := [wStore] } ∧
      (sStore [line0]).aged 0 0 = true ∧ wStore.atoms = [] ∧
      (sStore [line0]).translate 0 1 { w := true } 16 = .ok { space := .here, pa := 16, policy := 0 } ∧
      (sStore [line0]).l1Line 0 1 0 = some line0) ∧
    ((sStore []).groupFenced 16 = false ∧
      ({ sStore [] with mem := readyMem [] [] |> (setRun 0 · 0x20000 [0x7B, 0, 0, 0, 0, 2]) } : State).translate 0 1 { w := true } 16 =
        .ok { space := .here, pa := 16, policy := 2 }) := ⟨⟨rfl, by decide, rfl, rfl, rfl⟩, rfl, rfl⟩

/-! ### Hypotheses that are met: control words -/

/-- `c0`'s wave with its one part as given. -/
def wPart (p : Part) : Wave := { c0.wv with splits := [some p, none, none, none] }
/-- The machine of that wave. -/
def sp (p : Part) : State := mk (readyIssue 1) c0.blk (wPart p)
/-- Its word. -/
def cp (p : Part) : Cur := cm (readyIssue 1) c0.blk (wPart p)
/-- The part with a return stack. -/
def stk (l : List (BitVec 64)) : Part := { c0.pt with stack := l }

theorem witness_BranchWords :
    (Issues s0 c0 (formCtl 0x7C true true { noRegs with p := [15] }) ∧ (c0.wv.getP 15).getLsbD c0.lead = true ∧
      (c0.wv.getP 3).getLsbD c0.lead = false) ∧
    (Issues (sp (stk (List.replicate 15 8))) (cp (stk (List.replicate 15 8))) (formCtl 0x7C true true { noRegs with p := [15] }) ∧
      (cp (stk (List.replicate 15 8))).pt.stack.length < 16) ∧
    (Issues (sp (stk (List.replicate 15 8))) (cp (stk (List.replicate 15 8))) (formCtl 0x7C true true noRegs)) ∧
    (Issues (sp (stk [8])) (cp (stk [8])) (formCtl 0x7D true true noRegs) ∧ (8 : BitVec 64).getLsbD 63 = false) ∧
    (Issues s0 c0 (formBrx 0) ∧ canonical (c0.wv.getS64 0) = true) ∧
    (Issues s0 c0 (formCtl 0x7D true true noRegs) ∧ c0.iss.mix = true) ∧
    (Issues (sp (stk (List.replicate 16 8))) (cp (stk (List.replicate 16 8))) (formCtl 0x7C true true { noRegs with p := [15] }) ∧
      Issues (sp (stk (List.replicate 16 8))) (cp (stk (List.replicate 16 8))) (formCtl 0x7C true true noRegs) ∧
      Issues (sp (stk (List.replicate 16 8))) (cp (stk (List.replicate 16 8))) (formBrx 0) ∧
      16 ≤ (cp (stk (List.replicate 16 8))).pt.stack.length) ∧
    (Issues (sp (stk [0x8000000000000008])) (cp (stk [0x8000000000000008])) (formCtl 0x7D true true noRegs) ∧
      ∀ e ∈ (cp (stk [0x8000000000000008])).pt.stack.head?, e.getLsbD 63 = true) ∧
    (Issues s0 c0 (formCtl 0x7D true true noRegs) ∧ ∀ e ∈ c0.pt.stack.head?, e.getLsbD 63 = true) ∧
    (Issues (sa 0 0x00800000) (ca 0 0x00800000) (formBrx 0) ∧ canonical ((ca 0 0x00800000).wv.getS64 0) = false) :=
  ⟨⟨issues0 rfl rfl, rfl, rfl⟩, ⟨⟨rfl, rfl, rfl, rfl⟩, Nat.le_of_ble_eq_true rfl⟩, ⟨rfl, rfl, rfl, rfl⟩, ⟨⟨rfl, rfl, rfl, rfl⟩, by decide⟩, ⟨issues0 rfl rfl, rfl⟩,
   ⟨issues0 rfl rfl, rfl⟩, ⟨⟨rfl, rfl, rfl, rfl⟩, ⟨rfl, rfl, rfl, rfl⟩, ⟨rfl, rfl, rfl, rfl⟩, Nat.le_of_ble_eq_true rfl⟩, ⟨⟨rfl, rfl, rfl, rfl⟩, by rintro e ⟨⟩; rfl⟩,
   ⟨issues0 rfl rfl, by rintro e ⟨⟩⟩, ⟨⟨rfl, rfl, rfl, rfl⟩, rfl⟩⟩

/-- A wave with two live lanes, P3 set in lane `k` of them; `full` says that the other split entries are taken. -/
def wTwo (p3 : Word) (full : Bool) : Wave :=
  let q : Option Part := if full then some { c0.pt with mask := 4, rho := 8, wait := .reconv } else none
  { c0.wv with splits := [some { c0.pt with mask := 3 }, q, q, q], p := [(3, p3)] }
/-- Its machine. -/
def s2 (p3 : Word) (full : Bool) : State := mk (readyIssue 1) c0.blk (wTwo p3 full)
/-- Its word. -/
def c2 (p3 : Word) (full : Bool) : Cur := cm (readyIssue 1) c0.blk (wTwo p3 full)

theorem witness_BranchesDiverge :
    (let form := formCtl 0x7C true true { noRegs with p := [3] }
     Issues (s2 0 false) (c2 0 false) form ∧ Issues (s2 3 false) (c2 3 false) form ∧ Issues (s2 2 false) (c2 2 false) form ∧
      Issues (s2 2 true) (c2 2 true) form) ∧
    ((c2 0 false).liveMask &&& (c2 0 false).wv.getP 3) = 0 ∧
    ((c2 3 false).liveMask &&& (c2 3 false).wv.getP 3 ≠ 0 ∧ (c2 3 false).liveMask &&& ~~~((c2 3 false).liveMask &&& (c2 3 false).wv.getP 3) = 0) ∧
    ((c2 2 false).liveMask &&& (c2 2 false).wv.getP 3 ≠ 0 ∧ (c2 2 false).liveMask &&& ~~~((c2 2 false).liveMask &&& (c2 2 false).wv.getP 3) ≠ 0 ∧
      (c2 2 false).pt.rho = 0 ∧ (c2 2 false).wv.freeEntry = some 1) ∧
    (c2 2 true).wv.freeEntry = none ∧ (c2 2 true).wv.deferred = none ∧
    ∀ off e r, ¬ Joins (s2 2 false) (c2 2 false) off e r ∧ ¬ Joins (s2 2 true) (c2 2 true) off e r :=
  ⟨⟨⟨rfl, rfl, rfl, rfl⟩, ⟨rfl, rfl, rfl, rfl⟩, ⟨rfl, rfl, rfl, rfl⟩, rfl, rfl, rfl, rfl⟩, by decide, by decide, by decide, by decide, by decide,
   fun _ _ _ => ⟨fun h => absurd h.bound (by decide), fun h => absurd h.bound (by decide)⟩⟩

/-- A part that waits at the header at 0x1040, to which the branching split is bound. -/
def wait3 : Part := { c0.pt with mask := 4, rho := 0x1040, wait := .reconv }
/-- The wave of two live lanes in such a split, with that part. -/
def wJoin : Wave := { c0.wv with splits := [some { c0.pt with mask := 3, rho := 0x1040 }, some wait3, none, none], p := [(3, 2)] }
/-- Its machine, with a header at 0x1040 whose RECONV is set, and its word. -/
def sJoin (w : Wave) : State := { mk (readyIssue 1) c0.blk w with mem := setRun 0 (readyMem [] []) 0x1040 [0x7F, 0, 2, 0] }
/-- The word. -/
def cJoin (w : Wave) : Cur := cm (readyIssue 1) c0.blk w

/-- A BRC whose target is the address to which its split is bound: the taken lane joins. With no free entry, and the deferred
path in use, a split that no part waits for holds. -/
theorem witness_BranchesDiverge_joins :
    (Issues (sJoin wJoin) (cJoin wJoin) (formCtl 0x7C true true { noRegs with p := [3] }) ∧ Joins (sJoin wJoin) (cJoin wJoin) 16 1 wait3 ∧
      (∀ j x, j < 1 → ¬ Joins (sJoin wJoin) (cJoin wJoin) 16 j x) ∧
      (cJoin wJoin).liveMask &&& (cJoin wJoin).wv.getP 3 = 2 ∧ branchTo (cJoin wJoin) 16 = (cJoin wJoin).pt.rho) ∧
    (let w := { wTwo 2 true with deferred := some { c0.pt with mask := 8 } }
     Issues (sJoin w) (cJoin w) (formCtl 0x7C true true { noRegs with p := [3] }) ∧ (cJoin w).wv.freeEntry = none ∧
      (cJoin w).wv.deferred ≠ none ∧ (cJoin w).pt.rho = 0) :=
  ⟨⟨⟨rfl, rfl, rfl, rfl⟩, ⟨by decide, .inl (by decide), ⟨0x2007F, rfl, by decide⟩, by decide, rfl, rfl, rfl, rfl⟩,
    fun j _ h k => absurd k.other (by obtain rfl : j = 0 := by omega
                                      decide), by decide, by decide⟩,
   ⟨rfl, rfl, rfl, rfl⟩, rfl, by decide, rfl⟩

/-- `s0` with a launch being cut. -/
def sCut : State := { s0 with launches := [{ readyLaunch 0 false with cut := some 5 }] }
/-- `s0` with Pocket frames in its context. -/
def sFrames : State := { s0 with ctxs := [{ readyCtx with frames := 2 }] }

theorem witness_WaveStateWords : Issues s0 c0 (formCtl 0x7D true true noRegs) ∧ Issues s0 c0 (formStep 0x7FFFF) ∧
    (s0.launch? 0 = some (readyLaunch 0 false) ∧ (readyLaunch 0 false).cut = none) ∧
    (Issues sCut c0 (formStep 0) ∧ sCut.launch? 0 = some { readyLaunch 0 false with cut := some 5 }) ∧
    (Issues sFrames c0 (formCtl 0x7D true true noRegs) ∧ sFrames.ctx? 1 = some { readyCtx with frames := 2 }) ∧
    (s0.ctx? 1 = some readyCtx ∧ readyCtx.frames = 0) ∧ c0.blk.halt = none ∧ (∀ k ∈ [1, 2, 3, 4], c0.wv.part? k = none) ∧
    c0.iss.header.toNat % 16 = 15 ∧ (let i := { readyIssue 1 with header := 1 }
      (cm i c0.blk c0.wv).startWord = (cm i c0.blk c0.wv).iss.header.toNat % 16) :=
  ⟨issues0 rfl rfl, issues0 rfl rfl, ⟨rfl, rfl⟩, ⟨⟨rfl, rfl, rfl, rfl⟩, rfl⟩, ⟨⟨rfl, rfl, rfl, rfl⟩, rfl⟩, ⟨rfl, rfl⟩, rfl, by decide, rfl, rfl⟩

/-- A concurrent block, its launch with one set of block 0. -/
def bConc : Block := { c0.blk with decl := { c0.blk.decl with cls := 0 } }
/-- Its machine. -/
def sConc : State :=
  { mk (readyIssue 1) bConc c0.wv with launches := [{ readyLaunch 0 false with sets := [[(0, 1)]] }] }

theorem witness_WaitingWords : Issues s0 c0 (formCtl 0x7D true true noRegs) ∧ c0.wv.storesQueued = false ∧ c0.wv.acqPending = false ∧
    (Issues sConc (cm (readyIssue 1) bConc c0.wv) (formCtl 0x7D true true noRegs) ∧
      sConc.launch? 0 = some { readyLaunch 0 false with sets := [[(0, 1)]] } ∧ bConc.decl.cls = 0 ∧
      setMember { readyLaunch 0 false with sets := [[(0, 1)]] } 0 bConc.index = true ∧
      setMember { readyLaunch 0 false with sets := [[(1, 1)]] } 0 bConc.index = false) ∧
    (s0.launch? 0 = some (readyLaunch 0 false) ∧ c0.blk.decl.cls ≠ 0) ∧
    Issues s0 c0 (formChsend 5) ∧ (c0.blk.chan 3).closed = false ∧ Issues s0 c0 (formChrecv 5 2) ∧ Issues s0 c0 formChclose ∧
    (s0.cur? = some c0 ∧ c0.wv.run = .running) ∧
    (Issues (mk (readyIssue 1) c0.blk wStore) (cm (readyIssue 1) c0.blk wStore) (formCtl 0x7D true true noRegs) ∧
      Issues (mk (readyIssue 1) c0.blk wStore) (cm (readyIssue 1) c0.blk wStore) (formChsend 5) ∧ wStore.storesQueued = true) ∧
    (let b := { c0.blk with chans := [(3, { closed := true, head := 0, masks := [] })] }
     Issues (mk (readyIssue 1) b c0.wv) (cm (readyIssue 1) b c0.wv) (formChsend 5) ∧ (b.chan 3).closed = true) :=
  ⟨issues0 rfl rfl, rfl, rfl, ⟨⟨rfl, rfl, rfl, rfl⟩, rfl, rfl, rfl, rfl⟩, ⟨rfl, by decide⟩, issues0 rfl rfl, rfl, issues0 rfl rfl, issues0 rfl rfl,
   ⟨rfl, rfl⟩, ⟨⟨rfl, rfl, rfl, rfl⟩, ⟨rfl, rfl, rfl, rfl⟩, rfl⟩, ⟨rfl, rfl, rfl, rfl⟩, rfl⟩

/-- A wave whose one part waits at BAR 15. -/
def wBar : Wave := wPart { c0.pt with wait := .bar 15 false }

theorem witness_Barriers :
    (∃ e ∈ c0.wv.parts, ∀ ao, e.2.wait ≠ .bar 0 ao) ∧ ({ c0.wv with splits := [none, none, none, none] } : Wave).parts = [] ∧
    (wBar.parts ≠ [] ∧ (∀ e ∈ wBar.parts, ∃ ao, e.2.wait = .bar 15 ao) ∧ wBar.idx ∉ (c0.blk.bar 15).arrived) ∧
    (wBar.idx ∈ (({ c0.blk with waves := [wBar] } : Block).arriveBar 15 wBar |>.bar 15).arrived) ∧
    (∃ v ∈ c0.blk.waves, v.live = true ∧ (v.idx ∉ (c0.blk.bar 3).arrived ∨ v.present = false)) ∧
    (wBar.storesQueued = false ∧ wStore.storesQueued = true ∧ ({ c0.wv with run := .parked 5 0 } : Wave).present = false) ∧
    (let b := ({ c0.blk with waves := [wBar] } : Block).arriveBar 15 wBar
     (b.bar 15).arrived ≠ [] ∧ ∀ v ∈ b.waves, v.live = true → v.idx ∈ (b.bar 15).arrived ∧ v.present = true) ∧
    (let b := { c0.blk with mbars := [(0, { phase := 2, waveSide := true, streamSide := true })] }
     (b.mbar 0).waveSide = true ∧ (b.mbar 0).streamSide = true) ∧ (c0.blk.mbar 1).waveSide = false ∧ c0.blk.liveWaves ≠ [] :=
  ⟨⟨_, List.mem_cons_self, by intro ao h; cases h⟩, rfl, ⟨by decide, by
    intro e he; exact ⟨false, by simp only [show wBar.parts = [(0, { c0.pt with wait := .bar 15 false })] from rfl, List.mem_cons, List.not_mem_nil, or_false] at he; subst he; rfl⟩,
    by decide⟩, by decide, ⟨_, List.mem_cons_self, by decide, by decide⟩, by decide, by decide, by decide, by decide, by decide⟩

theorem witness_WaitvReads :
    (Issues s0 c0 (formWaitv 0 5 1 511) ∧ waitForbidden c0.blk.decl.cls 1 = true) ∧
    (let s := sa 0xFF07FFFC 0xFFFFFFFF; let c := ca 0xFF07FFFC 0xFFFFFFFF
     Issues s c (formWaitv 0 0 4 7) ∧ waitForbidden c.blk.decl.cls 4 = false ∧ c.wv.acqPending = false ∧ inAperture (c.wv.getS64 0) = true ∧
      addrFault s 0 1 c.blk.decl.bmem 0x7D { r := true } 4 c.liveMask (fun _ => c.wv.getS64 0) = none ∧
      waitCmp 0 0 (c.wv.getS 7) = true ∧ waitCmp 1 0 (c.wv.getS 7) = false) :=
  ⟨⟨issues0 rfl rfl, rfl⟩, ⟨rfl, rfl, rfl, rfl⟩, rfl, rfl, rfl, rfl, rfl, rfl⟩

theorem witness_ControlRegisters :
    Issues s0 c0 (formCsrr 0 5) ∧ Issues s0 c0 (formCsrr 31 5) ∧
    Issues s0 c0 (formCsrr 8 5) ∧ s0.launch? c0.blk.launch = some (readyLaunch 0 false) ∧ Issues s0 c0 (formCsrw 0 6) ∧
    Issues s0 c0 (formCsrw 2 6) := ⟨issues0 rfl rfl, issues0 rfl rfl, issues0 rfl rfl, rfl, issues0 rfl rfl, issues0 rfl rfl⟩

/-- A machine whose clause holds the given word after the word that issues. -/
def sNext (w : List Byte) : State := State.reset.ready false ([0, 0, 0, 0xFC] ++ w)

theorem witness_ExtensionWords :
    ((sNext [0, 0, 0, 0]).cur? = some c0 ∧ extended (sNext [0, 0, 0, 0]) c0 2 2 = some 0 ∧ noExtension 0 = false) ∧
    ((sNext [0, 0, 0, 0xFA]).cur? = some c0 ∧ extended (sNext [0, 0, 0, 0xFA]) c0 2 2 = some 0x7D ∧ noExtension 0x7D = true) ∧
    (extended (sNext [0, 0, 0, 0xFE, 0, 0, 0, 0xB0]) c0 2 2 = some 0x58) ∧ c0.wv.run = .running :=
  ⟨⟨rfl, rfl, rfl⟩, ⟨rfl, rfl, rfl⟩, rfl, rfl⟩

/-- A halt that has been signalled. -/
def halt0 : Halt :=
  { cause := 1, reason := 0, wave := 0, opcode := 0, pos := 0, addr := 0, mask := 0, code := 0, born := 0, signalled := true,
    saved := false, recorded := false, frames := [], handle := 0 }

theorem witness_TrapsHaltTheBlock : (s0.cur? = some c0 ∧ c0.blk.halt = none) ∧
    ((mk (readyIssue 1) { c0.blk with halt := some halt0 } c0.wv).cur? = some (cm (readyIssue 1) { c0.blk with halt := some halt0 } c0.wv) ∧
      (cm (readyIssue 1) { c0.blk with halt := some halt0 } c0.wv).blk.halt ≠ none) ∧ ¬ (c0.iss.wave < halt0.wave) ∧
    (let h := { halt0 with wave := 5, signalled := false }
     (mk (readyIssue 1) { c0.blk with halt := some h } c0.wv).cur? = some (cm (readyIssue 1) { c0.blk with halt := some h } c0.wv) ∧
      h.born = s0.now ∧ c0.iss.wave < h.wave ∧ h.wave ≤ 0xFE) := ⟨⟨rfl, rfl⟩, ⟨rfl, by decide⟩, by decide, rfl, rfl, by decide, by decide⟩

/-- A wave with V1, S1 and P15's neighbour P3 pending. -/
def wPend : Wave := { c0.wv with pend := [{ regs := { v := [1], s := [0, 1], p := [3], t := [] }, due := 9 }] }
/-- Its word. -/
def cPend : Cur := cm (readyIssue 1) c0.blk wPend

theorem witness_IllegalWordsTrap :
    (s0.cur? = some c0 ∧ c0.wv.run = .running ∧ (formV3 0x00 xcIntSat false 4 true 1 2 3 c0).fieldsOk = false ∧
      (formU 0x12 xcUn (decide ((11 : BitVec 8).toNat ≤ 10)) 4 false 1 2 c0).fieldsOk = false ∧
      (formFrag 0x5A (decide ((5 : BitVec 8).toNat ≤ 4)) true 40 8 0 2 false c0).fieldsOk = false) ∧
    (xpOk (formV3 0x00 xcIntSat false 4 false 1 2 3 c0).takesXp (formV3 0x00 xcIntSat false 4 false 1 2 3 c0).xc (some 0x140) = false) ∧
    ((sx 0xFF000).cur? = some (cx 0xFF000) ∧ xcOk (formV3 0x00 xcIntSat false 4 false 1 2 3 (cx 0xFF000)).xc (0x01E00000 ||| 0xFF000) = false) ∧
    ((sx 0x80).cur? = some (cx 0x80) ∧ (formV3 0x00 xcIntSat false 4 false 1 2 3 (cx 0x80)).fault (cx 0x80).iss ≠ some 1 ∧
      nineOperand (formV3 0x00 xcIntSat false 4 false 1 2 3 (cx 0x80)).xc (0x01E00000 ||| 0x80) = true) ∧
    (∀ form ∈ [formV3 0x00 xcIntSat false 4 false 240 2 3, formV3 0x23 xcFpC true 4 false 1 248 3, formS3 0x48 1 254 255 255,
        formM 0x62 4 false 240 2 0 false, formAtom 0x6C true 9 239 1 0, formCopy 0x70 1 none],
      (form c0).fault c0.iss ≠ some 1) ∧
    ((formV3 0x00 xcIntSat false 4 false 240 2 3 c0).operandsOk = false ∧ (formCopy 0x70 1 none c0).operandsOk = false ∧
      (formM 0x62 4 false 240 2 0 false c0).operandsOk = false ∧ (formAtom 0x6C true 9 239 1 0 c0).operandsOk = false) ∧
    ((mk (readyIssue 1) c0.blk wPend).cur? = some cPend ∧ ∀ form ∈ [formV3 0x00 xcIntSat false 4 false 1 2 3, formS3 0x48 1 1 2 3,
        formM 0x67 4 true 2 3 0 false, formCtl 0x7C true true { noRegs with p := [3] }],
      (form cPend).fault cPend.iss = none ∧ (form cPend).waits wPend = true) :=
  ⟨⟨rfl, rfl, rfl, rfl, rfl⟩, rfl, ⟨rfl, rfl⟩, ⟨rfl, by decide, rfl⟩, by
    simp only [List.mem_cons, List.not_mem_nil, or_false, forall_eq_or_imp, forall_eq]; decide, by decide, rfl, by
    simp only [List.mem_cons, List.not_mem_nil, or_false, forall_eq_or_imp, forall_eq]; decide⟩

/-- A wave with a copy descriptor at S8: `len` bytes of block memory to a tile. -/
def wCopy (len : Word) : Wave := { c0.wv with s := [(12, len), (15, 0x12000)] }
/-- Its word, of a block with the given producer. -/
def cCopy (len : Word) (producer : Nat) : Cur :=
  cm (readyIssue 1) { c0.blk with decl := { c0.blk.decl with producer := producer } } (wCopy len)
/-- Its machine. -/
def sCopy (len : Word) (producer : Nat) : State :=
  mk (readyIssue 1) { c0.blk with decl := { c0.blk.decl with producer := producer } } (wCopy len)

/-- A complete token on which a COLL has completed. -/
def tokFull : Token := { outst := [], abort := false, failed := 0, coll := true }

theorem witness_CopyWords :
    (Issues (sCopy 16 1) (cCopy 16 1) (formCopy 0x70 8 none) ∧ (cCopy 16 1).iss.wave ≠ (cCopy 16 1).blk.decl.producer) ∧
    (Issues (sCopy 16 0) (cCopy 16 0) (formCopy 0x70 8 none) ∧ Issues (sCopy 16 0) (cCopy 16 0) (formCopy 0x71 8 (some 3)) ∧
      Issues (sCopy 16 0) (cCopy 16 0) (formCopy 0x72 8 (some 3)) ∧ (cCopy 16 0).iss.wave = (cCopy 16 0).blk.decl.producer ∧
      ((sCopy 16 0).core 0).copies.length < 64 ∧ ((cCopy 16 0).blk.token 7).outst.length < 64 ∧ (cCopy 16 0).wv.acqPending = false ∧
      copyOk (cCopy 16 0).blk.decl ((cCopy 16 0).copyDesc 8) false [((cCopy 16 0).copyDesc 8).row 0 0] = true ∧
      copyOk (cCopy 16 0).blk.decl ((cCopy 16 0).copyDesc 8) true
        ((lanesOf (cCopy 16 0).liveMask).map fun l => ((cCopy 16 0).copyDesc 8).row ((cCopy 16 0).vec false 3 l).toNat l) = true) ∧
    (Issues (sCopy 8 0) (cCopy 8 0) (formCopy 0x70 8 none) ∧
      copyOk (cCopy 8 0).blk.decl ((cCopy 8 0).copyDesc 8) false [((cCopy 8 0).copyDesc 8).row 0 0] = false) ∧
    (∃ b ∈ [{ c0.blk with decl := { c0.blk.decl with producer := 0 }, tokens := [(7, { tokFull with outst := List.range 64 })] }],
      Issues (mk (readyIssue 1) b (wCopy 16)) (cm (readyIssue 1) b (wCopy 16)) (formCopy 0x70 8 none) ∧ 64 ≤ (b.token 7).outst.length) ∧
    Issues s0 c0 (formKstat 511) ∧ (let b := { c0.blk with tokens := [(7, tokFull)] }
      Issues (mk (readyIssue 1) b c0.wv) (cm (readyIssue 1) b c0.wv) (formKstat 511) ∧ (b.token 7).outst = [] ∧ (b.token 7).coll = true) :=
  ⟨⟨⟨rfl, rfl, rfl, rfl⟩, by decide⟩, ⟨⟨rfl, rfl, rfl, rfl⟩, ⟨rfl, rfl, rfl, rfl⟩, ⟨rfl, rfl, rfl, rfl⟩, rfl, by decide, by decide, rfl, rfl, rfl⟩,
   ⟨⟨rfl, rfl, rfl, rfl⟩, rfl⟩, ⟨_, List.mem_cons_self, ⟨rfl, rfl, rfl, rfl⟩, by decide⟩, issues0 rfl rfl, ⟨rfl, rfl, rfl, rfl⟩, rfl, rfl⟩

/-- The descriptor of a collective: operation, then the word with CREC. -/
def wColl (op count : Word) : Wave := { c0.wv with s := [(10, count), (12, if op = 0 then 0 else 4), (13, op), (14, 0x1000)] }
/-- Its machine. -/
def sColl (op count : Word) : State := mk (readyIssue 1) c0.blk (wColl op count)
/-- Its word. -/
def cColl (op count : Word) : Cur := cm (readyIssue 1) c0.blk (wColl op count)
/-- The descriptor's words. -/
def dColl (op count : Word) : List Word := (List.range 8).map fun j => (cColl op count).wv.getS (8 + j)

theorem witness_QueuedWords : (Issues s0 c0 (formRayq 0 8 0) ∧ c0.wv.rays.length < 4 ∧ c0.wv.acqPending = false) ∧
    (Issues (sColl 0 4) (cColl 0 4) (formColl 0x78 8) ∧ csendOk (dColl 0 4) = true ∧ (sColl 0 4).comm? (collComm (dColl 0 4)) = none ∧
      ((cColl 0 4).blk.token 7).outst.length < 64) ∧
    (Issues (sColl 0 3) (cColl 0 3) (formColl 0x78 8) ∧ csendOk (dColl 0 3) = false) ∧
    (Issues (sColl 0x10000000 0) (cColl 0x10000000 0) (formColl 0x79 8) ∧ collOk (dColl 0x10000000 0) = true) ∧
    (Issues (sColl 0xF0000000 0) (cColl 0xF0000000 0) (formColl 0x79 8) ∧ collOk (dColl 0xF0000000 0) = false) ∧
    Issues s0 c0 (formWrec (fun c => c.vregsOk 16 16 16 && c.vregsOk 1 1 1) { noRegs with v := List.range' 16 16 ++ [1] }
      { noRegs with p := predReg 15 }) ∧
    Issues s0 c0 (formWrec (fun c => c.vregsOk 224 16 16) noRegs { noRegs with v := List.range' 224 16, p := predReg 3 }) ∧
    Issues s0 c0 (formWrec (fun _ => true) noRegs noRegs) ∧
    (Issues s0 c0 (formLaunchW 0) ∧ canonical (c0.wv.getS64 0) = true ∧ (c0.wv.getS64 0).toNat % 256 = 0 ∧
      s0.owns 1 15 = false ∧ ({ s0 with queues := [{ id := 15, valid := true, ctx := 1, next := 1, drops := 0, assign := 1 }] } : State).owns 1 15 = true) ∧
    Issues s0 c0 (formGrow 6 255) :=
  ⟨⟨issues0 rfl rfl, by decide, rfl⟩, ⟨⟨rfl, rfl, rfl, rfl⟩, rfl, rfl, by decide⟩, ⟨⟨rfl, rfl, rfl, rfl⟩, rfl⟩, ⟨⟨rfl, rfl, rfl, rfl⟩, rfl⟩,
   ⟨⟨rfl, rfl, rfl, rfl⟩, rfl⟩, issues0 rfl rfl, issues0 rfl rfl, issues0 rfl rfl, ⟨issues0 rfl rfl, rfl, rfl, rfl, rfl⟩, issues0 rfl rfl⟩

/-! ### Hypotheses that are met: stream words -/

/-- A machine whose block's matrix stream runs. -/
def m0 : State := State.reset.ready true []
/-- The stream. -/
def t0 : Stream := ((readyBlock 1 (readyLaunch 0 true) 0 true).stream).getD
  { pc := 0, x := [], step := 0, partials := [], run := .running, readySince := 0 }
/-- Its block. -/
def b0 : Block := readyBlock 1 (readyLaunch 0 true) 0 true

theorem stream0 : m0.streamCur? = some (b0, t0) := rfl

/-- The machine with another stream in the block. -/
def mt (t : Stream) : State := { m0 with blocks := [{ b0 with stream := some t }] }

theorem witness_MatrixWords : m0.streamCur? = some (b0, t0) ∧
    macOk 1 0 127 0 0 16 b0 t0 ∧ macOk 2 0 126 0 0 0 b0 t0 ∧ macOk 4 0 124 0 0 0 b0 t0 ∧ ¬ macOk 2 0 1 0 0 0 b0 t0 ∧ ¬ macOk 4 0 0 0 0 8 b0 t0 ∧
    ((255 : BitVec 8).toNat < b0.decl.awin ∧ t0.addr 0 0 % 4 = 0 ∧ t0.addr 0 0 + 4 * (63 + 1) ≤ b0.decl.bmem ∧ t0.addr 0 1 % 4 ≠ 0) ∧
    (255 + 0 + 1 ≤ b0.decl.awin ∧ b0.decl.awin < 255 + 1 + 1) ∧ t0.addr 0 0 + 64 * 4 ≤ b0.decl.bmem ∧
    (let b := { b0 with decl := { b0.decl with awin := 4 } }
     ({ m0 with blocks := [b] } : State).streamCur? = some (b, t0) ∧ b.decl.awin ≤ (4 : BitVec 8).toNat) ∧
    ((1 : BitVec 8) ≠ 0 ∧ 4 < (5 : BitVec 3).toNat) ∧ (64 * 4 ≤ (256 : BitVec 13).toNat ∧ ∀ i, i ≤ 63 →
      t0.addr 0 (0 + i * 256) % 16 = 0 ∧ t0.addr 0 (0 + i * 256) + 64 * 4 ≤ b0.decl.bmem) := by
  refine ⟨rfl, ?_, ?_, ?_, ?_, ?_, by decide, by decide, by decide, ⟨rfl, by decide⟩, by decide, by decide, by decide⟩
  · refine ⟨rfl, by decide, rfl, ?_⟩
    intro i hi
    obtain rfl : i = 0 := Nat.le_zero.mp hi
    exact ⟨rfl, by decide⟩
  · refine ⟨rfl, by decide, rfl, ?_⟩
    intro i hi
    obtain rfl : i = 0 := Nat.le_zero.mp hi
    exact ⟨rfl, by decide⟩
  · refine ⟨rfl, by decide, rfl, ?_⟩
    intro i hi
    obtain rfl : i = 0 := Nat.le_zero.mp hi
    exact ⟨rfl, by decide⟩
  · exact fun h => absurd h.1 (by decide)
  · exact fun h => absurd h.2.2.1 (by decide)

/-- The stream at step 9. -/
def t9 : Stream := { t0 with step := 9 }

theorem witness_StreamControlWords : m0.streamCur? = some (b0, t0) ∧ (true = true → (0xFFFF : BitVec 44).toNat < 2 ^ 16) ∧
    t0.step ≤ (0 : BitVec 32).toNat ∧ ((mt t9).streamCur? = some ({ b0 with stream := some t9 }, t9) ∧ (8 : BitVec 32).toNat < t9.step) ∧
    (m0.launch? b0.launch = some (readyLaunch 0 true) ∧ (readyLaunch 0 true).cut = none) ∧
    ({ m0 with launches := [{ readyLaunch 0 true with cut := some 1 }] } : State).launch? b0.launch =
      some { readyLaunch 0 true with cut := some 1 } := ⟨rfl, by decide, by decide, ⟨rfl, by decide⟩, ⟨rfl, rfl⟩, rfl⟩

/-- The stream with X1 1,024 and X2 the FP32 number 1. -/
def tVoc : Stream := { t0 with x := [0, 1024, 0x3F800000, 0, 0, 0, 0, 0] }

theorem witness_VocabularyWords : (mt tVoc).streamCur? = some ({ b0 with stream := some tVoc }, tVoc) ∧
    vocabLen b0 tVoc 255 0 1 = some 1024 ∧ vocabLen b0 tVoc 255 0 0 = some 4096 ∧ vocabLen b0 tVoc 255 1 0 = none ∧
    (tVoc.addr 0 0 % 8 = 0 ∧ tVoc.addr 0 0 + 8 * (1023 + 1) ≤ b0.decl.bmem) ∧
    f32 ((tVoc.x.getD 2 0).extractLsb' 0 32) = .fin false 0x800000 (-23) ∧
    ((tVoc.x.getD 1 0).extractLsb' 0 32).toNat = 1024 := ⟨rfl, by decide, by decide, by decide, by decide, by decide, by decide⟩

/-! ### Hypotheses that are met: the core's events -/

/-- `s0` with no clause issuing and the given code, part and cycle. -/
def sIdle (header : Word) (p : Part) (now : Nat) : State :=
  { mk (readyIssue 1) c0.blk (wPart p) with issues := [], now := now, mem := readyMem [] (bytes32 header) }

theorem witness_ClauseSelection :
    (∃ x, (sIdle 0x7F c0.pt 0).choose 0 0 false = some x ∧ x.wave.part? x.part = some c0.pt ∧ ∃ cls h, x.offer = .ready cls h) ∧
    (∃ x, (sIdle 0 c0.pt 0).choose 0 0 false = some x ∧ x.wave.part? x.part = some c0.pt ∧ x.offer = .bad) ∧
    (∃ x, (sIdle 0x2007F { c0.pt with rho := 0x1000 } 0).choose 0 0 true = some x ∧ x.offer = .reconv) ∧
    (∃ x, ({ sIdle 0xFF c0.pt 0 with blocks := [{ c0.blk with tokens := [(0, tokFull)] }] } : State).choose 0 0 false = some x ∧
      x.wave.part? x.part = some c0.pt ∧ (∃ cls, x.offer = .ready cls 0xFF) ∧ (x.block.token 0).outst = [] ∧ (x.block.token 0).coll = true) :=
  ⟨⟨_, rfl, rfl, _, _, rfl⟩, ⟨_, rfl, rfl, rfl⟩, ⟨_, rfl, rfl⟩, _, rfl, rfl, ⟨_, rfl⟩, rfl, rfl⟩

/-- `c0`'s block with another wave. -/
def bw (w : Wave) : Block := { c0.blk with waves := [w] }
/-- A machine whose wave sleeps, waits or is held, at a cycle. -/
def sAt (w : Wave) (now : Nat) : State := { mk (readyIssue 1) c0.blk w with now := now }
/-- A load, deferred and sleeping waves. -/
def wDefer : Wave := { c0.wv with deferred := some { c0.pt with mask := 2 } }
/-- A starved wave. -/
def wHungry : Wave := { c0.wv with readySince := some 0 }
/-- A wave at a WAITV of a block-memory word. -/
def await0 : Await :=
  { part := 0, addr := 0xFFFFFFFFFF07FFFC, cmp := 0, val := 0, pos := 0, since := 0, next := 4096, line := none, seen := 0, asked := none }
/-- Its wave. -/
def wWaitv : Wave := { c0.wv with run := .waitv await0 }
/-- A ray query whose ray is not valid, so that it hits nothing. -/
def ray0 : RayOp :=
  { part := 0, res := 4, rays := [(0, [0x7FC00000, 0, 0, 0, 0, 0, 0, 0])], root := 0, flags := 0, order := 0, got := [], asked := [],
    killed := 0, due := 0 }
/-- A copy of 64 bytes of block memory to a tile. -/
def copy0 : CopyJob :=
  { seq := 0, block := 1, wave := 0, token := 0, opcode := 0x70, pos := 0, len := 64, srcKind := 1, dstKind := 2, rows := [(0, 64)],
    row := 0, sector := 0, failedNow := false, halted := false, issued := 0, asked := [], got := [], acks := [], base := 0, ahead := [] }
/-- The machine of that copy. -/
def sCopying : State := { s0 with now := 4, cores := [{ Core.fresh 0 with copies := [copy0] }] }

theorem witness_CoreEvents :
    (canonical (BitVec.ofNat 64 (32 * 128)) = true ∧
      s0.translate 0 1 { x := true } (BitVec.ofNat 64 (32 * 128)) = .ok { space := .here, pa := 0x1000, policy := 0 } ∧
      s0.isBad 0x1000 128 = false) ∧
    (({ sAt wDefer 0 with issues := [] } : State).block? 1 = some (bw wDefer) ∧ (bw wDefer).wave? 0 = some wDefer ∧ wDefer.freeEntry = some 1) ∧
    ((sAt wHungry 1024).block? 1 = some (bw wHungry) ∧ (bw wHungry).wave? 0 = some wHungry ∧ wHungry.starved ((sAt wHungry 1024).since 0) = true ∧
      wHungry.starved ((sAt wHungry 1023).since 0) = false) ∧
    ((sAt { c0.wv with run := .sleeping 7 } 7).block? 1 = some (bw { c0.wv with run := .sleeping 7 }) ∧ (7 : Nat) ≤ (sAt c0.wv 7).coreCycles 0) ∧
    (({ s0 with now := 4096, blocks := [{ c0.blk with stuckSince := some 0 }] } : State).block? 1 = some { c0.blk with stuckSince := some 0 } ∧
      c0.blk.halt = none ∧ 4096 ≤ ({ s0 with now := 4096 } : State).since 0 0) ∧
    (let w : Wave := { wDefer with run := .waitv { await0 with part := 4 } }
     w.run = .waitv { await0 with part := 4 } ∧ w.deferred = some { c0.pt with mask := 2 }) ∧
    (let l := { readyLaunch 0 false with sets := [[(0, 1)]], phases := [(0, { phase := 3, arrived := [0] })] }
     ({ s0 with launches := [l] } : State).launch? 0 = some l ∧ s0.setDone l 0 = true) ∧
    ((sAt wWaitv 4096).block? 1 = some (bw wWaitv) ∧ (bw wWaitv).wave? 0 = some wWaitv ∧ (bw wWaitv).halt = none ∧ wWaitv.part? 0 = some c0.pt ∧
      inAperture 0xFFFFFFFFFF07FFFC = true ∧
      addrFault (sAt wWaitv 4096) 0 1 (bw wWaitv).decl.bmem 0x7D { r := true } 4 c0.pt.mask (fun _ => 0xFFFFFFFFFF07FFFC) = none) ∧
    (({ m0 with cores := [Core.fresh 0] } : State).nextOwner 0 = some b0 ∧ ({ m0 with cores := [Core.fresh 0] } : State).ownerYields 0 b0 = true ∧
      (m0.core 0).fencedArray = false) ∧
    (m0.block? 1 = some b0 ∧ b0.stream = some t0) ∧
    (∃ res, (s0.rayLane c0.blk ray0 [0x7FC00000, 0, 0, 0, 0, 0, 0, 0]).1 = .ok res) :=
  ⟨⟨rfl, rfl, rfl⟩, ⟨rfl, rfl, rfl⟩, ⟨rfl, rfl, by decide, by decide⟩, ⟨rfl, by decide⟩, ⟨rfl, rfl, by decide⟩, ⟨rfl, rfl⟩, ⟨rfl, rfl⟩,
   ⟨rfl, rfl, rfl, rfl, rfl, rfl⟩, ⟨rfl, rfl, rfl⟩, ⟨rfl, rfl⟩, _, rfl⟩

/-- A copy of 64 bytes between the given kinds and places. -/
def copyAt (sk dk a z : Nat) : CopyJob := { copy0 with srcKind := sk, dstKind := dk, rows := [(a, z)] }
/-- Its machine, past the strike window. -/
def sCopyAt (sk dk a z : Nat) : State :=
  { sCopying with now := 300, cores := [{ Core.fresh 0 with copies := [copyAt sk dk a z] }] }

/-- The first sector of such a copy is at work. -/
theorem copyTurn0 (sk dk a z : Nat) (hz : z % 16 = 0) (h : (sCopyAt sk dk a z).copyHead 0 = some (copyAt sk dk a z))
    (hs : (copyAt sk dk a z).span z 0 = (0, 64)) : CopyTurn (sCopyAt sk dk a z) 0 (copyAt sk dk a z) c0.blk a z 64 :=
  ⟨h, Nat.le_of_ble_eq_true rfl, rfl, ⟨rfl, rfl, rfl⟩, show (64 : Nat) % 16 = 0 from rfl, (a, z), rfl, hz,
   (congrArg (fun x : Nat × Nat => a + x.1) hs).symm, (congrArg (fun x : Nat × Nat => z + x.1) hs).symm, (congrArg Prod.snd hs).symm⟩

/-- Sectors within the core, into it, out of it to this device, and to a page that is not present. -/
theorem witness_CoreEvents_copy :
    (CopyTurn (sCopyAt 1 2 0 64) 0 (copyAt 1 2 0 64) c0.blk 0 64 64 ∧ (sCopyAt 1 2 0 64).sv.egress = []) ∧
    CopyTurn (sCopyAt 3 1 0 64) 0 (copyAt 3 1 0 64) c0.blk 0 64 64 ∧
    (CopyTurn (sCopyAt 0 2 0x1000 64) 0 (copyAt 0 2 0x1000 64) c0.blk 0x1000 64 64 ∧
      ∀ o, o < 4 → (sCopyAt 0 2 0x1000 64).copyGrain c0.blk (copyAt 0 2 0x1000 64) (BitVec.ofNat 64 (0x1000 + 16 * o)) =
        .bytes ((if o = 0 then 0x7F else 0) :: List.replicate 15 0)) ∧
    (CopyTurn (sCopyAt 1 0 0 0x40000) 0 (copyAt 1 0 0 0x40000) c0.blk 0 0x40000 64 ∧
      (sCopyAt 1 0 0 0x40000).aged 0 0 = true ∧ (sCopyAt 1 0 0 0x40000).groupFenced 0x40000 = false ∧
      (sCopyAt 1 0 0 0x40000).translate 0 1 { w := true } (BitVec.ofNat 64 0x40000) = .ok { space := .here, pa := 0x40000, policy := 0 }) ∧
    (CopyTurn (sCopyAt 1 0 0 0x40000000) 0 (copyAt 1 0 0 0x40000000) c0.blk 0 0x40000000 64 ∧
      (sCopyAt 1 0 0 0x40000000).translate 0 1 { w := true } (BitVec.ofNat 64 0x40000000) = .pageFault ∧ c0.blk.halt = none) ∧
    (s0.translate 0 1 { r := true } 0x1000 = .ok { space := .here, pa := 0x1000, policy := 0 } ∧
      (∀ i, i < 16 → s0.belowByte 0 1 { space := .here, pa := 0x1000 + i, policy := 0 } = some (if i = 0 then 0x7F else 0) ∧
        s0.ownByte 0 1 (0x1000 + BitVec.ofNat 64 i) (if i = 0 then 0x7F else 0) = some (if i = 0 then 0x7F else 0)) ∧
      s0.translate 0 1 { r := true } 0x40000000 = .pageFault) :=
  ⟨⟨copyTurn0 _ _ _ _ rfl rfl rfl, rfl⟩, copyTurn0 _ _ _ _ rfl rfl rfl, ⟨copyTurn0 _ _ _ _ rfl rfl rfl, by decide +kernel⟩,
   ⟨copyTurn0 _ _ _ _ rfl rfl rfl, by decide +kernel, by decide +kernel, by decide +kernel⟩,
   ⟨copyTurn0 _ _ _ _ rfl rfl rfl, by decide +kernel, rfl⟩, by decide +kernel, by decide +kernel, by decide +kernel⟩

/-- A word from its four bytes, the first lowest. -/
def wordOf4 (bs : List Byte) : Word := BitVec.ofNat 32 (leNat bs)

/-- The word last issued on sub-core 0. -/
def last0 : LastWord := { sub := 0, block := 1, wave := 0, cycle := 0, before := c0.wv, issue := readyIssue 1, laneFlags := [] }
/-- A machine that remembers it, with that sub-core's lane repair. -/
def sLast (v : BitVec 8) : State := { s0 with cores := [{ Core.fresh 0 with lastWord := [last0], repair := [v, v, v, v, v, v, v] }] }
/-- A machine that remembers its last stream word, an MMAC. -/
def sCol : State := { State.reset.ready true [0, 0, 0, 0, 0, 0, 0, 4] with
  cores := [{ Core.fresh 0 with lastStream := some b0, owner := some 1 }] }

theorem witness_StrikesAndResidues :
    (((sLast 0).core 0).lastWord.find? (fun x => x.sub == 0) = some last0 ∧ (sLast 0).block? 1 = some c0.blk ∧
      logicalOf (((sLast 0).core 0).repairByte 0) 32 0 = some 0 ∧ last0.before.part? 0 = some c0.pt ∧ c0.pt.mask.getLsbD 0 = true ∧
      (sLast 0).slotKept last0 = true ∧ last0.issue.core = 0 ∧ spared (((sLast 0).core 0).repairByte 0) = false) ∧
    (logicalOf (((sLast 0x40).core 0).repairByte 0) 32 32 = some 0 ∧ logicalOf (((sLast 0x40).core 0).repairByte 0) 32 0 = none) ∧
    ((sCol.core 0).lastStream = some b0 ∧ arrayCheck ((b0.stream.map fun t => sCol.streamOpcode b0 t).getD 0) 63 = .column ∧
      logicalOf ((sCol.core 0).repairByte 6) 64 63 = some 63 ∧ spared ((sCol.core 0).repairByte 6) = false) :=
  ⟨⟨rfl, rfl, rfl, rfl, rfl, rfl, rfl, rfl⟩, ⟨rfl, rfl⟩, rfl, rfl, rfl, rfl⟩

/-- A checkpoint of `c0`'s block at cycle 10: of all of it, or of its wave at the start of a clause. -/
def snap0 (atStart : Bool) : Snapshot :=
  { cycle := 10, block := 1, wave := 0, atStart := atStart, floor := false, last := none, blocks := [c0.blk], copies := [], pending := [], lfsr := 1,
    owner := none, undoB := [], undoW := [], undoC := [] }
/-- A machine past the strike window that remembers the given checkpoints. -/
def sHist (h : List Snapshot) : State := { s0 with now := 400, cores := [{ Core.fresh 0 with history := h }] }

/-- A rollback's base, a wave in the middle of a clause there, and a block that had not started. -/
theorem witness_StrikesAndResidues_rollback :
    (sHist []).windowStart 0 = 144 ∧
    (((sHist [snap0 false]).core 0).baseOf 144 1 = some (snap0 false) ∧ (snap0 false).blocks.find? (fun z => z.uid == 1) = some c0.blk ∧
      ((sHist [snap0 false]).core 0).midClause (snap0 false) 1 0 = none ∧ c0.blk.wave? 0 = some c0.wv ∧ c0.blk.unstarts 144 = false ∧
      (sHist [snap0 false]).block? 1 = some c0.blk ∧ c0.blk.core = 0) ∧
    (let x := { snap0 true with last := some 20 }
     let h := [snap0 false, x]
     ((sHist h).core 0).baseOf 144 1 = some (snap0 false) ∧ ((sHist h).core 0).midClause (snap0 false) 1 0 = some x ∧
      x.blocks.find? (fun z => z.uid == 1) = some c0.blk ∧ c0.blk.wave? 0 = some c0.wv ∧ (c0.blk.wave? 0).isSome = true) ∧
    (let b := { c0.blk with started := 145 }
     b.unstarts 144 = true ∧ ({ sHist [] with blocks := [b] } : State).ctx? b.ctx = some readyCtx ∧ readyCtx.phase = .active) :=
  ⟨by decide +kernel, ⟨by decide +kernel, rfl, by decide +kernel, rfl, by decide, rfl, rfl⟩,
   ⟨by decide +kernel, by decide +kernel, rfl, rfl, rfl⟩, by decide, rfl, rfl⟩

/-- The last word is fetched again: one that issues again, a fragment word and a control word. -/
theorem witness_StrikesAndResidues_lane : ∀ e ∈ [([0, 0, 0, 0], Redo.again), ([0, 0, 0, 0xB4], .keep), ([0, 0, 0, 0xFA], .kill)],
    let s := { State.reset.ready false e.1 with cores := [{ Core.fresh 0 with lastWord := [last0] }] }
    s.block? 1 = some c0.blk ∧ c0.blk.wave? 0 = some c0.wv ∧ last0.before.idx = last0.wave ∧ c0.wv.exitedLanes = 0 ∧
      last0.before.part? last0.issue.part = some c0.pt ∧ s.slotKept last0 = true ∧
      s.fetch32 0 1 (last0.issue.pc + BitVec.ofNat 64 (4 * last0.issue.k)) = .ok (wordOf4 e.1) ∧ redoOf (wordOf4 e.1) = e.2 := by
  intro e he
  simp only [List.mem_cons, List.not_mem_nil, or_false] at he
  rcases he with rfl | rfl | rfl <;> exact ⟨rfl, rfl, rfl, rfl, rfl, rfl, rfl, rfl⟩

/-- A wave with a load of lane 0 and a scalar load, both issued at cycle 3, and a store of lane 0 unacknowledged as request 9. -/
def wOpen : Wave :=
  let l : LoadOp := { part := 0, dest := .scalar 4 1, data := [(0, [1, 2, 3, 4])], killed := 0, waits := [], acqScope := none, issued := 3, due := 9 }
  { c0.wv with loads := [{ l with dest := .vec 8 1 }, l], acks := [(9, 0, 0x1000, 4)] }
/-- A transfer without a failing lane, that failed the given number of times. -/
def burstN (n : Nat) : Burst :=
  { fails := n, beat := 0, half := 0, lane := none, corrected := false, uncorrectable := false, bit := 0, bank := 0, row := 0, burst := 0 }

/-- Accesses that are open, and ones that are not. -/
theorem witness_ErrorEvents_aborts :
    (∀ acc ∈ [Access.load 3, .store 9], (sAt wOpen 0).wave? 1 0 = some wOpen ∧ 1 &&& wOpen.openLanes acc ≠ 0 ∧ ∀ k, acc ≠ .waitv k) ∧
    (∀ acc ∈ [Access.load 2, .store 8, .atom], 1 &&& wOpen.openLanes acc = 0) ∧ (∀ l ∈ wOpen.loads, l.issued ≠ 2) ∧
    ((sAt wWaitv 0).wave? 1 0 = some wWaitv ∧ await0.since = 0 ∧ wWaitv.part? await0.part = some c0.pt ∧ 1 &&& c0.pt.mask ≠ 0) ∧
    (wOpen.part? 0 = some c0.pt ∧ wOpen.openPart 0 3 = true ∧ wOpen.run = .running) ∧ sCopying.copyHead 0 = some copy0 :=
  ⟨by simp only [List.mem_cons, List.not_mem_nil, or_false]
      rintro acc (rfl | rfl) <;> exact ⟨rfl, by decide, nofun⟩,
   by decide, by decide, ⟨rfl, rfl, rfl, by decide⟩, ⟨rfl, rfl, rfl⟩, rfl⟩

/-- Transfers that come through, and ones that fail, with and without a write under way. -/
theorem witness_ErrorEvents_transfers :
    (burstLane (burstN 0) = none ∧ s0.onLanes 64 (burstN 0) = burstN 0) ∧ (s0.groupFenced 64 = false ∧ s0.halfDirty 64 = false ∧ s0.rel.writes = []) ∧
    ((s0.onLanes 64 (burstN 4)).fails < 5 ∧ 5 ≤ (s0.onLanes 64 (burstN 5)).fails) ∧
    ({ s0 with l2 := [{ line := 0, dirty := 2, dir := 0 }] } : State).halfDirty 64 = true ∧
    (let e : Nat × List Byte × List Nat := (64, List.replicate 64 7, [])
     let s := { s0 with rel := { s0.rel with writes := [e] } }
     5 ≤ (s.onLanes 64 (burstN 5)).fails ∧ s.halfDirty 64 = false ∧ s.rel.writes.find? (fun e => e.1 == 64) = some e ∧ e.2.1.length = 64) :=
  ⟨⟨rfl, rfl⟩, ⟨rfl, rfl, rfl⟩, ⟨by decide, by decide⟩, rfl, by decide, rfl, rfl, rfl⟩

theorem witness_ErrorEvents :
    (({ s0 with launches := [{ readyLaunch 0 false with started := false }] } : State).launch? 0 = some { readyLaunch 0 false with started := false }) ∧
    (∀ d ∈ [(0 : BitVec 2), 3], let x : L2Line := { line := 2, dirty := d, dir := 0 }
      ({ s0 with l2 := [x] } : State).l2.find? (fun y => y.line == 2) = some x ∧ x.dirty.getLsbD (15 / 8) = (d != 0)) ∧
    (m0.block? 1 = some b0 ∧ b0.halt = none ∧ b0.stream = some t0 ∧ t0.run ≠ .ended) ∧
    ((2 : Nat) ^ 40 - 1 < 2 ^ 40 ∧ s0.groupFenced (2 ^ 40 - 1) = false) ∧ (1 ≤ 3 ∧ 3 ≤ 3) ∧
    (({ s0 with cores := [{ Core.fresh 0 with mchk := [[0x80000001, 0, 0, 0]] }] } : State).core 0).mchk[0]? = some (0x80000001 :: [0, 0, 0]) ∧ (15 < 16 ∧ 63 < 64) :=
  ⟨rfl, by decide, ⟨rfl, rfl, rfl, by decide⟩, ⟨by decide, by decide⟩, by decide, rfl, by decide⟩

/-! ### Hypotheses that are met: the host, launches, traps and cuts -/

/-- Queue 0 belongs to context 1. -/
def sQ : State := { s0 with queues := [{ id := 0, valid := true, ctx := 1, next := 1, drops := 0, assign := 1 }] }
/-- A RESUME of handle 5 of context 1. -/
def resume5 : List Word := [0x4B520001, 0x04000000, 5, 0]
/-- A block that declares no register. -/
def bBare : Block := { c0.blk with decl := { c0.blk.decl with vregs := 0, sregs := 0, tregs := 0 } }
/-- A context with a Pocket frame in use, at 256 KiB. -/
def xPocket : Ctx := { readyCtx with pocket := 0x40000, frames := 1, usedFrames := [0] }
/-- A parked wave. -/
def wParked : Wave := { c0.wv with run := .parked 5 0 }
/-- A halt that has been saved and recorded under handle 5. -/
def halt5 : Halt := { halt0 with saved := true, recorded := true, frames := [(0, 0)], handle := 5 }
/-- A machine with a save area in the frame. -/
def sPocket (b : Block) : State :=
  { sQ with blocks := [b], ctxs := [xPocket], mem := setRun 0 (readyMem [] []) 0x40000 [1] }

theorem witness_HostWrites :
    ((readyPacket false).length ≤ 64 ∧ isResume (readyPacket false) = false ∧ pktCtx (readyPacket false) = 1 ∧ sQ.ctx? 1 = some readyCtx ∧
      sQ.owns 1 0 = true ∧ readyCtx.phase ≠ .resetting ∧ (sQ.queued 0).length < 1024 ∧ (∀ y ∈ sQ.launches, y.uid ≠ sQ.nextUid) ∧
      sQ.packetOk (readyPacket false) = true ∧ pktSetCount (readyPacket false) = 0 ∧ pktFiller (readyPacket false) = false) ∧
    (sQ.packetOk [0x4B580001] = false ∧ isResume [0x4B580001] = false) ∧
    (s0.owns (pktCtx (readyPacket false)) 15 = false) ∧ (isResume resume5 = true ∧ sQ.named (pktCtx resume5) (pa64 resume5 2) = none) ∧
    (pw resume5 0 = 0x4B520001 ∧ pf resume5 1 0 26 = 0 ∧ ((resume5.drop 4).all fun v => v == 0) = true) ∧
    (let b := { bBare with waves := [wParked] }
     (sPocket b).owns (pktCtx resume5) 0 = true ∧ (sPocket b).ctx? (pktCtx resume5) = some xPocket ∧
      (sPocket b).named (pktCtx resume5) (pa64 resume5 2) = some (.wave b wParked 0) ∧ b.halt = none ∧
      (sPocket b).block? b.uid = some b ∧ b.wave? wParked.idx = some wParked ∧
      ((sPocket b).goodArea xPocket b.decl 0).isSome = true ∧ ({ sPocket b with mem := [] } : State).goodArea xPocket b.decl 0 = none) ∧
    (let b := { bBare with waves := [wParked], halt := some halt0 }
     (sPocket b).named (pktCtx resume5) (pa64 resume5 2) = some (.wave b wParked 0) ∧ (sPocket b).block? b.uid = some b) ∧
    (let b := { bBare with halt := some halt5 }
     (sPocket b).named (pktCtx resume5) (pa64 resume5 2) = some (.block b halt5) ∧ b.toRestore halt5 = [(0, 0)] ∧
      (sPocket b).block? b.uid = some b ∧ ((sPocket b).goodArea xPocket b.decl 0).isSome = true) ∧
    sQ.queued 15 = [] ∧ sQ.queued 0 ≠ [] ∧ (0xFFF8 < 0x10000 ∧ 0xFFF8 % 256 + 3 < 0xFC) ∧ (0xFFF9 < 0x10000 ∧ 0xFC ≤ 0xFFF9 % 256 + 3) ∧
    (0x30000 ≤ 0x37FFC ∧ 0x37FFC < 0x38000) ∧ s0.rel.fencedGroups = [] :=
  ⟨⟨by decide, rfl, rfl, rfl, rfl, by decide, by decide, by decide, by decide +kernel, rfl, rfl⟩, ⟨by decide +kernel, rfl⟩, rfl, ⟨rfl, rfl⟩, ⟨rfl, rfl, rfl⟩,
   ⟨rfl, rfl, rfl, rfl, rfl, rfl, by decide +kernel, by decide +kernel⟩, ⟨rfl, rfl⟩, ⟨rfl, rfl, rfl, by decide +kernel⟩, rfl, by decide,
   by decide, by decide, by decide, rfl⟩

/-- A launch that waits at the head of its queue, of the given class, with its blocks and the cores it may use. -/
def lHead (cls : Nat) (blocks : Nat) : Launch :=
  { readyLaunch 0 false with
    packet := [0x4B580001, BitVec.ofNat 32 (0x04000000 + cls * 2 ^ 17), 0x1000, 0, 0, 0, BitVec.ofNat 32 blocks, 1, 0x04000000, 0] ++
      List.replicate 13 0 ++ [1, 0x2000, 0] ++ List.replicate 38 0
    started := false, waitDone := true, nextIdx := 0, live := blocks }
/-- A device with that launch and no block. -/
def sHead (l : Launch) : State := { sQ with launches := [l], blocks := [], issues := [], nextUid := 5 }

theorem witness_LaunchEvents :
    (s0.startWaves 0 (readyLaunch 0 false) 0 ≠ []) ∧
    ((sHead (lHead 2 1)).headOf 0 = some (lHead 2 1) ∧ (sHead (lHead 2 1)).launch? 0 = some (lHead 2 1) ∧
      (sHead (lHead 2 1)).dispatchPick = some (lHead 2 1) ∧ pktClass (lHead 2 1).packet ≠ 0) ∧
    ((sHead (lHead 2 1)).headFree (lHead 2 1) = true ∧ lHead 2 1 = { lHead 2 1 with waitDone := true } ∧
      (sHead { lHead 2 1 with waitDone := false }).headOf 0 = some { lHead 2 1 with waitDone := false } ∧
      (sHead { lHead 2 1 with waitDone := false }).headFree { lHead 2 1 with waitDone := false } = true ∧ inAperture (pktWaddr (lHead 2 1).packet) = false ∧
      (sHead (lHead 2 1)).isBad 0 4 = false ∧
      (sHead (lHead 2 1)).translate 768 1 { r := true } (pktWaddr (lHead 2 1).packet) = .ok { space := .here, pa := 0, policy := 0 }) ∧
    (let l := { lHead 2 1 with status := some 1 }
     (sHead l).launch? 0 = some l ∧ (sHead l).launchDone l = true ∧ pktRec l.packet = 0x2000 ∧
      (sHead l).translate 768 1 { w := true } 0x2000 = .ok { space := .here, pa := 0x2000, policy := 0 }) ∧
    (let l := { lHead 0 1 with started := true, reserved := [767] }
     (sHead l).dispatchPick = some l ∧ (sHead l).cutState l l.takeIdx.1 = 0 ∧ pktClass l.packet = 0) ∧
    (let l := { lHead 2 1 with started := true, nextIdx := 1 }
     let s := { sHead l with cores := [{ Core.fresh 0 with pending := [(0, 0)] }] }
     s.nextPending 0 = some (0, 0) ∧ s.launch? 0 = some l ∧ s.cutState l 0 ≠ 1) ∧
    (let w := { c0.wv with splits := [none, none, none, none], run := .exited }
     let s := mk (readyIssue 1) c0.blk w
     s.block? 1 = some (bw w) ∧ s.blockDrained (bw w) = true ∧ s.launch? 0 = some (readyLaunch 0 false) ∧ s.rel.fencedGroups = [] ∧
      (releaseWhatCan s (s.l1Of 0 1)).evicting 0 1 = false ∧
      (evicts s).blockDrained (bw w) = true ∧ (releaseWhatCan (evicts s) ((evicts s).l1Of 0 1)).evicting 0 1 = true) :=
  ⟨by decide, ⟨rfl, rfl, rfl, by decide⟩, ⟨rfl, rfl, rfl, rfl, rfl, rfl, rfl⟩, ⟨rfl, rfl, rfl, rfl⟩, ⟨rfl, rfl, rfl⟩, ⟨rfl, rfl, by decide⟩, rfl, rfl, rfl, rfl, rfl, rfl, rfl⟩

/-- A class 0 launch has a reservation, or is too large for any. -/
theorem witness_LaunchEvents_reservation : ((sHead (lHead 0 1)).reservation (lHead 0 1)).isSome = true ∧
    (sHead (lHead 0 73729)).reservation (lHead 0 73729) = none := ⟨by decide +kernel, by decide +kernel⟩

/-- The head of a class 2 launch that has started finds an engine. -/
theorem witness_LaunchEvents_engine : ((sHead { lHead 2 1 with started := true }).engineFor { lHead 2 1 with started := true }).isSome = true := by
  decide +kernel

/-- A number that names core 1 is followed by one that does not. -/
theorem lfsr_leaves : ∀ k, k < 86 → (lfsrStep (BitVec.ofNat 16 (1 + 768 * k))).toNat % 768 ≠ 1 := by decide +kernel

/-- Core 1 finds a victim from every state of its LFSR. -/
theorem stealVictim_other (n : Nat) (x : BitVec 16) : (stealVictim 1 (n + 2) x).1 ≠ 1 := by
  simp only [stealVictim]
  by_cases h : (lfsrStep x).toNat % Config.nCores = 1
  · have hy : lfsrStep x = BitVec.ofNat 16 (1 + 768 * ((lfsrStep x).toNat / 768)) := by
      apply BitVec.eq_of_toNat_eq
      have h' : (lfsrStep x).toNat % 768 = 1 := h
      simp only [BitVec.toNat_ofNat]
      omega
    have hz : (lfsrStep (lfsrStep x)).toNat % Config.nCores ≠ 1 := hy ▸ lfsr_leaves ((lfsrStep x).toNat / 768) (by omega)
    rw [if_pos h, if_neg hz]
    exact hz
  · rw [if_neg h]
    exact h

/-- An idle core finds a victim, however many requests it has sent before. -/
theorem witness_LaunchEvents_steal : (sHead (lHead 2 1)).coreIdle 1 = true ∧
    ∃ v, stealVictim 1 65536 (stealSkip 1 (Config.freeSteals (sHead (lHead 2 1)).free) ((sHead (lHead 2 1)).core 1).lfsr) = v ∧ v.1 ≠ 1 :=
  ⟨rfl, _, rfl, stealVictim_other 65534 _⟩

/-- A wave whose TRAP may be granted. -/
def wTrapping (released : Bool) : Wave := { c0.wv with run := .trapping 0 7 1 0 0 released }
/-- A context with frames, a ring of 16 entries and a trap area. -/
def xTrap : Ctx := { readyCtx with frames := 2, usedFrames := [0], pocket := 0x40000, rsize := 4, trapArea := 0x80000, trapSize := 4 }
/-- Its machine, past the strike window. -/
def sTrap (b : Block) (x : Ctx) : State := { s0 with now := 257, issues := [], blocks := [b], ctxs := [x] }

theorem witness_TrapAndCutEvents :
    ((sTrap (bw (wTrapping false)) xTrap).ctx? 1 = some xTrap ∧
      (sTrap (bw (wTrapping false)) xTrap).trapper 1 = some (bw (wTrapping false), wTrapping false) ∧
      (sTrap (bw (wTrapping false)) xTrap).releaseL1 0 1 = .ok (sTrap (bw (wTrapping false)) xTrap) ∧
      (sTrap (bw (wTrapping false)) xTrap).evicting 0 1 = false ∧
      (evicts (sTrap (bw (wTrapping false)) xTrap)).trapper 1 = some (bw (wTrapping false), wTrapping false) ∧
      (evicts (sTrap (bw (wTrapping false)) xTrap)).releaseL1 0 1 = .ok (evicts (sTrap (bw (wTrapping false)) xTrap)) ∧
      (evicts (sTrap (bw (wTrapping false)) xTrap)).evicting 0 1 = true) ∧
    ((sTrap (bw (wTrapping true)) xTrap).trapper 1 = some (bw (wTrapping true), wTrapping true) ∧
      (sTrap (bw (wTrapping true)) xTrap).wave? 1 0 = some (wTrapping true) ∧ (freeFrameList xTrap).head? = some 1) ∧
    (let h := hold0 true true none; let w := { c0.wv with run := .fence h }
     (sTrap (bw w) xTrap).block? 1 = some (bw w) ∧ w.held? = some h ∧ w.part? h.part = some c0.pt) ∧
    (xTrap.ringRoom = true ∧ (List.replicate 256 (0 : Word)).length = 256) ∧
    (let b := { c0.blk with halt := some { halt0 with signalled := false } }
     (sTrap b xTrap).block? 1 = some b ∧ (0 : Nat) < (sTrap b xTrap).now) ∧
    (let b := { c0.blk with halt := some halt0 }
     (sTrap b xTrap).haltDone b halt0 = true ∧ halt0.cause ≠ 13 ∧ xTrap.nextHandle ≠ 0 ∧
      (b.waves.filter Wave.toSave).length ≤ (freeFrameList xTrap).length ∧ (∀ w ∈ b.waves, w.run = .running)) ∧
    ((sTrap c0.blk xTrap).trapRoom xTrap = true ∧ halt5.handle ≠ 0 ∧ (sTrap c0.blk xTrap).rel.fencedGroups = []) ∧
    (sTrap c0.blk { xTrap with timers := [(0, 257)] }).deadlinePassed 0 1 = true ∧
    (sTrap c0.blk { xTrap with timers := [(0, 258)] }).deadlinePassed 0 1 = false ∧
    (let l := { readyLaunch 0 false with cut := some 0 }
     let s := { sTrap (bw { c0.wv with run := .held 0 }) xTrap with launches := [l] }
     s.launch? 0 = some l ∧ s.cutReady l = true ∧ s.aged 0 0 = true ∧ s.ctx? l.ctx = some xTrap ∧
      ∀ b ∈ s.blocks, (s.blocks.foldl (fun s b => releaseWhatCan s (s.l1Of b.core b.ctx)) s).evicting b.core b.ctx = false) :=
  ⟨⟨rfl, rfl, rfl, rfl, rfl, rfl, rfl⟩, ⟨rfl, rfl, rfl⟩, ⟨rfl, rfl, rfl⟩, ⟨rfl, by decide +kernel⟩, ⟨rfl, by decide⟩, ⟨by decide +kernel, by decide, by decide, by decide, by decide⟩, ⟨by decide +kernel, by decide, rfl⟩, rfl, rfl,
   rfl, by decide +kernel, rfl, rfl, by decide +kernel⟩

/-! ### Hypotheses that are met: the fabric -/

/-- A machine with a port that is up, a window of context 1 and a key of zeros. -/
def sNet (p : Port) : State :=
  { s0 with
    ctxs := [{ readyCtx with keys := [(0, 0)], recSlots := 2 }]
    sv := { s0.sv with
      ports := [{ p with up := true }]
      windows := [(0, BitVec.ofNat 64 (2 ^ 63 + 1 * 2 ^ 57 + 16 * 2 ^ 51))] } }
/-- That machine with its port as after training. -/
def n0 : State := sNet (Port.fresh 3)

/-- 128 bytes with and without the right CRC. -/
theorem witness_LinkEvents_bytes : (flit0 1 [5]).payload.length ≤ 112 ∧ (List.replicate 128 (0 : Byte)).length = 128 ∧
    BitVec.ofNat 32 (leNat ((List.replicate 128 (0 : Byte)).take 4)) ≠ crc32 ([0, 0, 0, 0] ++ (List.replicate 128 (0 : Byte)).drop 4) ∧
    BitVec.ofNat 32 (leNat ((flitBytes (flit0 1 [5])).take 4)) = crc32 ([0, 0, 0, 0] ++ (flitBytes (flit0 1 [5])).drop 4) :=
  ⟨by decide, rfl, by decide +kernel, by decide +kernel⟩

theorem witness_LinkEvents :
    ((neighbour 0 3).isSome = true ∧ (s0.port 3).fenced = false ∧ s0.sv.egress = [] ∧ s0.own = 0) ∧
    (n0.arrives 3 (flit0 0 []) 0 = true ∧ n0.sv.egress = [] ∧ (n0.port 3).stage = 0 ∧ (flit0 0 []).cvc.toNat < (n0.port 3).outst.length) ∧
    (n0.arrives 3 (flit0 13 [1]) 13 = true ∧ (n0.port 3).applied ≠ ((flit0 13 [1]).payload.headD 0).extractLsb' 0 4) ∧
    (n0.arrives 3 (flit0 13 [0]) 13 = true ∧ (n0.port 3).applied = ((flit0 13 [0]).payload.headD 0).extractLsb' 0 4) ∧
    n0.arrives 3 (flit0 14 [0, 0]) 14 = true ∧ ((n0.port 3).up = true ∧ isLinkLocal (flit0 1 []).typ.toNat = false) ∧
    (let f := { flit0 1 [] with dst := 9 }
     let s := { n0 with sv := { n0.sv with ports := [{ Port.fresh 3 with up := true }, { Port.fresh 4 with up := true }], router := [(9, 0x24)] } }
     s.isMine f = false ∧ badType f.typ.toNat = false ∧ f.lseq = (s.port 3).expect ∧ rtPort (s.route 9) = 4 ∧ rtValid (s.route 9) = true ∧
      (s.port 4).room (nextVc f) ≠ 0 ∧ (s.port 3).rx = []) ∧
    (let s := { n0 with now := 4096 }
     (s.port 3).roundAt + 1024 ≤ s.flitNow ∧ (s.port 3).stage = 0) ∧
    (let s := { sNet { Port.fresh 3 with stage := 1, epoch := 1 } with now := 256 }
     (s.port 3).stage ≠ 0 ∧ (s.port 3).lackSeen ≠ (s.port 3).epoch ∧ (s.port 3).lendAt + 64 ≤ s.flitNow) ∧
    (let s := { sNet { Port.fresh 3 with rx := [(0, 3, flit0 1 [])] } with now := 786432 }
     (s.port 3).rx.find? (fun e => decide (e.1 + 2 ^ 19 ≤ s.svNow)) = some (0, 3, flit0 1 [])) ∧
    (let s := { n0 with sv := { n0.sv with ports := [{ Port.fresh 3 with up := true, rx := [(0, 4, flit0 1 [])] }, { Port.fresh 4 with up := true }] } }
     (s.port 3).rx = [(0, 4, flit0 1 [])] ∧ (s.port 4).up = true ∧ (s.port 4).room (nextVc (flit0 1 [])) ≠ 0) ∧
    (({ Port.fresh 4 with outst := List.replicate 8 64 } : Port).room 1 = 0 ∧ (flit0 1 (List.replicate 112 7)).payload.length ≤ 112) :=
  ⟨⟨by decide +kernel, rfl, rfl, rfl⟩, ⟨rfl, rfl, rfl, by decide⟩, ⟨rfl, by decide⟩, ⟨rfl, by decide⟩, rfl, ⟨rfl, rfl⟩, by decide, by decide +kernel,
   by decide +kernel, by decide +kernel, by decide +kernel, by decide⟩

/-- A token of device 5 and context 1 for window 0: slot 0, expiring at tick 1, with every right, of 64 KiB. -/
def token0 : BitVec 64 := 0xDB400CF002000400
/-- Its bytes. -/
def tok8 : List Byte := [0x00, 0x04, 0x00, 0x02, 0xF0, 0x0C, 0x40, 0xDB]

theorem token0_mac : tokenMac 0 token0 5 0 1 = 0xDB400C := by decide +kernel

/-- A read, a write, an atomic and record flits with that token at address 64. -/
def rd0 : Flit := flit0 1 (tok8 ++ [64, 0, 0, 0, 0, 0, 0, 0, 1])
/-- A write. -/
def wr0 : Flit := flit0 2 (tok8 ++ [0xC0, 0xFF, 0, 0, 0, 0, 0, 0] ++ List.replicate 8 0xFF ++ List.replicate 64 9)
/-- An atomic. -/
def at0 : Flit := flit0 3 (tok8 ++ [0xFC, 0xFF, 0, 0, 0, 0, 0, 0] ++ [0, 0, 0, 0] ++ [5, 0, 0, 0] ++ [0, 0, 0, 0])
/-- A record. -/
def rec0 : Flit := flit0 4 (tok8 ++ List.replicate 8 0 ++ List.replicate 64 1)
/-- A RETURN of two credits. -/
def ret0 : Flit := flit0 4 (tok8 ++ [1, 0, 2, 0, 0, 0, 0, 0])

/-- A request with that token in window 0 passes. -/
theorem passes0 (f : Flit) (bit a n : Nat) (h : flitToken f = token0) (hs : f.src = 5) (hc : f.ctx = 1) (hb : token0.getLsbD bit = true)
    (hn : a + n ≤ 65536) : n0.ingress f bit (some (a, n)) = none ∧ n0.ingress f bit none = none := by
  have hm := token0_mac
  have hk : n0.key? (winOwner (n0.window token0)) (token0.extractLsb' 24 1).toNat = some 0 := by decide
  have hv : winValid (n0.window token0) = true := by decide
  have hx : token0.extractLsb' 40 24 = 0xDB400C := by decide
  have hl : (token0.extractLsb' 25 11).toNat + 2048 - n0.sv.tick.toNat = 2049 := by decide
  have ho : n0.own = 0 := rfl
  have he : (token0.extractLsb' 6 6).toNat = 16 := by decide
  have hu : (token0.extractLsb' 0 6).toNat = 0 := by decide
  have hw : winSize (n0.window token0) = 16 := by decide
  have hB : winBase (n0.window token0) = 0 := by decide
  have hs' : f.src.toNat = 5 := by rw [hs]; rfl
  have hc' : f.ctx.toNat = 1 := by rw [hc]; rfl
  constructor <;> simp only [State.ingress, h, hs', hc', hk, hv, hx, hl, ho, he, hu, hw, hB, hm, hb]
  · simp
    omega
  · simp

/-- Each of them is the next of its port and comes to this device. -/
theorem takes0 (f : Flit) (h : f ∈ [rd0, wr0, at0, rec0, ret0]) : TakesFlit n0 3 f f.typ.toNat := by
  simp only [List.mem_cons, List.not_mem_nil, or_false] at h
  rcases h with rfl | rfl | rfl | rfl | rfl <;> exact ⟨rfl, rfl, rfl, fun _ h => nomatch h⟩

theorem witness_RequestsServed :
    (TakesFlit n0 3 rd0 1 ∧ payNat rd0 16 1 = 1 ∧ Admitted n0 rd0 39 64 ∧ n0.isBad (payNat rd0 8 8) 64 = false) ∧
    (TakesFlit n0 3 wr0 2 ∧ Admitted n0 wr0 38 64) ∧
    (TakesFlit n0 3 at0 3 ∧ Admitted n0 at0 37 4 ∧ n0.isBad (payNat at0 8 8) 4 = false) ∧
    (TakesFlit n0 3 (flit0 2 []) 2 ∧ formatBad (flit0 2 []) = true) ∧
    (TakesFlit s0 3 wr0 2 → False) ∧
    (let s := { n0 with sv := { n0.sv with windows := [] } }
     TakesFlit s 3 wr0 2 ∧ formatBad wr0 = false ∧ s.ingress wr0 38 (some (payNat wr0 8 8, 64)) = some 2) ∧
    (TakesFlit n0 3 rec0 4 ∧ recFormatBad rec0 = false ∧ payNat rec0 8 1 = 0 ∧ n0.ingress rec0 36 none = none ∧
      winOwner (n0.window (flitToken rec0)) = 1 ∧ n0.ctx? 1 = some { readyCtx with keys := [(0, 0)], recSlots := 2 }) ∧
    (TakesFlit n0 3 ret0 4 ∧ recFormatBad ret0 = false ∧ payNat ret0 8 1 = 1 ∧ n0.ingress ret0 36 none = none) ∧
    (({ n0 with now := 6291456 } : State).svNow / 2 ^ 22 % 2048 ≠ n0.sv.tick.toNat) ∧ n0.svNow / 2 ^ 22 % 2048 = n0.sv.tick.toNat :=
  ⟨⟨takes0 _ (by simp), rfl, ⟨rfl, (passes0 rd0 39 64 64 (by decide) rfl rfl (by decide) (by decide)).1, rfl⟩, rfl⟩,
   ⟨takes0 _ (by simp), ⟨rfl, (passes0 wr0 38 0xFFC0 64 (by decide) rfl rfl (by decide) (by decide)).1, rfl⟩⟩,
   ⟨takes0 _ (by simp), ⟨rfl, (passes0 at0 37 0xFFFC 4 (by decide) rfl rfl (by decide) (by decide)).1, rfl⟩, rfl⟩,
   ⟨⟨rfl, rfl, rfl, fun _ h => nomatch h⟩, rfl⟩, fun h => absurd h.arrives (by decide), ⟨⟨rfl, rfl, rfl, fun _ h => nomatch h⟩, rfl, rfl⟩,
   ⟨takes0 _ (by simp), rfl, rfl, (passes0 rec0 36 0 0 (by decide) rfl rfl (by decide) (by decide)).2, by decide, rfl⟩,
   ⟨takes0 _ (by simp), rfl, rfl, (passes0 ret0 36 0 0 (by decide) rfl rfl (by decide) (by decide)).2⟩, by decide, by decide⟩

/-- A request of the wave's load, store or atomic. -/
def tag0 (o : ReqOwner) : Tag :=
  { target := 5, idx := 7, gen := 0, req := { rid := 1, dev := 5, sector := 4, count := 1, ctx := 1, fill := none, l1 := none, slot := none, owner := o },
    sent := 0, got := [], mark := none }
/-- The machine with that request outstanding. -/
def nTag (o : ReqOwner) : State := { n0 with sv := { n0.sv with tags := [tag0 o] } }

theorem witness_RequestsAnswered :
    (∀ e ∈ [(8, ReqOwner.load 1 0), (9, .store 1 0 0), (10, .atom 1 0 0), (11, .load 1 0), (11, .wait 0)],
      (nTag e.2).arrives 3 (flit0 e.1 []) e.1.toNat = true ∧ (nTag e.2).tagOf (flit0 e.1 []) = some (tag0 e.2)) ∧
    ((nTag (.load 1 0)).block? 1 = some c0.blk ∧ c0.blk.wave? 0 = some c0.wv ∧ (flit0 8 []).lseq = (n0.port 3).expect) ∧
    (TakesFlit n0 3 (flit0 8 []) 8 ∧ n0.tagOf (flit0 8 []) = none) ∧
    (TakesFlit n0 3 (flit0 12 (List.replicate 16 0)) 12 ∧ (n0.totals 5 0).lastApplied = none) ∧
    (let s := { n0 with now := 1572864, sv := { n0.sv with tags := [tag0 (.load 1 0)] } }
     s.sv.tags.find? (fun t => t.target == 5 && t.idx == 7) = some (tag0 (.load 1 0)) ∧ (tag0 (.load 1 0)).sent + 2 ^ s.mgmt.svTimeout ≤ s.svNow) ∧
    isResponse (flit0 1 []).typ.toNat = false :=
  ⟨by decide +kernel, ⟨rfl, rfl, rfl⟩, ⟨⟨rfl, rfl, rfl, fun _ h => nomatch h⟩, rfl⟩, ⟨⟨rfl, rfl, rfl, fun _ h => nomatch h⟩, rfl⟩, by decide +kernel, rfl⟩

/-! ### Hypotheses that are met: the Mantle -/

/-- A communicator of two ranks, this device the first. -/
def comm0 : Comm :=
  { id := 0, gen := 0, phase := .active, nranks := 2, rank := 0, prio := 3, uet := false, minChunks := 2, ctx := 1, rxSlice := 12, tclass := 0,
    members := [0, 5], tokens := [0, 0], rxBase := 0x30000, opseq := 0, sendSeq := [], queue := [], run := none, sends := [], awaits := [],
    inbox := [], readySince := none, raise := 0, sendPos := [], recvPos := [], recvBad := [], past := [], exchanges := [], ends := [], abortNext := false }
/-- A COLL, or a CSEND of 4 bytes to rank 1, of block 1. -/
def op0 (csend : Bool) : CollOp :=
  { csend := csend, name := 9, block := 1, wave := 0, token := 2, ctx := 1,
    desc := [0, 0, 4, 0, 0, if csend then 0x4000 else 0x40000000, 0x1000, 0], seq := 0, pos := 0 }
/-- Its run, a barrier with the given steps to do. -/
def run0 (todo : List CollAct) : CollRun :=
  { op := op0 false, todo := todo, codes := [], image := [], spoiled := [], status := 0, sat := 0, lost := 0, hdrSent := [], hdrGot := [], since := 0 }
/-- A machine with that communicator and the operations that wait at the Mantle. -/
def sMan (cs : List Comm) (arriving : List CollOp) : State :=
  { n0 with mantle := { n0.mantle with comms := cs, arriving := arriving } }
/-- The header of a message of communicator 0. -/
def msg0 : List Byte := [0, 0, 0, 0, 2, 0, 3, 0, 0, 0, 0, 0]
/-- Its UET communicator, whose peers are endpoints 7 and 8. -/
def commU : Comm := { comm0 with uet := true, members := [7, 8], minChunks := 2 }

theorem witness_MantleEvents :
    ((sMan [] [op0 false]).collNext 1 0 = some (op0 false) ∧
      (sMan [] [op0 false]).badComm (op0 false) = true ∧ (sMan [] [op0 false]).block? 1 = some c0.blk ∧ (sMan [] []).mantle.records = []) ∧
    (let c := { comm0 with run := some (run0 [.barrier 1]) }
     (sMan [c] [op0 false]).collNext 1 0 = some (op0 false) ∧ (sMan [c] [op0 false]).badComm (op0 false) = false ∧ (sMan [c] [op0 false]).comm? (collComm (op0 false).desc) = some c ∧
      Underway (sMan [c] [op0 false]) c) ∧
    ((sMan [comm0] [op0 true]).collNext 1 0 = some (op0 true) ∧ (sMan [comm0] [op0 true]).badComm (op0 true) = false ∧ (sMan [comm0] [op0 true]).comm? (collComm (op0 true).desc) = some comm0 ∧
      comm0.run = none ∧ comm0.queue = [] ∧ (sMan [comm0] [op0 true]).commBusy comm0 = false) ∧
    (let c := { comm0 with sends := [{ op := op0 true, peer := 1, start := 0, sent := 0, lost := 0 }] }
     (sMan [c] []).nextComm = some c ∧ (sMan [c] []).comm? c.id = some c ∧ c.run = none ∧ c.queue = [] ∧ Underway (sMan [c] []) c ∧
      (nextRead (sMan [c] []) c { op := op0 true, peer := 1, start := 0, sent := 0, lost := 0 }).asks = []) ∧
    (let c := { comm0 with run := some (run0 [.barrier 0]) }
     (sMan [c] []).nextComm = some c ∧ c.runReady = true) ∧
    (let c := { comm0 with readySince := some 0 }
     c.ages 65536 = true ∧ c.ages 65535 = false) ∧
    (let c := { comm0 with run := some (run0 [.barrier 1]) }
     (c.missingInput.map fun x => x.2.peer) = some 1 ∧ ((run0 [.barrier 1]).todo.head?.any CollAct.unarbitrated) = false) ∧
    (12 ≤ msg0.length ∧ (sMan [] []).msgComm msg0 = none) ∧
    ((sMan [commU] []).msgComm msg0 = some commU ∧ commU.members.findIdx? (fun m => m == 8) = some 1 ∧ msgField msg0 8 1 ≤ 1 ∧
      msgField msg0 10 2 = 0 ∧ msgField msg0 2 2 = commU.opseq ∧ commU.inbox = []) ∧
    (TakesFlit n0 3 (flit0 5 []) 5 ∧ (flit0 5 []).payload.length < 20) ∧
    (let s := sMan [comm0] []; let f := flit0 5 (tok8 ++ msg0)
     TakesFlit s 3 f 5 ∧ 20 ≤ f.payload.length ∧ s.msgComm ((f.payload.drop 8).take 12) = some comm0 ∧
      msgField ((f.payload.drop 8).take 12) 0 2 < 1024 ∧ msgField ((f.payload.drop 8).take 12) 9 1 < 2 ∧
      comm0.members.findIdx? (fun m => m == f.src.toNat) = some 1) ∧
    (let c := { comm0 with phase := .quiescent, exchanges := [5, 5] }
     (sMan [c] []).comm? 0 = some c ∧ (sMan [c] []).commDone c = true ∧ (sMan [comm0] []).commDone comm0 = false) ∧
    (let m := n0.uetMsg commU 7 0 [1]
     ({ n0 with mantle := { n0.mantle with unacked := [m] } } : State).mantle.unacked.find? (fun e => e.peer == 7) = some m) :=
  ⟨⟨rfl, rfl, rfl, rfl⟩, ⟨rfl, rfl, rfl, by decide, rfl⟩, ⟨rfl, rfl, rfl, rfl, rfl, rfl⟩, ⟨rfl, rfl, rfl, rfl, rfl, rfl⟩, ⟨rfl, rfl⟩, ⟨by decide +kernel, by decide +kernel⟩, ⟨rfl, rfl⟩, ⟨by decide, rfl⟩,
   ⟨rfl, rfl, by decide, rfl, rfl, rfl⟩, ⟨⟨rfl, rfl, rfl, fun _ h => nomatch h⟩, by decide⟩, ⟨⟨rfl, rfl, rfl, fun _ h => nomatch h⟩, by decide, rfl, by decide, by decide, rfl⟩, ⟨rfl, rfl, rfl⟩, rfl⟩

/-- A COLL waits while an earlier CSEND of its wave is under way in another communicator. -/
theorem witness_MantleEvents_held :
    let c := { comm0 with id := 1, sends := [{ op := { op0 true with desc := [0, 0, 4, 0, 0, 0x4010, 0x1000, 0] }, peer := 1, start := 0, sent := 0, lost := 0 }] }
    (sMan [comm0, c] [op0 false]).mantle.arriving.find? (fun o => o.block == 1 && o.wave == 0) = some (op0 false) ∧
    (sMan [comm0, c] [op0 false]).collHeld (op0 false) = true ∧ (sMan [comm0, c] [op0 false]).collNext 1 0 = none := ⟨rfl, rfl, rfl⟩

/-- A leaf of a page of device 5 that may be read. -/
def remote5 : List Byte := [0x8B, 0, 0, 0, 0, 0, 0x40, 0x01]

/-- A CSEND whose source lies on another device asks for its sector first. -/
theorem witness_MantleEvents_asks :
    let c := { comm0 with sends := [{ op := op0 true, peer := 1, start := 0, sent := 0, lost := 0 }] }
    let s := { sMan [c] [] with mem := setRun 0 (readyMem [] []) 0x20000 remote5 }
    s.nextComm = some c ∧ (nextRead s c { op := op0 true, peer := 1, start := 0, sent := 0, lost := 0 }).asks ≠ [] := by decide +kernel

/-- The collective's flit passes the window. -/
theorem witness_MantleEvents_ingress : n0.ingress (flit0 5 (tok8 ++ msg0)) 36 none = none :=
  (passes0 _ 36 0 0 (by decide) rfl rfl (by decide) (by decide)).2

/-- A part of a swap of 2 by 1 tiles whose input from rank 1 has not come, its header being there. -/
def runSwap : CollRun :=
  { run0 [.swapMerge 1] with
    op := { op0 false with desc := [0, 0, 4, 0, 0x20001, 0, 0x1000, 0] }
    hdrGot := [1] }

/-- UET gives up on one chunk before the limit, and on all of them at it; a Svacon communicator on all. -/
theorem witness_MantleEvents_givesUp :
    let c := { commU with run := some runSwap }
    (c.missingInput.map fun x => GivesUpOne (sMan [c] []) c x.1 x.2) = some true ∧
    (c.missingInput.map fun x => (x.2.chunk, lowestMissing (c.inputMsgs x.1.op.seq x.2) (c.inputMsgs x.1.op.seq x.2).length 0)) = some (none, 0) ∧
    (c.missingInput.map fun x => GivesUpOne { sMan [c] [] with now := 2 ^ 26 } c x.1 x.2) = some false ∧
    (runSwap.todo.head?.any CollAct.unarbitrated) = false ∧ commU.phase = .active ∧ commU.run = none ∧ comm0.phase = .active := by decide +kernel

/-- A copy of 64 bytes to the send queue of rank 1. -/
theorem witness_CoreEvents_queue :
    let j := copyAt 1 4 0 64
    let s := { sCopyAt 1 4 0 64 with mantle := { (sMan [comm0] []).mantle with comms := [comm0] } }
    s.copyHead 0 = some j ∧ j.issued + 4 ≤ s.now ∧ s.block? j.block = some c0.blk ∧ j.rows[j.row]? = some (0, 64) ∧
      s.aged 0 j.issued = true ∧ s.sendComm c0.blk 64 = some comm0 ∧ s.streamBusy 0 1 = false := by
  exact ⟨rfl, by decide +kernel, rfl, rfl, by decide +kernel, rfl, by decide +kernel⟩

theorem witness_TilesReadBack : (blankTile 0).length = 16 ∧ (∀ p ∈ blankTile 0, p.c.length = 4) ∧ 2 ^ 30 - 1 < 2 ^ 30 := by decide

/-! ### Hypotheses that are met: management -/

/-- R462: 105 °C and 3,600 W are not above the limits; 106 °C is, and a die at its floor of 1,200 MHz stays there. -/
theorem test_throttle : (∃ t, exec (.throttleStep 0 ⟨3600000, 105, 0⟩) s0 = .next t ∧ t.clockOf 0 = 3300 ∧ t.spaceWord 0x10200 = 3600000) ∧
    (∃ t, exec (.throttleStep 0 ⟨0, 106, 0⟩) s0 = .next t ∧ t.clockOf 0 = 3200 ∧ t.spaceWord 0x10204 = BitVec.ofNat 32 (65536 * 3200 + 106)) ∧
    ∃ t, exec (.throttleStep 7 ⟨3600001, 0, 0⟩) (s0.setClock 7 1200) = .next t ∧ t.clockOf 7 = 1200 :=
  ⟨⟨_, rfl, rfl, rfl⟩, ⟨_, rfl, rfl, rfl⟩, _, rfl, rfl⟩

/-- A descriptor of a context with page tables at 64 KiB. -/
def desc0 : List Word := [0x10000, 0, 0x8000, 0, 0x400, 0, 4, 40, 0x20000, 0, 2, 0, 0, 0, 0, 0] ++ List.replicate 16 0
/-- A window entry of context 1: 64 KiB from 64 KiB on. -/
def win0 : BitVec 64 := BitVec.ofNat 64 (2 ^ 63 + 1 * 2 ^ 57 + 16 * 2 ^ 51 + 2 ^ 16)

theorem witness_DeviceCommands : s0.mgmt.waiting = [] ∧ (0x10234 % 4 = 0 ∧ 1023 ≤ 1023) ∧
    ((15 : Word).extractLsb' 0 5).toNat < 16 ∧ 28 < ((29 : Word).extractLsb' 0 5).toNat ∧
    (win0.extractLsb' 40 11 = 0 ∧ win0.extractLsb' 0 16 = 0 ∧ winValid win0 = true ∧ 16 ≤ winSize win0 ∧ winSize win0 ≤ 40 ∧
      winBase win0 % 2 ^ winSize win0 = 0) ∧
    ((0x25 : BitVec 128).extractLsb' 96 32 = 0 ∧ s0.sv.egress = [] ∧ 992 ≤ 992) ∧
    ((List.replicate 16 (0 : Word)).length = 16 ∧ uetZeroBad (List.replicate 16 0) = false ∧ s0.peerNamed 4095 = false) ∧
    (∀ b ∈ s0.blocks, b.core ≠ 767) ∧ partOk 6 1 = false ∧ partOk 5 32 = false ∧ (List.replicate 32 (0 : Byte)).length = 32 ∧
    ((8 ≤ 8 ∧ 2 ^ 32 - 1 < 2 ^ 32 ∧ 1200 ≤ 1200 ∧ 3300 ≤ 3300) ∧ repairValid [(65532, 0x80000000)] 16383 = true ∧ repairValid s0.rel.repairs 16383 = false) ∧
    0x03 ∉ commandCodes ∧ ({ s0.mgmt with images := [(0, [1])] } : Mgmt).images.reverse.find? (fun e => e.1 == 0) = some (0, [1]) ∧
    (let h := [0x02, 1, 0, 0]
     let s := { s0 with mgmt := { s0.mgmt with waiting := [h] } }
     s.mgmt.waiting = [h] ∧ s.mgmt.retrying = false ∧ ({ s with mgmt := { s.mgmt with retrying := true } } : State).mgmt.retrying = true) :=
  ⟨rfl, by decide, by decide, by decide, by decide +kernel, by decide +kernel, by decide +kernel, by decide, rfl, rfl, rfl, by decide, by decide, rfl, rfl, by decide⟩

theorem witness_MintedTokensPass : n0.mgmt.waiting = [] ∧
    winValid (getAt 0 n0.sv.windows 0) = true ∧ 16 ≤ winSize (getAt 0 n0.sv.windows 0) ∧ (0 + 1) * 2 ^ 16 ≤ 2 ^ winSize (getAt 0 n0.sv.windows 0) ∧
    n0.ctxs.find? (fun x => x.id == winOwner (getAt 0 n0.sv.windows 0)) = some { readyCtx with keys := [(0, 0)], recSlots := 2 } ∧
    (992 ≤ 992 ∧ 15 < 16 ∧ 1 ≤ 1023) := ⟨rfl, by decide +kernel, by decide +kernel, by decide +kernel, rfl, by decide⟩

/-- A machine in which a one-rank communicator's record lies at 192 KiB, its member list after it. -/
def sRec : State :=
  { s0 with mem := setRun 0 (setRun 0 (readyMem [] []) 0x30000 ([0, 0, 0, 0, 1, 0, 0, 0, 3, 0, 2, 0, 1, 0, 0, 0] ++ [0x80, 0, 3, 0, 0, 0, 0, 0] ++
    [0x88, 0, 3, 0, 0, 0, 0, 0])) 0x30080 [0] }
/-- A launch that may be cut: its context has a cut area. -/
def lCut : Launch := { readyLaunch 0 false with live := 1 }
/-- Its context. -/
def xCut : Ctx := { readyCtx with cutArea := 0x100000, cutSize := 0x100000 }

theorem witness_ContextCommands :
    (desc0.length = 32 ∧ s0.ctx? 63 = none ∧ descZeroBad desc0 = false ∧ dq desc0 0 ≠ 0 ∧ descOk desc0 = true) ∧
    (s0.ctx? 1 = some readyCtx ∧ readyCtx.phase = .active) ∧ (∀ b ∈ (sHead (lHead 2 1)).blocks, b.ctx ≠ 1) ∧
    (c0.blk ∈ s0.blocks ∧ c0.blk.ctx = 1 ∧ ∀ a ∈ s0.blocks, a.ctx = 1 → a.restarts = false) ∧
    (({ s0 with ctxs := [{ readyCtx with phase := .preempted }] } : State).ctx? 1 = some { readyCtx with phase := .preempted }) ∧
    (let s := { s0 with ctxs := [xCut], launches := [lCut] }
     (s.queued 0).find? (fun l => l.seq == 1 && l.ctx == 1 && l.started) = some lCut ∧ cutFits xCut lCut = true ∧ s.launch? 0 = some lCut) ∧
    ((∃ s1 c, sRec.commOf 1 0x30000 = .ok (s1, some c)) ∧ (∃ s1, s0.commOf 1 0x30000 = .ok (s1, none)) ∧
      ∃ a, ({ s0 with mem := setRun 0 (readyMem [] []) 0x20000 remote5 } : State).commOf 1 0 = .error a) ∧
    (∀ x ∈ s0.sv.tags, x.req.translated 1 = false) ∧
    (∃ x ∈ (nTag (.load 1 0)).sv.tags, x.req.translated 1 = true) ∧
    (({ s0 with ctxs := [{ readyCtx with phase := .draining }] } : State).ctx? 1 = some { readyCtx with phase := .draining }) ∧
    ((sMan [comm0] []).comm? 0 = some comm0 ∧ comm0.phase = .active) ∧
    ((sMan [{ comm0 with phase := .retiring }] []).comm? 0 = some { comm0 with phase := .retiring }) :=
  ⟨⟨rfl, rfl, by decide +kernel, by decide +kernel, by decide +kernel⟩, ⟨rfl, rfl⟩, by decide, ⟨List.mem_cons_self, rfl, by decide⟩, rfl,
   ⟨rfl, by decide +kernel, rfl⟩,
   ⟨⟨_, _, by rfl⟩, ⟨_, by rfl⟩, _, by rfl⟩, by decide, ⟨_, List.mem_cons_self, rfl⟩, rfl, ⟨rfl, rfl⟩, rfl⟩

/-! ### Hypotheses that are met: the machine -/

theorem witness_DecodeEncode : (Instr.iadd true 0 255 247).kind = .clause ∧ (Instr.mset 7 true 0xFFFF).kind = .stream ∧
    decodeBytes [0x02, 0x01, 0x03, 0x00, 9] = .ok (.iadd false 3 1 2, [9]) ∧
    decodeStreamBytes [0x00, 0x00, 0x00, 0x14, 0x00, 0x00, 0x00, 0x40, 9] = .ok (.mstep 5, [9]) := ⟨rfl, rfl, rfl, rfl⟩

theorem witness_StepRunsDecodedWord :
    (s0.agenda = [] ∧ s0.rel.frozen = false ∧ s0.due = none ∧ s0.nextWord = .word c0 ∧ s0.wordBytes c0 = .ok [0, 0, 0, 0] ∧
      decodeBytes [0, 0, 0, 0] = .ok (.iadd false 0 0 0, [])) ∧
    (let s := State.reset.ready false [0, 0, 0, 0xEE]
     s.due = none ∧ s.nextWord = .word c0 ∧ s.wordBytes c0 = .ok [0, 0, 0, 0xEE] ∧ decodeBytes [0, 0, 0, 0xEE] = .error .undefinedOpcode) ∧
    (let s := State.reset.ready true [0, 0, 0, 0x14, 0, 0, 0, 0x40]
     s.due = none ∧ s.nextWord = .stream b0 t0 ∧ s.streamBytesAt b0 t0 = .ok [0, 0, 0, 0x14, 0, 0, 0, 0x40]) ∧
    (let s := State.reset.ready true [0, 0, 0, 0, 0, 0, 0, 0xFC]
     s.due = none ∧ s.nextWord = .stream b0 t0 ∧ s.streamBytesAt b0 t0 = .ok [0, 0, 0, 0, 0, 0, 0, 0xFC] ∧
      ∃ e, decodeStreamBytes [0, 0, 0, 0, 0, 0, 0, 0xFC] = .error e) ∧
    (s0.cur? = some c0 ∧ s0.issues = [c0.iss] ∧ s0.streamCur? = none) ∧
    (s0.fetch32 0 1 (c0.iss.pc + 4) = .ok 0 ∧ hasLiteral 0 = false) ∧
    (({ s0 with agenda := [.targetTick] } : State).agenda = [.targetTick]) ∧
    (∃ t, ({ sIdle 0x7F c0.pt 0 with issues := [] } : State).due = some t) ∧
    (State.reset.due = none ∧ State.reset.issues = [] ∧ State.reset.streamCur? = none ∧ State.reset.agenda = []) ∧
    (isReset .targetTick = false) :=
  ⟨⟨rfl, rfl, by rfl, rfl, rfl, rfl⟩, ⟨by rfl, rfl, rfl, rfl⟩, ⟨by rfl, rfl, rfl⟩, ⟨by rfl, rfl, rfl, _, rfl⟩, ⟨rfl, rfl, rfl⟩, ⟨rfl, rfl⟩, rfl,
   ⟨_, rfl⟩, ⟨by rfl, rfl, rfl, rfl⟩, rfl⟩

theorem witness_MemoryCanonicalKept : State.reset.memWf ∧ (∃ t, step State.reset = .next t) ∧ ∃ t, step s0 = .next t :=
  ⟨⟨by decide, by decide, by decide⟩, ⟨_, rfl⟩, _, rfl⟩

theorem witness_ProgressAlways : State.reset.agendaOk ∧ s0.agendaOk := ⟨fun _ h => (nomatch h), fun _ h => (nomatch h)⟩

/-! ### Results that the spec's worked examples state -/

/-- The wave after instruction `i` on a machine with that clause and wave. -/
def after (iss : Issue) (w : Wave) (i : Instr) : Option Wave := match exec i (mk iss c0.blk w) with
  | .next t => t.wave? 1 0
  | _ => none

/-- `c0`'s wave with vector registers' lanes. -/
def wv (v : Words) : Wave := { c0.wv with v := v }

/-- 04: BFX and BFI with offset 8 and width 4. -/
theorem test_bfx : (after (readyIssue 1) (wv [(32, 0x12345678), (64, 0x88)]) (.bfx false 3 1 2)).map (fun w => vLane w.v 3 0) = some 0x6 ∧
    (after (readyIssue 1) (wv [(32, 0x12345678), (64, 0x1C)]) (.bfx false 3 1 2)).map (fun w => vLane w.v 3 0) = some 0x1 := ⟨rfl, rfl⟩
theorem test_bfi : (after (xc1 0x5000) (wv [(32, 0x12345678), (64, 0x88), (160, 0xFFFFFFFF)]) (.bfi false 3 1 2)).map
    (fun w => vLane w.v 3 0) = some 0xFFFFF8FF := rfl

/-- 05: CVT.F2BF2.SR V12, V4, V9. -/
theorem test_cvt_f2bf2 : (after (xc1 0x9A00) (wv [(128, 0x3F800100), (160, 0x40400000), (288, 0x1234FF00)]) (.cvt false 12 4 8)).map
      (fun w => (vLane w.v 12 0, w.flags)) = some (0x40403F81, 1) ∧
    (after (xc1 0x9A00) (wv [(128, 0x3F800100), (160, 0x40400000), (288, 0x1234FEFF)]) (.cvt false 12 4 8)).map
      (fun w => vLane w.v 12 0) = some 0x40403F80 := by decide +kernel

/-- 03, R70: F8PACK under SR. -/
theorem test_f8pack : (after (xc1 0x8A00) { wv [(128, 0x3F800011), (256, 0x0000FFFF)] with s := [(10, 0x3F800000)] } (.f8pack false 12 4 10)).map
      (fun w => (vLane w.v 12 0).extractLsb' 0 8) = some 0x39 ∧
    (after (xc1 0x8A00) { wv [(128, 0x3F800011), (256, 0x0000FFFE)] with s := [(10, 0x3F800000)] } (.f8pack false 12 4 10)).map
      (fun w => (vLane w.v 12 0).extractLsb' 0 8) = some 0x38 := by decide +kernel

/-- 03, R76: DOT2B sums exactly. -/
theorem test_dot2b : (after (xc1 0x3000) (wv [(32, 0xCB804B80), (64, 0x3F803F80), (96, 0x3F800000)]) (.dot2b false 4 1 2)).map
    (fun w => (vLane w.v 4 0, w.flags)) = some (0x3F800000, 0) := by decide +kernel

/-- 04: BFMA2 rounds once, BMUL2 rounds the product. -/
theorem test_bfma2 : (after (xc1 0x3000) (wv [(32, 0x3F81), (64, 0x3F81), (96, 0xBF82)]) (.bfma2 false 8 1 2)).map
    (fun w => (vLane w.v 8 0, w.flags)) = some (0x3880, 0) := by decide +kernel
theorem test_bmul2 : (after (readyIssue 1) (wv [(32, 0x3F81), (64, 0x3F81)]) (.bmul2 false 8 1 2)).map
    (fun w => (vLane w.v 8 0, w.flags)) = some (0x3F82, 1) := by decide +kernel

/-- 03, R82: the scale of 100.0, in both modes, and of 0. -/
theorem test_qscale : (qscaleWord false 0x42C80000).1 = 0x3E64924A ∧ (qscaleWord true 0x42C80000).1 = 0x3E800000 ∧
    (qscaleWord false 0).1 = 0x3F800000 ∧ (packE4M3 .rn false (f32 0x42C80000) (f32 0x40800000)) = (0x7C, flNX) := by decide +kernel

/-- 03, R83: the generator's second round. -/
theorem test_rng_rounds : rngRounds 2 0 0 0 0 0 0x58C31F27 = [0x58B4DEC3, 0x59C26535, 0x3C6EF372, 0] := by decide +kernel

/-- 05: a wave of lanes 0-7 with lane 2 dead, V1[l] = 10 + l, V2[l] = 7 - l, P1 = 0xAE, V3 = V4 = 99. -/
def w05 : Wave :=
  { c0.wv with
    splits := [some { c0.pt with mask := 0xFF }, none, none, none]
    dead := 4
    p := [(1, 0xAE)]
    v := ((List.range 8).map fun l => (32 + l, BitVec.ofNat 32 (10 + l))) ++ ((List.range 7).map fun l => (64 + l, BitVec.ofNat 32 (7 - l))) ++
      ((List.range 8).map fun l => (96 + l, 99)) ++ (List.range 8).map fun l => (128 + l, 99) }

theorem test_ballot : (after (readyIssue 1) w05 (.ballot 20 1)).map (fun w => w.getS 20) = some 0xAA := by decide +kernel
theorem test_wred : (after (readyIssue 1) w05 (.wred 21 1 0)).map (fun w => w.getS 21) = some 96 := by decide +kernel
theorem test_shfl : (after (readyIssue 1) w05 (.shfl false 3 1 2)).map (fun w => (List.range 9).map (vLane w.v 3)) =
    some [17, 16, 99, 14, 13, 0, 11, 10, 0] := by decide +kernel
theorem test_perm : (after (readyIssue 1) w05 (.perm false 4 1 2)).map (fun w => (List.range 9).map (vLane w.v 4)) =
    some [17, 16, 99, 14, 13, 99, 11, 10, 0] := by decide +kernel

/-- 04: MOV V2, V1.rot(1) in lanes 0-15, lane 3 dead. -/
theorem test_mov_rot : (after { readyIssue 1 with xp := some 0xFC420000 }
      { c0.wv with splits := [some { c0.pt with mask := 0xFFFF }, some { c0.pt with mask := 0xFFFF0000 }, none, none], dead := 8,
                   v := (List.range 32).map fun l => (32 + l, BitVec.ofNat 32 (l + 100)) } (.mov false 2 1)).map
      (fun w => [vLane w.v 2 0, vLane w.v 2 2, vLane w.v 2 3, vLane w.v 2 4, vLane w.v 2 15, vLane w.v 2 16]) =
    some [101, 0, 0, 105, 116, 0] := by decide +kernel

/-- 10: two lanes compare and swap one word, in either order. -/
theorem test_atom_cas : let b := { c0.blk with bmem := [(0, 5)] }
    (atomNear 9 b [(0, 0xFFFFFFFFFF000000, 5, 10), (1, 0xFFFFFFFFFF000000, 5, 11)]).1 = [(0, 5), (1, 10)] ∧
    (atomNear 9 b [(1, 0xFFFFFFFFFF000000, 5, 11), (0, 0xFFFFFFFFFF000000, 5, 10)]).1 = [(1, 5), (0, 11)] := by decide +kernel

/-- 06: element (3, 5) of a TMMA, and with lane 7 dead. -/
def w06 : Wave :=
  { c0.wv with
    splits := [some { c0.pt with mask := 0xFFFFFFFF }, none, none, none]
    v := [(17 * 32 + 21, 0x3F800000)]
    t := ((List.range 32).map fun k => (96 + k, 0x38)) ++ ((List.range 16).map fun k => (512 + 160 + k, 0x30)) ++
      (List.range 16).map fun k => (512 + 176 + k, 0x40) }
theorem test_tmma : (tmmaElem (cm (readyIssue 1) c0.blk w06) 0 16 0 1 1 21) = (0x42240000, 0) ∧
    (tmmaElem (cm (readyIssue 1) c0.blk { w06 with dead := 0x80 }) 0 16 0 1 1 21).1 = 0x41100000 := by decide +kernel

/-- 11: one column of the matrix array and its scaling. -/
theorem test_mmac : let b := { c0.blk with bmem := (List.range 128).map fun k => (k, 0x38), tiles := (List.range 128).map fun k => (k, 0x30) }
    macElem b .e4m3 false 0 0 0 0 = 0x42800000 := by decide +kernel
theorem test_msa : add32 0x41000000 (mul32 0x43800000 (mul32 0x3DCCCCCD 0x3F800000)) = 0x42066666 := by decide +kernel

/-- 11: ATOPK ranks window A4. -/
theorem test_atopk : let b : Block := { b0 with
      win := [(16384, 0x3F800000), (16385, 0x7FC00000), (16386, 0x40400000), (16387, 0x40400000), (16388, 0xFF800000), (16389, 0x40000000)]
      stream := some { t0 with x := [0, 0, 0, 6, 0, 0, 0, 0] } }
    (match exec (.atopk 4 0 5 3 7 0x200) { m0 with blocks := [b] } with
      | .next t => (t.block? 1).map fun y => (List.range 6).map fun j =>
          (BitVec.ofNat 32 (leNat (y.bmemRun (0x200 + 8 * j) 4)), leNat (y.bmemRun (0x204 + 8 * j) 4))
      | _ => none) =
    some [(0x40400000, 2), (0x40400000, 3), (0x40000000, 5), (0x3F800000, 0), (0xFF800000, 4), (0x7FC00000, 1)] := by decide +kernel

/-- 12: the leaf with triangle 0, at 192 KiB here. -/
def rayMem : Memory := setRun 0 (readyMem [] []) 0x30000
  (([0, 0, 0, 0x3F800000, 0, 0, 0, 0x3F800000, 0, 7, 0, 0, 0, 0, 0, 0] : List Word).flatMap bytes32)
/-- The results of a lane of a RAYQ.CULLB on it. -/
def rayRes (root : BitVec 64) (ws : List Word) : List Word :=
  match (({ s0 with mem := rayMem } : State).rayLane c0.blk { ray0 with root := root, flags := 2, rays := [] } ws).1 with
  | .ok r => r
  | _ => []
theorem test_ray_hit : rayRes 0x8100000000030000 [0x3E800000, 0x3E800000, 0x3F800000, 0, 0, 0, 0xBF800000, 0x41200000] =
    [0x3F800000, 0x3E800000, 0x3E800000, 0x18000007] := by decide +kernel
theorem test_ray_remote : rayRes 0xC110000000000042 [0x3F400000, 0x3F400000, 0x3F800000, 0, 0, 0, 0xBF800000, 0x41200000] =
    [0x41200000, 0x42, 0x00110000, 0x20000000] := by decide +kernel
/-- A ray that misses the triangle, and a leaf reference without triangles. -/
theorem test_ray_miss : rayRes 0x8100000000030000 [0x3F400000, 0x3F400000, 0x3F800000, 0, 0, 0, 0xBF800000, 0x41200000] =
      [0x7F800000, 0, 0, 0] ∧
    (rayRes 0x8000000000030000 [0, 0, 0x3F800000, 0, 0, 0, 0xBF800000, 0x41200000]).getD 3 0 = 0x40000000 := by decide +kernel

/-- 13: an idle core 0 steps its LFSR to core 384. -/
theorem test_steal_victim : lfsrStep 1 = 0xB400 ∧ stealVictim 0 65536 1 = (384, 0x1680) := by decide +kernel

/-- 13: the packet that a block queues for the next step. -/
theorem test_packet : let p : List Word := [0x4B580001, 0x14F20000, 0x2000, 1, 0, 0, 1, 1, 0x20100000, 0x02000000, 0x10000, 1, 0, 0, 0, 0x80000003, 0x29, 0, 0,
      0, 0, 0, 0, 0xFF, 0x30001, 1]
    (pktCtx p, pktPrio p, pktClass p, pktEntry p, pktBlocks p, pktWaves p) = (5, 6, 1, 0x100002000, 1, 1) ∧
    ((pktDecl p).vregs, (pktDecl p).sregs, (pktDecl p).bmem, pktArgs p) = (32, 64, 8192, 0x100010000) ∧
    (pktDep p 0, pktDies p, pktRec p, pktIrq p) = ((true, 3, 41), 0xFF, 0x100030000, true) := by decide +kernel

/-- 16: the lines of devices 5, 223 and 40, and absolute device 137. -/
theorem test_neighbours : neighbour 5 7 = some 223 ∧ portTo 223 5 = 0 ∧ portTo 223 40 = 1 ∧ portTo 40 223 = 7 ∧
    (neighbour 223 1 = some 40) ∧ ((List.range 32).any fun k => (lineOf 137)[k]? == some 137) = true := by decide +kernel

/-- 16: shares of 600, 200 and 200 flits. -/
theorem test_lend_shares : lendShares [600, 200, 0, 0, 200, 0, 0, 0] = [277, 98, 8, 8, 97, 8, 8, 8] := by decide +kernel

/-- FIPS 180-4, the digest of "abc" (R468). -/
theorem test_sha256 : (sha256 [0x61, 0x62, 0x63]).take 8 = [0xBA, 0x78, 0x16, 0xBF, 0x8F, 0x01, 0xCF, 0xEA] := by decide +kernel

/-- The check value of CRC-32 (IEEE 802.3) over the digits 1 to 9. -/
theorem test_crc32 : crc32 [0x31, 0x32, 0x33, 0x34, 0x35, 0x36, 0x37, 0x38, 0x39] = 0xCBF43926 := by decide +kernel

/-- 16: the allowance of device 5 toward device 40. -/
theorem test_allowance : ({ Totals.fresh 40 0 16 with sent := 4, peerFreed := 0xFFFFFFF8, peerLimit := 16 } : Totals).allowance = 4 := by
  decide +kernel

end Sys2Proof.Tests
end

