-- ==== Sys2Proof/Proofs/Step.lean ====
section
/-! PROOFS. One step of the machine (O57): what the next step is, and what it does, case by case. -/

namespace Sys2Proof.Machine

open Sys2Proof

/-! ### What the next step is -/

section
variable {s : State}

/-- With no event at hand and nothing due, the next step is a word's or none. -/
theorem State.next_eq_nextWord (ha : s.agenda = []) (hf : s.rel.frozen = false) (hd : s.due = none) :
    s.next = s.nextWord := by
  simp [State.next, ha, hf, hd]

theorem State.next_of_due {t : State} (ha : s.agenda = []) (hf : s.rel.frozen = false) (hd : s.due = some t) :
    s.next = .due t := by
  simp [State.next, ha, hf, hd]

/-- The oldest event comes first, unless the device is frozen and it is no reset. -/
theorem State.next_of_event {i : Instr} {r : List Instr} (ha : s.agenda = i :: r)
    (h : s.rel.frozen = false ∨ isReset i = true) : s.next = .event i r := by
  rcases h with h | h <;> simp [State.next, ha, h]

theorem State.next_of_frozen (hf : s.rel.frozen = true) (h : ∀ i r, s.agenda = i :: r → isReset i = false) :
    s.next = .frozen := by
  cases ha : s.agenda with
  | nil => simp [State.next, ha, hf]
  | cons i r => simp [State.next, ha, hf, h i r ha]

theorem State.nextWord_of_cur {c : Cur} {i : Issue} {r : List Issue} (hc : s.cur? = some c) (hi : s.issues = i :: r)
    (hs : s.streamCur? = none) : s.nextWord = .word c := by
  simp [State.nextWord, hc, hi, hs]

theorem State.nextWord_idle (hi : s.issues = []) (hs : s.streamCur? = none) : s.nextWord = .idle := by
  simp [State.nextWord, hi, hs]

theorem State.wordBytes_of_noLiteral {c : Cur} {w : Word}
    (hw : s.fetch32 c.iss.core c.blk.ctx (c.iss.pc + BitVec.ofNat 64 (4 * c.iss.k)) = .ok w) (hl : hasLiteral w = false) :
    s.wordBytes c = .ok (bytes32 w) := by
  simp [State.wordBytes, hw, hl]

/-! ### What the step does -/

theorem step_event {i : Instr} {r : List Instr} (h : s.next = .event i r) : step s = exec i { s with agenda := r } := by
  simp [step, h]

theorem step_word {c : Cur} {bs : List Byte} (h : s.next = .word c) (hb : s.wordBytes c = .ok bs) :
    step s = match decodeBytes bs with
      | .ok (i, _) => exec i s
      | .error _ => exec (.undefinedOpcode (firstWord bs)) s := by
  simp only [step, h, hb]; rfl

theorem step_stream {b : Block} {t : Stream} {bs : List Byte} (h : s.next = .stream b t) (hb : s.streamBytesAt b t = .ok bs) :
    step s = match decodeStreamBytes bs with
      | .ok (i, _) => exec i s
      | .error _ => exec (.streamFault b.uid) s := by
  simp only [step, h, hb]; rfl

end

end Sys2Proof.Machine

open Sys2Proof Sys2Proof.Machine

/-- Settles O57: each clause names what the next step is (`State.next_…`) and what it then does (`step_…`). -/
theorem stepRunsDecodedWord : Obligations.StepRunsDecodedWord := by
  unfold Obligations.StepRunsDecodedWord
  refine ⟨?_, ?_, ?_, ?_, ?_, ?_, ?_, ?_, ?_, ?_, ?_⟩
  · intro s c bs i rest ha hf hd hn hb he
    rw [step_word ((State.next_eq_nextWord ha hf hd).trans hn) hb, he]
  · intro s c bs e ha hf hd hn hb he
    rw [step_word ((State.next_eq_nextWord ha hf hd).trans hn) hb, he]
  · intro s b t bs i rest ha hf hd hn hb he
    rw [step_stream ((State.next_eq_nextWord ha hf hd).trans hn) hb, he]
  · intro s b t bs e ha hf hd hn hb he
    rw [step_stream ((State.next_eq_nextWord ha hf hd).trans hn) hb, he]
  · intro s c i r hc hi hs
    exact State.nextWord_of_cur hc hi hs
  · intro s c w hw hl
    exact State.wordBytes_of_noLiteral hw hl
  · intro s i r ha hf
    exact step_event (State.next_of_event ha (.inl hf))
  · intro s t ha hf hd
    simp [step, State.next_of_due ha hf hd]
  · intro s ha hf hd hi hs
    simp only [step, (State.next_eq_nextWord ha hf hd).trans (State.nextWord_idle hi hs)]
    rfl
  · intro s hf h
    simp [step, State.next_of_frozen hf h]
  · intro s r ha
    exact step_event (State.next_of_event ha (.inr rfl))
end

