-- ==== Sys2Proof/Proofs/Loads.lean ====
section
/-! PROOFS. Why the reading rule for loads (O14) fails: it leaves the page's policy out. -/

namespace Sys2Proof.Machine

open Sys2Proof

/-- Byte 0 of line 0, valid and clean in a core's L1, with value 1. -/
def cleanLine : L1Line := { L1Line.fresh 0 0 0 false with valid := 1, data := [(0, 1)] }

/-- A machine as reset leaves it, but for that line in its L1. -/
def cleanLineState : State := { State.reset with l1 := [cleanLine] }

/-- Byte 0 of host memory, through a page that is not cached (policy 2, R209). -/
def uncachedTarget : Target := { space := .host, pa := 0, policy := 2 }

/-- A wave that has stored nothing. -/
def storelessWave : Wave := readyWave (readyLaunch 0 false) 0 false

/-- Of an uncached page the L1 answers with dirty bytes only (R209, R218): a clean byte is read below it. -/
theorem loadByte_uncached_clean : cleanLineState.loadByte 0 0 storelessWave 0 uncachedTarget = some 0 := by decide +kernel

end Sys2Proof.Machine

open Sys2Proof Sys2Proof.Machine

/-- Refutes O14: its second clause gives a load the L1's valid byte whatever the page's policy is, but of an uncached page
the L1 answers with the core's own dirty bytes only (R209, R218), so that a valid clean byte is passed over. -/
theorem not_loadsComplete : ¬ Obligations.LoadsComplete := by
  unfold Obligations.LoadsComplete
  intro ⟨_, hread⟩
  obtain ⟨_, hl1, _⟩ := hread cleanLineState 0 0 storelessWave 0 uncachedTarget
  have hclean := hl1 cleanLine (by decide +kernel) (by decide +kernel) (by decide +kernel)
  rw [loadByte_uncached_clean] at hclean
  exact absurd hclean (by decide +kernel)
end

