-- ==== Sys2Proof/Proofs/Transfers.lean ====
section
/-! PROOFS. Why the statement about aborts and transfers (O43) fails: in a repair table that lists an index twice, a swap
can apply although no entry reads as valid. -/

namespace Sys2Proof.Machine

open Sys2Proof

/-- A repair table that lists word 0 of entry 0 twice: a lane swap (KIND 5) without its valid bit, which is the one that
reads, and behind it a word with the valid bit. Word 2 names lane 0 of the pseudo-channel of address 0. -/
def doubledRepairs : Words :=
  [(0, 0x28000000), (0, 0x80000000), (2, repairWord2 (channelOf 0).1 (channelOf 0).2 0)]

/-- A machine as reset leaves it, but for that table. -/
def doubledRepairsState : State := { State.reset with rel := { State.reset.rel with repairs := doubledRepairs } }

/-- A burst whose first attempt fails on lane 0. -/
def laneZeroBurst : Burst :=
  { fails := 1, beat := 0, half := 0, lane := some 0, corrected := false, uncorrectable := false, bit := 0, bank := 0, row := 0,
    burst := 0 }

/-- No entry of the table reads as valid (R444). -/
theorem repairValid_doubledRepairs (i : Nat) : repairValid doubledRepairs i = false := by
  match i with
  | 0 => decide +kernel
  | i + 1 =>
    have hword : getAt 0 doubledRepairs (4 * (i + 1)) = 0 := by
      simp [doubledRepairs, getAt, show ¬ 0 = 4 * (i + 1) by omega, show ¬ 2 = 4 * (i + 1) by omega]
    rw [repairValid, hword]
    rfl

/-- Yet the swap that it lists counts: the burst fails on no lane in use. -/
theorem onLanes_doubledRepairs : (doubledRepairsState.onLanes 0 laneZeroBurst).fails = 0 := by decide +kernel

/-- Hence a table without a valid swap that nevertheless moves a lane. -/
theorem onLanes_ne_of_doubledRepairs :
    (∀ i, repairValid doubledRepairsState.rel.repairs i = true → repairKind doubledRepairsState.rel.repairs i ≠ 5) ∧
      doubledRepairsState.onLanes 0 laneZeroBurst ≠ laneZeroBurst := by
  constructor
  · intro i hvalid
    have hnone : repairValid doubledRepairsState.rel.repairs i = false := repairValid_doubledRepairs i
    simp [hnone] at hvalid
  · intro hsame
    have hfails := onLanes_doubledRepairs
    rw [hsame] at hfails
    exact absurd hfails (by decide)

end Sys2Proof.Machine

open Sys2Proof Sys2Proof.Machine

/-- Refutes O43: its clause about `State.onLanes` holds of canonical repair tables only. `validRepairs` takes the listed
words with a valid bit, so that in a table that lists a word twice it names an entry that `repairValid` reads as not
valid, and a swap of that entry applies. -/
theorem not_errorEvents : ¬ Obligations.ErrorEvents := by
  unfold Obligations.ErrorEvents
  intro ⟨_, _, _, _, _, _, _, _, _, _, _, _, _, _, _, hlanes, _⟩
  obtain ⟨hnone, hne⟩ := onLanes_ne_of_doubledRepairs
  exact hne (hlanes 0 laneZeroBurst doubledRepairsState (.inr hnone))
end

