-- ==== Sys2Proof/Proofs/Copies.lean ====
section
/-! PROOFS. Why the statement about a core's own events (O41) fails: the rule for a copied sector does not say that the
copy's block lies on the copy's core. -/

namespace Sys2Proof.Machine

open Sys2Proof Sys2Proof.Claims

/-- A copy of 16 bytes from block memory to address 0, in the queue of core 1. -/
def strayCopy : CopyJob :=
  { seq := 0, block := 7, wave := 0, token := 0, opcode := 0x70, pos := 0, len := 16, srcKind := 1, dstKind := 0, rows := [(0, 0)],
    row := 0, sector := 0, failedNow := false, halted := false, issued := 0, asked := [], got := [], ahead := [], acks := [],
    base := 0 }

/-- Its block, which lies on core 0, with 1 in its first byte. -/
def strayBlock : Block := { readyBlock 7 (readyLaunch 0 false) 0 false with bmem := [(0, 1)] }

/-- Core 0's cached leaf of address 0: a writable page of this device at 0. -/
def strayLeaf : TlbEntry := { core := some 0, die := 0, ctx := 1, big := true, page := 0, leaf := 0x7B }

/-- A machine with that copy in the queue of core 1 and a leaf that core 0 alone has cached: core 0 can write address 0,
and core 1, whose walk meets no table, cannot. -/
def strayState : State :=
  { State.reset with
    now := 1000, cores := [{ Core.fresh 1 with copies := [strayCopy] }], blocks := [strayBlock], ctxs := [readyCtx], tlb := [strayLeaf] }

theorem strayCopy_turn : CopyTurn strayState 1 strayCopy strayBlock 0 0 16 where
  head := by decide +kernel
  begun := by decide +kernel
  block := by decide +kernel
  fresh := by decide +kernel
  sixteens := by decide +kernel
  row := ⟨(0, 0), by decide +kernel⟩

/-- The sector is written where core 1's own translation leads: nowhere. -/
theorem copySector_strayState :
    (match exec (.copySector 1) strayState with
      | .next t => some (getAt 0 t.mem 0)
      | _ => none) = some 0 := by decide +kernel

end Sys2Proof.Machine

open Sys2Proof Sys2Proof.Machine

/-- Refutes O41: its clause about a sector that leaves the core takes the destination's translation at the core of the copy's
block, and nothing says that the copy is in that core's queue. In a state where it is in another's, whose own translation
does not reach the page, no byte is written. -/
theorem not_coreEvents : ¬ Obligations.CoreEvents := by
  unfold Obligations.CoreEvents
  intro ⟨_, _, _, _, _, _, _, _, _, _, _, _, _, _, hcopy, _⟩
  obtain ⟨t, x, hstep, _, _, _, _, hmem, _⟩ := hcopy 1 strayState strayCopy strayBlock 0 0 16 ⟨.here, 0, 0⟩ strayCopy_turn rfl
    (.inl rfl) rfl (by decide +kernel) (by decide +kernel) (fun _ => by decide +kernel) (.inl rfl)
  have hbyte := copySector_strayState
  rw [hstep] at hbyte
  have hzero : getAt 0 t.mem 0 = 0 := Option.some.inj hbyte
  rw [hmem 0] at hzero
  exact absurd hzero (by decide +kernel)
end

