-- ==== Sys2Proof/Proofs/Effects.lean ====
section
/-! PROOFS. What leaves a core (O24): the writes of the caches and the point of coherence leave every block alone, a block
changed in every checkpoint too is changed once, and a store of one lane enters the L1 or goes through it. -/

namespace Sys2Proof.Machine

open Sys2Proof

/-! ### Writes leave the blocks alone -/

theorem State.setL1_blocks (s : State) (core ctx line : Nat) (n : Option L1Line) : (s.setL1 core ctx line n).blocks = s.blocks := rfl
theorem State.keepL1_blocks (s : State) (core ctx line : Nat) (n : L1Line) : (s.keepL1 core ctx line n).blocks = s.blocks := rfl

theorem State.evictFar_blocks (s : State) (core dev slot ctx line : Nat) (bs : List (Nat × Byte)) :
    (s.evictFar core dev slot ctx line bs).blocks = s.blocks := by
  unfold State.evictFar
  refine List.foldlRecOn (motive := fun t : State => t.blocks = s.blocks) [0, 1] _ rfl fun t ht h _ => ?_
  dsimp only
  split
  · exact ht
  · exact ht

theorem State.foldl_pocByte_blocks (d : Option Nat) (pa : Nat) (l : List (Nat × Byte)) (s : State) :
    (l.foldl (fun s e => s.pocByte (pa + e.1) e.2 d) s).blocks = s.blocks :=
  List.foldlRecOn (motive := fun t : State => t.blocks = s.blocks) l _ rfl fun t ht e _ =>
    (State.pocByte_blocks t (pa + e.1) e.2 d).trans ht

theorem State.foldl_hostBytes_blocks (pa : Nat) (l : List (Nat × Byte)) (s : State) :
    (l.foldl (fun s e => s.hostBytes (pa + e.1) [e.2]) s).blocks = s.blocks :=
  List.foldlRecOn (motive := fun t : State => t.blocks = s.blocks) l _ rfl fun _ ht _ _ => ht

theorem State.writeBack_blocks {s t : State} (ln : L1Line) (e : s.writeBack ln = .ok t) : t.blocks = s.blocks := by
  unfold State.writeBack at e
  split at e
  · cases e; rfl
  · dsimp only at e
    split at e
    · split at e
      · split at e
        · cases e; rfl
        · cases e; exact State.foldl_pocByte_blocks _ _ _ s
      · cases e; exact State.foldl_hostBytes_blocks _ _ s
      · cases e; exact State.evictFar_blocks s _ _ _ _ _ _
    · cases e
    · cases e
    · cases e; exact State.withhold_blocks s _

theorem State.makeRoom_blocks (core line : Nat) : ∀ (n : Nat) {s t : State}, s.makeRoom core line n = some t → t.blocks = s.blocks
  | 0, _, _, e => by cases e
  | n + 1, s, t, e => by
    unfold State.makeRoom at e
    split at e
    · cases e; rfl
    · split at e
      · cases e
      · split at e
        · rename_i s1 hs
          cases e; exact (State.setL1_blocks s1 _ _ _ _).trans (State.writeBack_blocks _ hs)
        · exact (makeRoom_blocks core line n e).trans (State.keepL1_blocks s _ _ _ _)

theorem State.useLine_blocks {s t : State} (core ctx line : Nat) (g : Target) (e : s.useLine core ctx line g = some t) :
    t.blocks = s.blocks := by
  unfold State.useLine at e
  split at e
  · cases e; rfl
  · obtain ⟨s1, hroom, rfl⟩ := Option.map_eq_some_iff.1 e
    exact (State.setL1_blocks s1 _ _ _ _).trans (State.makeRoom_blocks core line 17 hroom)

theorem State.pocWrite_blocks (s : State) (pa : Nat) (d : Option Nat) (bs : List Byte) : (s.pocWrite pa d bs).blocks = s.blocks := by
  unfold State.pocWrite
  split
  · rfl
  · exact State.pocBytes_blocks d bs s pa

theorem State.pocWrite_hostMem (s : State) (pa : Nat) (d : Option Nat) (bs : List Byte) :
    (s.pocWrite pa d bs).hostMem = s.hostMem := by
  unfold State.pocWrite
  split
  · rfl
  · exact State.pocBytes_hostMem d bs s pa

theorem State.storeLocal_blocks (s : State) (core ctx : Nat) (va : Addr) (g : Target) (bs : List Byte) :
    (s.storeLocal core ctx va g bs).blocks = s.blocks := by
  unfold State.storeLocal
  dsimp only
  split
  · exact State.pocWrite_blocks ..
  · split
    · exact State.pocWrite_blocks ..
    · rename_i s1 hs
      split
      · exact State.pocWrite_blocks ..
      · exact (State.setL1_blocks s1 _ _ _ _).trans (State.useLine_blocks core ctx _ g hs)

/-! ### A store enters the L1, or goes through it -/

/-- Of an uncached page the bytes go to the point of coherence (R209). -/
theorem State.storeLocal_uncached (s : State) (core ctx : Nat) (va : Addr) {g : Target} (bs : List Byte) (h : g.policy = 2) :
    s.storeLocal core ctx va g bs = s.pocWrite g.pa (some (dieOf core)) bs := by
  simp [State.storeLocal, h]

/-- The line of an L1 line just stored there. -/
theorem State.l1Line_setL1 (s : State) (core ctx line : Nat) {ln : L1Line} (hc : ln.core = core) (hx : ln.ctx = ctx) (hl : ln.line = line) :
    (s.setL1 core ctx line (some ln)).l1Line core ctx line = some ln := by
  simp [State.l1Line, State.setL1, hc, hx, hl]

/-- What a line found by its key is keyed by. -/
theorem State.l1Line_key {s : State} {core ctx line : Nat} {ln : L1Line} (h : s.l1Line core ctx line = some ln) :
    ln.core = core ∧ ln.ctx = ctx ∧ ln.line = line := by
  have := List.find?_some h
  simpa [and_assoc] using this

/-- A line with `bs` stored from offset `o` on (R208). -/
def L1Line.stored (ln : L1Line) (o : Nat) (bs : List Byte) : L1Line :=
  let m : BitVec 128 := BitVec.ofNat 128 ((2 ^ bs.length - 1) * 2 ^ o)
  { ln with valid := ln.valid ||| m, dirty := ln.dirty ||| m, bad := ln.bad &&& ~~~m, data := setRun 0 ln.data o bs }

/-- Where the line is held, the bytes enter it and nothing else changes (R208). -/
theorem State.storeLocal_held (s : State) (core ctx : Nat) (va : Addr) {g : Target} (bs : List Byte) {ln : L1Line} (h : g.policy ≠ 2)
    (hl : s.l1Line core ctx (va.toNat / 128) = some ln) :
    s.storeLocal core ctx va g bs = (s.setL1 core ctx (va.toNat / 128) (some ln)).setL1 core ctx (va.toNat / 128)
      (some (ln.stored (va.toNat % 128) bs)) := by
  obtain ⟨hc, hx, hn⟩ := State.l1Line_key hl
  simp [State.storeLocal, h, State.useLine, hl, State.l1Line_setL1 s core ctx _ hc hx hn, L1Line.stored]

/-- The bits of a run of `n` ones from bit `o` on. -/
theorem getLsbD_run (n o i : Nat) (hi : i < 128) :
    (BitVec.ofNat 128 ((2 ^ n - 1) * 2 ^ o)).getLsbD i = decide (o ≤ i ∧ i < o + n) := by
  rw [BitVec.getLsbD_ofNat, Nat.testBit_mul_two_pow, Nat.testBit_two_pow_sub_one]
  by_cases h : o ≤ i
  · simp [hi, h, show i - o < n ↔ i < o + n by omega]
  · simp [h]

/-- What each byte of a line is after a store into it. -/
theorem L1Line.stored_byte (ln : L1Line) (o : Nat) (bs : List Byte) {i : Nat} (hi : i < 128) :
    getAt 0 (ln.stored o bs).data i = (if o ≤ i ∧ i < o + bs.length then bs.getD (i - o) 0 else getAt 0 ln.data i) ∧
      (ln.stored o bs).dirty.getLsbD i = (ln.dirty.getLsbD i || decide (o ≤ i ∧ i < o + bs.length)) ∧
      (ln.stored o bs).bad.getLsbD i = (ln.bad.getLsbD i && !decide (o ≤ i ∧ i < o + bs.length)) := by
  refine ⟨?_, ?_, ?_⟩
  · by_cases h : o ≤ i ∧ i < o + bs.length
    · have hin := getAt_setRun_in 0 bs ln.data o (i - o) (by omega)
      rw [show o + (i - o) = i by omega] at hin
      rw [if_pos h, List.getD_eq_getElem?_getD, List.getElem?_eq_getElem (by omega), Option.getD_some]
      exact hin
    · rw [if_neg h]
      exact getAt_setRun_out 0 bs ln.data o i (by omega)
  · simp [L1Line.stored, getLsbD_run _ _ _ hi]
  · simp only [L1Line.stored, BitVec.getLsbD_and, BitVec.getLsbD_not, getLsbD_run _ _ _ hi, hi, decide_true, Bool.true_and]

/-- A run of bytes just written reads back. -/
theorem getRun_setRun_same (m : Memory) (k : Nat) (bs : List Byte) : getRun 0 (setRun 0 m k bs) k bs.length = bs := by
  apply List.ext_getElem
  · simp [getRun]
  · intro i h _
    simp only [getRun, List.getElem_map, List.getElem_range]
    exact getAt_setRun_in 0 bs m k i (by simpa [getRun] using h)

/-! ### A block changed now and in every checkpoint -/

/-- It is the block's change, for all that is read of the blocks. -/
theorem State.updBlockAll_blocks (s : State) (u : Nat) (f : Block → Block) : (s.updBlockAll u f).blocks = (s.updBlock u f).blocks := by
  unfold State.updBlockAll
  split
  · next h =>
    have hnone : ∀ b ∈ s.blocks, ¬ (b.uid == u) = true := by simpa [State.block?] using h
    have hkeep : ∀ l : List Block, (∀ b ∈ l, ¬ (b.uid == u) = true) → updFirst (fun b => b.uid == u) f l = l := by
      intro l hl
      induction l with
      | nil => rfl
      | cons b l ih => simp [updFirst, hl b (by simp), ih fun x hx => hl x (by simp [hx])]
    exact (hkeep s.blocks hnone).symm
  · rfl

theorem State.updBlockAll_mem (s : State) (u : Nat) (f : Block → Block) : (s.updBlockAll u f).mem = s.mem := by
  unfold State.updBlockAll; split <;> rfl
theorem State.updBlockAll_hostMem (s : State) (u : Nat) (f : Block → Block) : (s.updBlockAll u f).hostMem = s.hostMem := by
  unfold State.updBlockAll; split <;> rfl
theorem State.updBlockAll_dram (s : State) (u : Nat) (f : Block → Block) : (s.updBlockAll u f).dram = s.dram := by
  unfold State.updBlockAll; split <;> rfl
theorem State.updBlockAll_l1 (s : State) (u : Nat) (f : Block → Block) : (s.updBlockAll u f).l1 = s.l1 := by
  unfold State.updBlockAll; split <;> rfl

/-- What is found under a name depends on the list of blocks only. -/
theorem State.block?_congr {s t : State} (h : t.blocks = s.blocks) (u : Nat) : t.block? u = s.block? u := by
  simp only [State.block?, h]

theorem State.block?_updBlockAll_same (s : State) (u : Nat) (f : Block → Block) (hf : ∀ b, (f b).uid = b.uid) :
    (s.updBlockAll u f).block? u = (s.block? u).map f :=
  (State.block?_congr (s.updBlockAll_blocks u f) u).trans (block?_updBlock_same s u f hf)

theorem State.block?_updBlockAll_other (s : State) {u x : Nat} (f : Block → Block) (hf : ∀ b, (f b).uid = b.uid) (h : x ≠ u) :
    (s.updBlockAll u f).block? x = s.block? x :=
  (State.block?_congr (s.updBlockAll_blocks u f) x).trans (block?_updBlock_other s f hf h)

/-! ### A store of one lane leaves its wave -/

/-- The wave whose entry `e` at the head of its queue has left. -/
theorem Wave.left_head {e : Nat × Effect} {w : Wave} {rest : List (Nat × Effect)} (h : w.sq = e :: rest) (f : Wave → Wave) :
    Wave.left e f w = f { w with sq := rest } := by
  simp [Wave.left, h]

section
variable {s : State} {b : Block} {w : Wave} {g : Target} {l : Nat} {va : Addr} {bs : List Byte}

/-- The wave once an entry of its queue has left that awaits no acknowledgement. -/
def Wave.sent (e : Nat × Effect) (w : Wave) : Wave := Wave.left e (fun w => { w with acks := w.acks ++ [] }) w

theorem Wave.sent_idx (e : Nat × Effect) (w : Wave) : (w.sent e).idx = w.idx := by
  unfold Wave.sent Wave.left; split <;> rfl

/-- The state after a store's bytes and its entry have left (R208). -/
def storeSent (s : State) (b : Block) (w : Wave) (g : Target) (va : Addr) (bs : List Byte) (e : Nat × Effect) : State :=
  (s.storeLocal b.core b.ctx va g bs).updWaveAll b.uid w.idx (Wave.sent e)

/-- And after the block's side-effect bit is set (R340). -/
def storeLeft (s : State) (b : Block) (w : Wave) (g : Target) (va : Addr) (bs : List Byte) (e : Nat × Effect) : State :=
  (storeSent s b w g va bs e).sideEffect b

/-- A store without a release to a page of this device leaves at once. -/
theorem leaveStore_here (e : Nat × Effect) (hg : g.space = .here) (ht : s.translate b.core b.ctx { w := true } va = .ok g) :
    leaveStore s b w e [(l, va, bs)] none = .ok (storeSent s b w g va bs e) := by
  simp only [leaveStore, releaseAt, cacheRelease, State.releaseWaits, leaveLanes, leaveLane, ht, hg, Bool.false_and,
    Bool.false_eq_true, if_false]
  rfl

/-- The block after its wave's entry has left. -/
theorem storeSent_block? {e : Nat × Effect} (hb : s.block? b.uid = some b) :
    (storeSent s b w g va bs e).block? b.uid = some (b.updWave w.idx (Wave.sent e)) := by
  rw [storeSent, State.updWaveAll, State.block?_updBlockAll_same _ _ _ fun _ => by rfl,
    State.block?_congr (State.storeLocal_blocks ..), hb]
  rfl

theorem storeLeft_block? {e : Nat × Effect} (hb : s.block? b.uid = some b) :
    (storeLeft s b w g va bs e).block? b.uid = some { b.updWave w.idx (Wave.sent e) with sideEffect := true } := by
  rw [storeLeft, State.sideEffect, State.block?_updBlockAll_same _ _ _ fun _ => by rfl, storeSent_block? hb]
  rfl

theorem storeLeft_block?_other {e : Nat × Effect} {x : Nat} (hx : x ≠ b.uid) :
    (storeLeft s b w g va bs e).block? x = s.block? x := by
  rw [storeLeft, State.sideEffect, State.block?_updBlockAll_other _ _ (fun _ => by rfl) hx, storeSent, State.updWaveAll,
    State.block?_updBlockAll_other _ _ (fun _ => by rfl) hx, State.block?_congr (State.storeLocal_blocks ..)]

theorem storeLeft_mem {e : Nat × Effect} : (storeLeft s b w g va bs e).mem = (s.storeLocal b.core b.ctx va g bs).mem :=
  (State.updBlockAll_mem ..).trans (State.updBlockAll_mem ..)
theorem storeLeft_hostMem {e : Nat × Effect} : (storeLeft s b w g va bs e).hostMem = (s.storeLocal b.core b.ctx va g bs).hostMem :=
  (State.updBlockAll_hostMem ..).trans (State.updBlockAll_hostMem ..)
theorem storeLeft_dram {e : Nat × Effect} : (storeLeft s b w g va bs e).dram = (s.storeLocal b.core b.ctx va g bs).dram :=
  (State.updBlockAll_dram ..).trans (State.updBlockAll_dram ..)
theorem storeLeft_l1 {e : Nat × Effect} : (storeLeft s b w g va bs e).l1 = (s.storeLocal b.core b.ctx va g bs).l1 :=
  (State.updBlockAll_l1 ..).trans (State.updBlockAll_l1 ..)

/-- The wave after its store has left: its queue alone is shorter. -/
theorem wave?_sent {e : Nat × Effect} {rest : List (Nat × Effect)} {i : Nat} (hw : b.wave? i = some w) (hq : w.sq = e :: rest) :
    (b.updWave w.idx (Wave.sent e)).wave? i = some { w with sq := rest } := by
  obtain rfl := Block.wave?_idx hw
  rw [wave?_updWave_same _ _ _ fun w0 h0 => (w0.sent_idx e).trans h0, hw]
  simp [Wave.sent, Wave.left_head hq]

/-- STORE_LEAVE_CORE of a store of one lane (R21). -/
theorem storeLeaveCore_here {u i k p : Nat} {pos : Addr} {rest : List (Nat × Effect)} (hb : s.block? u = some b) (hw : b.wave? i = some w)
    {e : Nat × Effect} (he : e = (k, .store p [(l, va, bs)] none pos)) (hq : w.sq = e :: rest) (ha : s.aged b.core k = true)
    (hat : w.atoms = []) (hg : g.space = .here) (ht : s.translate b.core b.ctx { w := true } va = .ok g) :
    exec (.storeLeaveCore u i) s = .next ((storeLeft s b w g va bs e).settle u) := by
  obtain rfl := State.block?_uid hb
  obtain rfl := Block.wave?_idx hw
  have hwave : (storeSent s b w g va bs e).wave? b.uid w.idx = some { w with sq := rest } := by
    rw [State.wave?, storeSent_block? hb]
    exact wave?_sent hw hq
  have hleft : (storeSent s b w g va bs e).leftEffect b w = (storeSent s b w g va bs e).sideEffect b := by
    simp [State.leftEffect, hwave, hq]
  have hleave : s.leave b w e = (storeSent s b w g va bs e).sideEffect b := by
    simp only [State.leave, he, Wave.mayLeave, hat, List.isEmpty_nil, Bool.and_true, Bool.not_true, Bool.false_eq_true, if_false]
    rw [leaveStore_here _ hg ht, ← he]
    exact hleft
  have hlv : w.leaving (s.aged b.core) = some e := by simp [Wave.leaving, hq, ha, he]
  have hsw : s.wave? b.uid w.idx = some w := by simp [State.wave?, hb, hw]
  show execStoreLeaveCore b.uid w.idx s = _
  simp only [execStoreLeaveCore, hb, hsw, hlv, hleave]
  rfl

end

end Sys2Proof.Machine

open Sys2Proof Sys2Proof.Machine

/-- Settles O24: the state is `storeLeft`, whose block is the old one with the entry gone (`storeLeft_block?`), and whose
memories are those of `State.storeLocal`: through an uncached page, or into the held line. -/
theorem storesLeave : Obligations.StoresLeave := by
  unfold Obligations.StoresLeave
  intro s u i b w k p l pa pol va bs pos rest hb hw hq ha hat ht
  obtain ⟨e, he⟩ : ∃ e : Nat × Effect, e = (k, .store p [(l, va, bs)] none pos) := ⟨_, rfl⟩
  obtain ⟨g, hg⟩ : ∃ g : Target, g = { space := .here, pa := pa, policy := pol } := ⟨_, rfl⟩
  rw [← he] at hq
  rw [← hg] at ht
  have hspace : g.space = .here := by rw [hg]
  have hpa : g.pa = pa := by rw [hg]
  have hpolicy : g.policy = pol := by rw [hg]
  obtain rfl := State.block?_uid hb
  have hblock : (storeLeft s b w g va bs e).block? b.uid = _ := storeLeft_block? hb
  refine ⟨storeLeft s b w g va bs e, _, _, storeLeaveCore_here hb hw he hq ha hat hspace ht, hblock, wave?_sent hw hq, rfl, rfl, ?_, ?_, ?_, ?_⟩
  · intro j hj
    rw [State.wave?, hblock]
    exact wave?_updWave_other b _ (fun w0 h0 => (w0.sent_idx e).trans h0) (by rwa [Block.wave?_idx hw])
  · intro x hx
    exact storeLeft_block?_other hx
  · intro uncached hf
    have hpol : g.policy = 2 := hpolicy.trans uncached
    have hmem : (storeLeft s b w g va bs e).mem = setRun 0 s.mem pa bs := by
      rw [storeLeft_mem, State.storeLocal_uncached _ _ _ _ _ hpol, State.pocWrite_mem, hpa, hf]
      rfl
    refine ⟨?_, ?_, fun a hout => ?_⟩
    · rw [storeLeft_hostMem, State.storeLocal_uncached _ _ _ _ _ hpol, State.pocWrite_hostMem]
    · rw [hmem, getRun_setRun_same]
    · rw [State.memByte, hmem]
      exact getAt_setRun_out 0 bs s.mem pa a hout
  · intro cached ln hln
    have hpol : g.policy ≠ 2 := fun e => cached (hpolicy.symm.trans e)
    have hheld := State.storeLocal_held s b.core b.ctx va (g := g) bs hpol hln
    obtain ⟨hc, hx, hn⟩ := State.l1Line_key hln
    refine ⟨?_, ?_, ?_, ln.stored (va.toNat % 128) bs, ?_, fun o ho => L1Line.stored_byte ln _ bs ho⟩
    · rw [storeLeft_mem, hheld]; rfl
    · rw [storeLeft_hostMem, hheld]; rfl
    · rw [storeLeft_dram, hheld]; rfl
    · rw [State.l1Line, storeLeft_l1, hheld]
      exact State.l1Line_setL1 _ _ _ _ hc hx hn
end

