-- ==== Sys2Proof/Proofs/Queued.lean ====
section
/-! PROOFS. Words whose effect lies elsewhere (O36): what each puts under way as it issues, and what legal descriptors of
COLL and CSEND are. -/

namespace Sys2Proof.Claims

open Sys2Proof Sys2Proof.Machine

theorem MemKept.trans {s t u : State} (h : MemKept s t) (k : MemKept t u) : MemKept s u :=
  ⟨k.mem.trans h.mem, k.dram.trans h.dram, k.hostMem.trans h.hostMem, k.l1.trans h.l1, k.l2.trans h.l2, k.rdc.trans h.rdc⟩

end Sys2Proof.Claims

namespace Sys2Proof.Machine

open Sys2Proof Sys2Proof.Claims

/-! ### What a word that retires keeps -/

theorem OutsideKept.memKept {s t : State} (h : OutsideKept s t) : MemKept s t :=
  ⟨h.mem, h.dram, h.hostMem, h.l1, h.l2, h.rdc⟩

theorem regsKept_retiredWave {s : State} {c : Cur} {d : Done} {a : Wave} (h : RegsKept a d.wave) : RegsKept a (retiredWave s c d) where
  v := by simpa using h.v
  s := by simpa using h.s
  p := by simpa using h.p
  t := by simpa using h.t
  flags := by simpa using h.flags
  dead := by simpa using h.dead
  starve := by simpa using h.starve
  lastSeq := by simpa using h.lastSeq
  cycleHi := by simpa using h.cycleHi

theorem regsKept_endedWave {c : Cur} {a w : Wave} (h : RegsKept a w) : RegsKept a (endedWave c w) where
  v := by simpa using h.v
  s := by simpa using h.s
  p := by simpa using h.p
  t := by simpa using h.t
  flags := by simpa using h.flags
  dead := by simpa using h.dead
  starve := by simpa using h.starve
  lastSeq := by simpa using h.lastSeq
  cycleHi := by simpa using h.cycleHi

/-- Only the queues of a wave are other than before. -/
theorem regsKept_queues (w : Wave) (sq : List (Nat × Effect)) (rays : List RayOp) (colls : List Nat) :
    RegsKept w { w with sq := sq, rays := rays, colls := colls } :=
  ⟨rfl, rfl, rfl, rfl, rfl, rfl, rfl, rfl, rfl⟩

/-- The lanes of a mask, each with its image. -/
theorem mem_map_lanesOf {α : Type} (m : Mask) (f : Nat → α) (e : α) :
    e ∈ (lanesOf m).map f ↔ ∃ l, l < 32 ∧ m.getLsbD l = true ∧ e = f l := by
  simp only [lanesOf, List.mem_map, List.mem_filter, List.mem_range, and_assoc, eq_comm (a := f _)]

/-- A block of another state with the same blocks and clauses gives the same word at hand. -/
theorem InWave.of_blocks {s s' t : State} {b : Block} {i : Nat} {w : Wave} (hs : s'.blocks = s.blocks) (h : InWave s' t b i w) :
    InWave s t b i w where
  others u hu := by rw [h.others u hu]; simp only [State.block?, hs]
  block := h.block
  waves := h.waves
  wave := h.wave

/-! ### RAYQ -/

/-- The query that a RAYQ puts under way (R279, R280). -/
def rayqOp (s : State) (c : Cur) (q r : BitVec 8) (n : BitVec 5) (f : BitVec 3) : RayOp :=
  { part := c.iss.part, res := r.toNat,
    rays := (lanesOf c.liveMask).map fun l => (l, (List.range 8).map fun j => c.vec false (q.toNat + j) l),
    root := c.wv.getS64 (2 * n.toNat), flags := f, order := s.free, got := [], asked := [], killed := 0, due := s.now + 60 }

/-- The wave with that query. -/
def rayqWave (s : State) (c : Cur) (q r : BitVec 8) (n : BitVec 5) (f : BitVec 3) : Wave :=
  { c.wv with rays := c.wv.rays ++ [rayqOp s c q r n f] }

theorem exec_rayq {s : State} {c : Cur} {q r : BitVec 8} {n : BitVec 5} {f : BitVec 3} (h : Issues s c (formRayq q r n))
    (hr : c.wv.rays.length < 4) (ha : c.wv.acqPending = false) :
    exec (.rayq q r n f) s = .next (retire s.takeFree.2 c { wave := rayqWave s c q r n f }) := by
  show execRayq q r n f s = _
  rw [execRayq, runWord_go h]
  simp [ha, show ¬ 4 ≤ c.wv.rays.length by omega, rayqWave, rayqOp]

/-- Its query is under way, and nothing else has changed (R280). -/
theorem rayq_retired {s : State} {c : Cur} (q r : BitVec 8) (n : BitVec 5) (f : BitVec 3) (hc : s.cur? = some c) :
    ∃ t w, t = retire s.takeFree.2 c { wave := rayqWave s c q r n f } ∧ InWave s t c.blk c.iss.wave w ∧ MemKept s t ∧
      RegsKept c.wv w ∧ w.rays = c.wv.rays ++ [rayqOp s c q r n f] := by
  have hc' : s.takeFree.2.cur? = some c := hc
  have honly := retire_only (d := { wave := rayqWave s c q r n f }) hc' rfl
  have hfree : MemKept s s.takeFree.2 := ⟨rfl, rfl, rfl, rfl, rfl, rfl⟩
  exact ⟨_, _, rfl, honly.inWave.of_blocks (s' := s.takeFree.2) rfl, hfree.trans honly.outside.memKept,
    regsKept_retiredWave (d := { wave := rayqWave s c q r n f }) (regsKept_queues c.wv c.wv.sq _ c.wv.colls), by simp [rayqWave]⟩

/-! ### COLL and CSEND -/

theorem Token.add_outst (t : Token) (n : Nat) : (t.add n).outst = t.outst ++ [n] := by
  unfold Token.add
  split
  · next h => simp [List.isEmpty_iff.1 h]
  · rfl

theorem Block.token_setToken_same (b : Block) (n : Nat) (x : Token) : (b.setToken n x).token n = x := by
  simp [Block.token, Block.setToken]

/-- The descriptor registers of a COLL or CSEND. -/
def collWords (c : Cur) (b : BitVec 9) : List Word := (List.range 8).map fun j => c.wv.getS (b.toNat + j)

/-- The word's token and its communicator have room (R389). -/
def collRoom (s : State) (c : Cur) (b : BitVec 9) (k : BitVec 3) : Prop :=
  (c.blk.token k.toNat).outst.length < 64 ∧
    ((s.comm? (collComm (collWords c b))).isSome = true → s.opsQueued (collComm (collWords c b)) < 16)

/-- The wave of a COLL or CSEND that has been accepted: the operation is one of its own and waits in its store queue. -/
def collWave (s : State) (c : Cur) (csend : Bool) (b : BitVec 9) (k : BitVec 3) : Wave :=
  { c.wv with
    colls := c.wv.colls ++ [s.nextUid]
    sq := c.wv.sq ++ [(s.now, .coll csend s.nextUid k.toNat (collWords c b))] }

/-- The state in which such a word retires: the operation counts on its token. -/
def collBegun (s : State) (c : Cur) (k : BitVec 3) : State :=
  ({ s with nextUid := s.nextUid + 1 } : State).updBlock c.blk.uid fun x =>
    x.setToken k.toNat ((c.blk.token k.toNat).add s.nextUid)

section
variable {s : State} {c : Cur} {op : Nat} {csend : Bool} {b : BitVec 9} {k : BitVec 3}

/-- With room the word does not wait. -/
theorem collRoom.notFull (h : collRoom s c b k) : ((c.blk.token k.toNat).outst.length ≥ Config.copyDepth ||
    (s.comm? (collComm (collWords c b))).isSome && s.opsQueued (collComm (collWords c b)) ≥ 16) = false := by
  obtain ⟨htok, hq⟩ := h
  by_cases hc : (s.comm? (collComm (collWords c b))).isSome = true
  · have := hq hc
    simp [Config.copyDepth, hc, htok, this]
  · simp [Config.copyDepth, hc, htok]

theorem runColl_accepts (h : Issues s c (formColl op b)) (hr : collRoom s c b k)
    (hok : (if csend then csendOk (collWords c b) else collOk (collWords c b)) = true) :
    runColl s op csend b k = .next (retire (collBegun s c k) c
      { wave := collWave s c csend b k, writes := (formColl op b c).writes, lat := (formColl op b c).lat }) := by
  rw [runColl, runWord_go h]
  dsimp only
  rw [← collWords, hr.notFull, hok]
  rfl

theorem runColl_traps (h : Issues s c (formColl op b)) (hr : collRoom s c b k)
    (hok : (if csend then csendOk (collWords c b) else collOk (collWords c b)) = false) :
    runColl s op csend b k = .next (takeTrap s c { cause := 11, opcode := op }) := by
  rw [runColl, runWord_go h]
  dsimp only
  rw [← collWords, hr.notFull, hok]
  rfl

/-- The block after a COLL or CSEND has issued: its token names the operation, and its wave holds it. -/
theorem collBegun_block? {d : Done} (hc : s.cur? = some c) :
    (retire (collBegun s c k) c d).block? c.blk.uid =
      some ((c.blk.setToken k.toNat ((c.blk.token k.toNat).add s.nextUid)).updWave c.iss.wave fun _ =>
        retiredWave (collBegun s c k) c d) := by
  obtain ⟨_, hb, _, _, hu, _⟩ := cur?_spec hc
  rw [State.block?_congr (retire_blocks (collBegun s c k) c d), State.updWave, block?_updBlock_same _ _ _ fun _ => by rfl,
    collBegun, block?_updBlock_same _ _ _ fun _ => by rfl]
  rw [hu]
  have : ({ s with nextUid := s.nextUid + 1 } : State).block? c.iss.block = some c.blk := hb
  rw [this]
  rfl

/-- An accepted COLL or CSEND: its operation counts on its token and waits in its wave's store queue (R389). -/
theorem coll_accepted {i : Instr} (hc : s.cur? = some c) {d : Done} (hd : d.wave = collWave s c csend b k)
    (hi : exec i s = .next (retire (collBegun s c k) c d)) :
    ∃ t x w, exec i s = .next t ∧ MemKept s t ∧ t.block? c.blk.uid = some x ∧ x.wave? c.iss.wave = some w ∧ RegsKept c.wv w ∧
      x = { c.blk with tokens := x.tokens, waves := x.waves } ∧
      w.sq = c.wv.sq ++ [(s.now, .coll csend s.nextUid k.toNat (collWords c b))] ∧ w.colls = c.wv.colls ++ [s.nextUid] ∧
      (x.token k.toNat).outst = (c.blk.token k.toNat).outst ++ [s.nextUid] := by
  obtain ⟨_, _, hw, _, _, hidx⟩ := cur?_spec hc
  have hbegun : MemKept s (collBegun s c k) := ⟨rfl, rfl, rfl, rfl, rfl, rfl⟩
  refine ⟨_, _, retiredWave (collBegun s c k) c d, hi, hbegun.trans (retire_outside (collBegun s c k) c d).memKept, collBegun_block? hc, ?_,
    regsKept_retiredWave ?_, rfl, ?_, ?_, ?_⟩
  · rw [wave?_updWave_same _ _ _ fun _ _ => by simpa [hd, collWave] using hidx]
    have : (c.blk.setToken k.toNat ((c.blk.token k.toNat).add s.nextUid)).wave? c.iss.wave = some c.wv := hw
    rw [this]
    rfl
  · rw [hd]
    exact regsKept_queues c.wv _ c.wv.rays _
  · simp [hd, collWave]
  · simp [hd, collWave]
  · rw [← Token.add_outst]
    exact congrArg Token.outst (Block.token_setToken_same c.blk k.toNat ((c.blk.token k.toNat).add s.nextUid))

end

/-- A bit field as a number. -/
theorem toNat_field {w : Nat} (x : BitVec w) (i n : Nat) : (x.extractLsb' i n).toNat = x.toNat / 2 ^ i % 2 ^ n := by
  simp [Nat.shiftRight_eq_div_pow]

/-- A field is zero where its number is. -/
theorem field_eq_zero {w : Nat} (x : BitVec w) (i n : Nat) : x.extractLsb' i n = 0 ↔ x.toNat / 2 ^ i % 2 ^ n = 0 := by
  rw [← toNat_field, BitVec.toNat_eq]
  simp

theorem word_eq_zero (x : Word) : x = 0 ↔ x.toNat = 0 := by
  rw [BitVec.toNat_eq]; rfl

theorem elemSize_eq (fmt : Nat) : elemSize fmt = if fmt = 0 then 4 else if fmt = 1 then 2 else 1 := by
  unfold elemSize
  split <;> simp_all

/-- CREC is as R390 asks. -/
theorem crecOk_iff (d : List Word) : crecOk d = true ↔ crecLegal d := by
  simp only [crecOk, Bool.and_eq_true, bne_iff_ne, beq_iff_eq, field_eq_zero, and_assoc]
  exact Iff.rfl

/-- The formats and modes of each operation (R390, R392). -/
theorem collFormat_iff (op fmt mode : Nat) :
    (op ≤ 5 ∧ fmt ≤ (match op with
      | 0 => 1
      | 1 => 1
      | 2 => 2
      | 3 => 2
      | _ => 0) ∧ mode ≤ if op = 5 then 2 else 0) ↔
      ((op ≤ 1 ∧ fmt ≤ 1 ∧ mode = 0) ∨ ((op = 2 ∨ op = 3) ∧ fmt ≤ 2 ∧ mode = 0) ∨ (op = 4 ∧ fmt = 0 ∧ mode = 0) ∨
        (op = 5 ∧ fmt = 0 ∧ mode ≤ 2)) := by
  by_cases h : op ≤ 5
  · obtain rfl | rfl | rfl | rfl | rfl | rfl : op = 0 ∨ op = 1 ∨ op = 2 ∨ op = 3 ∨ op = 4 ∨ op = 5 := by omega
    all_goals simp
  · simp [h]; omega

/-- What a legal descriptor of COLL is (R390, R392). -/
theorem collOk_iff (d : List Word) : collOk d = true ↔
    ((d.getD 5 0).toNat % 16 = 0 ∧ crecLegal d ∧ (collOp d ≠ 3 → collRoot d = 0) ∧
      ((collOp d ≤ 1 ∧ collFmt d ≤ 1 ∧ collMode d = 0) ∨ ((collOp d = 2 ∨ collOp d = 3) ∧ collFmt d ≤ 2 ∧ collMode d = 0) ∨
        (collOp d = 4 ∧ collFmt d = 0 ∧ collMode d = 0) ∨ (collOp d = 5 ∧ collFmt d = 0 ∧ collMode d ≤ 2)) ∧
      (collOp d = 4 → collSrc d = 0 ∧ collDst d = 0 ∧ (d.getD 4 0).toNat = 0) ∧
      (collOp d ≠ 4 → ∀ a, a = collSrc d ∨ a = collDst d → canonical a = true ∧
        a.toNat % (if collOp d = 5 ∨ collFmt d = 0 then 4 else if collFmt d = 1 then 2 else 1) = 0)) := by
  have hsize : (if collOp d = 5 then 4 else elemSize (collFmt d)) =
      if collOp d = 5 ∨ collFmt d = 0 then 4 else if collFmt d = 1 then 2 else 1 := by
    rw [elemSize_eq]; by_cases five : collOp d = 5 <;> simp [five]
  have hlow : (d.getD 5 0).toNat / 2 ^ 0 % 2 ^ 4 = (d.getD 5 0).toNat % 16 := by simp
  rw [← hsize, ← collFormat_iff, ← crecOk_iff, ← word_eq_zero]
  by_cases h4 : collOp d = 4
  · simp only [collOk, Bool.and_eq_true, Bool.or_eq_true, decide_eq_true_eq, beq_iff_eq, field_eq_zero, hlow, if_pos h4]
    constructor
    · rintro ⟨⟨⟨⟨⟨⟨hzero, hop⟩, hfmt⟩, hmode⟩, hroot⟩, hrec⟩, ⟨hsrc, hdst⟩, hcount⟩
      exact ⟨hzero, hrec, hroot.resolve_left, ⟨hop, hfmt, hmode⟩, fun _ => ⟨hsrc, hdst, hcount⟩, fun h => absurd h4 h⟩
    · rintro ⟨hzero, hrec, hroot, ⟨hop, hfmt, hmode⟩, hbar, -⟩
      obtain ⟨hsrc, hdst, hcount⟩ := hbar h4
      exact ⟨⟨⟨⟨⟨⟨hzero, hop⟩, hfmt⟩, hmode⟩, Decidable.or_iff_not_imp_left.2 hroot⟩, hrec⟩, ⟨hsrc, hdst⟩, hcount⟩
  · simp only [collOk, Bool.and_eq_true, Bool.or_eq_true, decide_eq_true_eq, beq_iff_eq, field_eq_zero, hlow, if_neg h4]
    constructor
    · rintro ⟨⟨⟨⟨⟨⟨hzero, hop⟩, hfmt⟩, hmode⟩, hroot⟩, hrec⟩, hsrc, hdst⟩
      refine ⟨hzero, hrec, hroot.resolve_left, ⟨hop, hfmt, hmode⟩, fun h => absurd h h4, fun _ a ha => ?_⟩
      rcases ha with rfl | rfl
      · exact hsrc
      · exact hdst
    · rintro ⟨hzero, hrec, hroot, ⟨hop, hfmt, hmode⟩, -, haddr⟩
      exact ⟨⟨⟨⟨⟨⟨hzero, hop⟩, hfmt⟩, hmode⟩, Decidable.or_iff_not_imp_left.2 hroot⟩, hrec⟩, haddr h4 _ (.inl rfl), haddr h4 _ (.inr rfl)⟩

/-- What a legal descriptor of CSEND is (R391, R392). -/
theorem csendOk_iff (d : List Word) : csendOk d = true ↔
    ((d.getD 3 0).toNat = 0 ∧ (d.getD 4 0).toNat = 0 ∧ (d.getD 5 0).toNat / 2 ^ 24 = 0 ∧ (d.getD 5 0).toNat % 16 = 0 ∧
      (d.getD 2 0).toNat % 4 = 0 ∧ 4 ≤ (d.getD 2 0).toNat ∧ (d.getD 2 0).toNat ≤ 16777216 ∧ canonical (collSrc d) = true ∧
      crecLegal d) := by
  have hhigh : (d.getD 5 0).toNat / 2 ^ 24 % 2 ^ 8 = (d.getD 5 0).toNat / 2 ^ 24 := by
    have := (d.getD 5 0).isLt
    omega
  have hlow : (d.getD 5 0).toNat / 2 ^ 0 % 2 ^ 4 = (d.getD 5 0).toNat % 16 := by simp
  simp only [csendOk, Bool.and_eq_true, decide_eq_true_eq, beq_iff_eq, field_eq_zero, word_eq_zero, hhigh, hlow, crecOk_iff, and_assoc]
  exact Iff.rfl

/-! ### WREC, LAUNCH and GROW -/

/-- A word that puts an effect in its wave's store queue and nothing else (R21, R416). -/
theorem retire_queued {s : State} {c : Cur} (hc : s.cur? = some c) (e : Effect) :
    ∃ w, OnlyWave s (retire s c { wave := { c.wv with sq := c.wv.sq ++ [(s.now, e)] } }) c.blk c.iss.wave w ∧ RegsKept c.wv w ∧
      w.sq = c.wv.sq ++ [(s.now, e)] :=
  ⟨_, retire_only hc rfl, regsKept_retiredWave (regsKept_queues c.wv _ c.wv.rays c.wv.colls), by simp⟩

/-- What a POST sends: each live lane's device and record (R416). -/
def postLanes (c : Cur) (v q : BitVec 8) : List (Nat × Nat × List Word) :=
  (lanesOf c.liveMask).map fun l => (l, (c.vec false q.toNat l).toNat, (List.range 16).map fun j => c.vec false (v.toNat + j) l)

section
variable {s : State} {c : Cur}

theorem exec_wrecPost {p : BitVec 4} {v q : BitVec 8} (h : Issues s c (formWrec (fun c => c.vregsOk v.toNat 16 16 && c.vregsOk q.toNat 1 1)
      { noRegs with v := List.range' v.toNat 16 ++ [q.toNat] } { noRegs with p := predReg p.toNat })) :
    exec (.wrecPost p v q) s = .next (retire s c
      { wave := { c.wv with sq := c.wv.sq ++ [(s.now, .post c.iss.part p.toNat (postLanes c v q))] } }) := by
  show execWrecPost p v q s = _
  rw [execWrecPost, runWord_go h]
  rfl

theorem exec_wrecTake {p : BitVec 4} {v : BitVec 8} (h : Issues s c (formWrec (fun c => c.vregsOk v.toNat 16 16) noRegs
      { noRegs with v := List.range' v.toNat 16, p := predReg p.toNat })) :
    exec (.wrecTake p v) s = .next (retire s c
      { wave := { c.wv with sq := c.wv.sq ++ [(s.now, .take c.iss.part p.toNat v.toNat c.liveMask)] } }) := by
  show execWrecTake p v s = _
  rw [execWrecTake, runWord_go h]

theorem exec_wrecReturn (h : Issues s c (formWrec (fun _ => true) noRegs noRegs)) :
    exec .wrecReturn s = .next (retire s c { wave := { c.wv with sq := c.wv.sq ++ [(s.now, .giveBack)] } }) := by
  show execWrecReturn s = _
  rw [execWrecReturn, runWord_go h]

theorem exec_grow {i d : BitVec 8} (h : Issues s c (formGrow i d)) :
    exec (.grow i d) s = .next (c.enter s fun h => .grow h d.toNat (c.wv.getS i.toNat)) := by
  show execGrow i d s = _
  rw [execGrow, runWord_go h]

end

/-- How LAUNCH and GROW hold their wave (R313, R314). -/
def enterHold (s : State) (c : Cur) : Hold := { c.hold s 0x7D with rel := true, scope := 2, mask := 1 }

/-- A word that holds its wave and waits in its store queue (R313, R314). -/
theorem enter_only {s : State} {c : Cur} (hc : s.cur? = some c) (e : Hold → Effect) :
    ∃ w, OnlyWave s (c.enter s e) c.blk c.iss.wave w ∧ RegsKept c.wv w ∧ w.run = .entering (enterHold s c) ∧
      w.sq = c.wv.sq ++ [(s.now, e (enterHold s c))] := by
  refine ⟨_, endClause_only hc (by simp), regsKept_endedWave ?_, by simp [enterHold], by simp [enterHold]⟩
  constructor <;> simp

section
variable {s : State} {c : Cur} {n : BitVec 5} {q : BitVec 4}

/-- LAUNCH with an address that passes the checks of R313. -/
theorem execLaunch_checked (h : Issues s c (formLaunchW n)) (hcan : canonical (c.wv.getS64 (2 * n.toNat)) = true)
    (hal : (c.wv.getS64 (2 * n.toNat)).toNat % 256 = 0) :
    exec (.launch n q) s = .next (if s.owns c.blk.ctx q.toNat = true then
      c.enter s fun h => .launch h q.toNat (c.wv.getS64 (2 * n.toNat))
      else takeTrap s c { cause := 6, reason := 8, opcode := 0x7D, addr := c.wv.getS64 (2 * n.toNat), mask := c.liveMask }) := by
  show execLaunch n q s = _
  rw [execLaunch, runWord_go h]
  by_cases ho : s.owns c.blk.ctx q.toNat = true
  · simp [hcan, hal, ho]
  · simp [hcan, hal, ho, causeProt]

end

end Sys2Proof.Machine

open Sys2Proof Sys2Proof.Machine Sys2Proof.Claims

/-- Settles O36: each word is the retiring, or the entering, of a wave whose queues alone are longer. -/
theorem queuedWords : Obligations.QueuedWords := by
  unfold Obligations.QueuedWords
  refine ⟨?_, ?_, ?_, ?_, ?_, ?_, ?_, ?_, ?_, ?_⟩
  · intro q r n f s c h hr ha
    obtain ⟨t, w, ht, hin, hmem, hregs, hrays⟩ := rayq_retired q r n f h.cur
    exact ⟨t, w, rayqOp s c q r n f, (exec_rayq h hr ha).trans (by rw [ht]), hin, hmem, hregs, hrays, rfl, rfl, rfl, mem_map_lanesOf _ _⟩
  · intro csend b k s c d h hd htok hq hok
    obtain rfl : d = collWords c b := hd
    cases csend
    · exact coll_accepted h.cur rfl (runColl_accepts h ⟨htok, hq⟩ hok)
    · exact coll_accepted h.cur rfl (runColl_accepts h ⟨htok, hq⟩ hok)
  · intro csend b k s c d h hd htok hq hok
    obtain rfl : d = collWords c b := hd
    cases csend
    · exact runColl_traps h ⟨htok, hq⟩ hok
    · exact runColl_traps h ⟨htok, hq⟩ hok
  · intro d
    have hop : collOp d = (d.getD 5 0).toNat / 2 ^ 28 := by
      rw [collOp, toNat_field]
      have := (d.getD 5 0).isLt
      omega
    have hfmt : collFmt d = (d.getD 5 0).toNat / 2 ^ 26 % 4 := toNat_field _ 26 2
    have hmode : collMode d = (d.getD 5 0).toNat / 2 ^ 24 % 4 := toNat_field _ 24 2
    have hroot : collRoot d = (d.getD 5 0).toNat / 2 ^ 14 % 2 ^ 10 := toNat_field _ 14 10
    have hlegal := collOk_iff d
    rw [hop, hfmt, hmode, hroot] at hlegal
    exact ⟨hlegal, csendOk_iff d⟩
  · intro p v q s c h
    obtain ⟨w, honly, hregs, hsq⟩ := retire_queued h.cur (.post c.iss.part p.toNat (postLanes c v q))
    exact ⟨_, w, postLanes c v q, exec_wrecPost h, honly, hregs, hsq, mem_map_lanesOf _ _⟩
  · intro p v s c h
    obtain ⟨w, honly, hregs, hsq⟩ := retire_queued h.cur (.take c.iss.part p.toNat v.toNat c.liveMask)
    exact ⟨_, w, exec_wrecTake h, honly, hregs, hsq⟩
  · intro s c h
    obtain ⟨w, honly, hregs, hsq⟩ := retire_queued h.cur .giveBack
    exact ⟨_, w, exec_wrecReturn h, honly, hregs, hsq⟩
  · intro n q s c h hcan hal ho
    obtain ⟨w, honly, hregs, hrun, hsq⟩ := enter_only h.cur fun h => .launch h q.toNat (c.wv.getS64 (2 * n.toNat))
    exact ⟨_, w, enterHold s c, (execLaunch_checked h hcan hal).trans (by rw [if_pos ho]), honly, hregs, hrun, rfl, rfl, rfl, hsq⟩
  · intro n q s c h hcan hal ho
    exact (execLaunch_checked h hcan hal).trans (by rw [if_neg (by simp [ho])])
  · intro i d s c h
    obtain ⟨w, honly, hregs, hrun, hsq⟩ := enter_only h.cur fun h => .grow h d.toNat (c.wv.getS i.toNat)
    exact ⟨_, w, enterHold s c, exec_grow h, honly, hregs, hrun, rfl, rfl, rfl, hsq⟩
end

