-- ==== Sys2Proof/Proofs/Choice.lean ====
section
/-! PROOFS. The choice of the next clause (O40): the pick that a slot takes ranks first among those offered to it, and
what its start does. -/

namespace Sys2Proof.Machine

open Sys2Proof Sys2Proof.Claims

/-! ### The order of picks (R11) -/

theorem lexLt_asymm : ∀ {a b : List Nat}, lexLt a b = true → lexLt b a = false
  | [], _, h => by simp [lexLt] at h
  | _ :: _, [], _ => by simp [lexLt]
  | x :: a, y :: b, h => by
    simp only [lexLt, Bool.or_eq_true, decide_eq_true_eq, Bool.and_eq_true, beq_iff_eq] at h
    obtain lt | ⟨rfl, tl⟩ := h
    · simp [lexLt]; omega
    · simp [lexLt, lexLt_asymm tl]

theorem lexLt_irrefl (a : List Nat) : lexLt a a = false := by
  cases lt : lexLt a a with
  | false => rfl
  | true => exact lt.symm.trans (lexLt_asymm lt)

/-- Of lists of one length, any third stands above the lower or below the higher of two. -/
theorem lexLt_cotrans : ∀ {a b c : List Nat}, a.length = c.length → c.length = b.length → lexLt a b = true →
    lexLt a c = true ∨ lexLt c b = true
  | [], _, _, _, _, h => by simp [lexLt] at h
  | _ :: _, [], _, _, _, h => by simp [lexLt] at h
  | x :: a, y :: b, [], e, _, _ => by simp at e
  | x :: a, y :: b, z :: c, e, e', h => by
    simp only [List.length_cons, Nat.add_right_cancel_iff] at e e'
    simp only [lexLt, Bool.or_eq_true, decide_eq_true_eq, Bool.and_eq_true, beq_iff_eq] at h ⊢
    obtain lt | ⟨rfl, tl⟩ := h
    · omega
    · obtain lt | rfl | gt := Nat.lt_trichotomy x z
      · exact .inl (.inl lt)
      · exact (lexLt_cotrans e e' tl).imp (fun k => .inr ⟨rfl, k⟩) fun k => .inr ⟨rfl, k⟩
      · exact .inr (.inl gt)

theorem bestPick_eq_none {slot1 : Bool} {l : List Pick} (h : bestPick slot1 l = none) : l = [] := by
  cases l with
  | nil => rfl
  | cons x t =>
    simp only [bestPick] at h
    split at h
    · simp at h
    · split at h <;> simp at h

/-- The best pick is one of the picks, and none ranks above it. -/
theorem bestPick_spec {slot1 : Bool} : ∀ {l : List Pick} {x : Pick}, bestPick slot1 l = some x →
    x ∈ l ∧ ∀ y ∈ l, lexLt (y.rank slot1) (x.rank slot1) = false
  | [], _, h => by simp [bestPick] at h
  | a :: t, x, h => by
    cases tail : bestPick slot1 t with
    | none =>
      obtain rfl := bestPick_eq_none tail
      obtain rfl : a = x := by simpa [bestPick, tail] using h
      exact ⟨by simp, fun y hy => List.mem_singleton.mp hy ▸ lexLt_irrefl _⟩
    | some z =>
      obtain ⟨zt, least⟩ := bestPick_spec tail
      simp only [bestPick, tail] at h
      split at h
      next lt =>
        obtain rfl := Option.some.inj h
        exact ⟨.tail _ zt, fun y hy => (List.mem_cons.mp hy).elim (fun e => e ▸ lexLt_asymm lt) (least y)⟩
      next ge =>
        obtain rfl := Option.some.inj h
        refine ⟨.head _, fun y hy => (List.mem_cons.mp hy).elim (fun e => e ▸ lexLt_irrefl _) fun hy => ?_⟩
        · refine Bool.eq_false_iff.mpr fun k => ?_
          obtain up | up := lexLt_cotrans (a := y.rank slot1) (b := a.rank slot1) (c := z.rank slot1) rfl rfl k
          · simp [least y hy] at up
          · exact ge up

/-- What a slot's choice may be: the first of the picks offered, or the first that is no MIX clause. -/
theorem State.choose_spec {s : State} {core sub : Nat} {slot1 : Bool} {x : Pick} (h : s.choose core sub slot1 = some x) :
    s.slotFree core sub slot1 = true ∧
    ((bestPick slot1 (s.picks core sub slot1) = some x ∧ (x.isMix = true → s.bestInBoth core sub slot1 x = true)) ∨
      bestPick slot1 ((s.picks core sub slot1).filter fun y => !y.isMix) = some x) := by
  simp only [State.choose] at h
  split at h
  · simp at h
  next free =>
    refine ⟨by simpa using free, ?_⟩
    split at h
    · simp at h
    next z best =>
      split at h
      next alone =>
        obtain rfl := Option.some.inj h
        exact .inl ⟨best, fun m => by simpa [m] using alone⟩
      next =>
        split at h
        · simp at h
        · exact .inr h

theorem State.choose_mem {s : State} {core sub : Nat} {slot1 : Bool} {x : Pick} (h : s.choose core sub slot1 = some x) :
    x ∈ s.picks core sub slot1 := by
  obtain ⟨-, ⟨best, -⟩ | best⟩ := State.choose_spec h
  · exact (bestPick_spec best).1
  · exact (List.mem_filter.mp (bestPick_spec best).1).1

theorem State.choose_first {s : State} {core sub : Nat} {slot1 : Bool} {x y : Pick} (h : s.choose core sub slot1 = some x)
    (hy : y ∈ s.picks core sub slot1) (above : lexLt (y.rank slot1) (x.rank slot1) = true) : y.isMix = true := by
  obtain ⟨-, ⟨best, -⟩ | best⟩ := State.choose_spec h
  · simp [(bestPick_spec best).2 y hy] at above
  · cases mix : y.isMix with
    | true => rfl
    | false => simp [(bestPick_spec best).2 y (List.mem_filter.mpr ⟨hy, by simp [mix]⟩)] at above

theorem State.choose_mix {s : State} {core sub : Nat} {slot1 : Bool} {x : Pick} (h : s.choose core sub slot1 = some x)
    (mix : x.isMix = true) : s.slotFree core sub (!slot1) = true := by
  obtain ⟨-, ⟨-, both⟩ | best⟩ := State.choose_spec h
  · have b := both mix
    simp only [State.bestInBoth, Bool.and_eq_true] at b
    exact b.1
  · simpa [mix] using (List.mem_filter.mp (bestPick_spec best).1).2

/-! ### What a pick is of (R10) -/

theorem State.pickPart_wave {s : State} {b : Block} {w : Wave} {k : Nat} {x : Pick} (h : s.pickPart b w k = some x) :
    x.block = b ∧ x.wave = w := by
  simp only [State.pickPart] at h
  split at h
  · simp at h
  · split at h
    · simp at h
    · obtain rfl := Option.some.inj h
      exact ⟨rfl, rfl⟩

theorem State.waveNext_spec {s : State} {b : Block} {w : Wave} {x : Pick} (h : s.waveNext b w = some x) :
    s.mayIssue b w = true ∧ x.block = b ∧ x.wave = w := by
  have all : ∀ {y}, y ∈ w.turns.filterMap (fun k => s.pickPart b w k) → y.block = b ∧ y.wave = w := fun hy => by
    obtain ⟨k, -, e⟩ := List.mem_filterMap.mp hy
    exact State.pickPart_wave e
  have last : ∀ {y}, y ∈ (s.pickPart b w 4).toList → y.block = b ∧ y.wave = w := fun hy =>
    State.pickPart_wave (Option.mem_toList.mp hy)
  have both : ∀ {y}, y ∈ w.turns.filterMap (fun k => s.pickPart b w k) ++ (s.pickPart b w 4).toList →
      y.block = b ∧ y.wave = w := fun hy => (List.mem_append.mp hy).elim all last
  simp only [State.waveNext] at h
  split at h
  · simp at h
  next may =>
    refine ⟨by simpa using may, ?_⟩
    split at h
    next e => exact Option.some.inj h ▸ both (List.mem_of_find?_eq_some e)
    next =>
      split at h
      next e => exact Option.some.inj h ▸ all (List.mem_of_find?_eq_some e)
      next =>
        split at h
        next e => exact Option.some.inj h ▸ last (List.mem_of_find?_eq_some e)
        · exact both (List.mem_of_mem_head? h)

theorem State.mayIssue_of_mem_picks {s : State} {core sub : Nat} {slot1 : Bool} {x : Pick} (h : x ∈ s.picks core sub slot1) :
    s.mayIssue x.block x.wave = true := by
  obtain ⟨b, -, hx⟩ := List.mem_flatMap.mp h
  obtain ⟨w, -, offered⟩ := List.mem_filterMap.mp hx
  obtain ⟨may, rfl, rfl⟩ := State.waveNext_spec (Option.filter_eq_some_iff.mp offered).1
  exact may

theorem State.mayIssue_spec {s : State} {b : Block} {w : Wave} (h : s.mayIssue b w = true) :
    w.run = .running ∧ (∀ i ∈ s.issues, ¬ (i.block = b.uid ∧ i.wave = w.idx)) ∧
      ∀ h, b.halt = some h → h.signalled = false := by
  simp only [State.mayIssue, Bool.and_eq_true, beq_iff_eq, Bool.not_eq_true', List.any_eq_false, not_and] at h
  obtain ⟨⟨run, idle⟩, halted⟩ := h
  refine ⟨run, fun i hi e => ?_, fun h e => ?_⟩
  · exact idle i hi e.1 e.2
  · simp only [e, Bool.and_eq_true, Bool.not_eq_true'] at halted
    exact halted.1.1

/-! ### What the start of a clause does (R15, R225, R396) -/

/-- What an acquire leaves as it was: all but the L1, the RDC, the ray node cache and the reads under way. -/
theorem State.observe_frame (s : State) (b : Block) (ks : List Nat) :
    (s.observe b ks).issues = s.issues ∧ (s.observe b ks).now = s.now ∧ (s.observe b ks).mem = s.mem ∧
    (s.observe b ks).dram = s.dram ∧ (s.observe b ks).hostMem = s.hostMem ∧ (s.observe b ks).l2 = s.l2 := by
  simp only [State.observe]
  split <;> exact ⟨rfl, rfl, rfl, rfl, rfl, rfl⟩

theorem State.observe_of_plain {s : State} {b : Block} {ks : List Nat} (h : ∀ k ∈ ks, (b.token k).coll = false) :
    s.observe b ks = s := by
  have none : (ks.any fun k => (b.token k).outst.isEmpty && (b.token k).coll) = false := by
    simp only [List.any_eq_false, Bool.and_eq_true, not_and]
    exact fun k hk _ => by simp [h k hk]
  simp [State.observe, none]

/-- An observed COLL or CSEND leaves only dirty bytes valid in the core's lines of its context (R213, R396). -/
theorem State.observe_l1 {s : State} {b : Block} {ks : List Nat} {k : Nat} (hk : k ∈ ks) (done : (b.token k).outst = [])
    (coll : (b.token k).coll = true) : ∀ y ∈ (s.observe b ks).l1, y.core = b.core → y.ctx = b.ctx → y.valid = y.dirty := by
  have some : (ks.any fun k => (b.token k).outst.isEmpty && (b.token k).coll) = true :=
    List.any_eq_true.mpr ⟨k, hk, by simp [done, coll]⟩
  simp only [State.observe, some, if_true]
  intro y hy hc hx
  obtain ⟨x, -, e⟩ := List.mem_filterMap.mp hy
  split at e
  · split at e
    · simp at e
    · obtain rfl := Option.some.inj e
      rfl
  next other =>
    obtain rfl := Option.some.inj e
    simp [hc, hx] at other

theorem mem_waitTokens {h : Word} {k : Nat} : k ∈ waitTokens h ↔ k < 8 ∧ h.getLsbD (7 + k) = true := by
  simp [waitTokens]

/-- The issue with which the clause `h` of a pick begins, at part `p`'s word and with empty latches (R15). -/
def Pick.begins (x : Pick) (core sub : Nat) (slot1 : Bool) (h : Word) (p : Part) : Issue :=
  { core := core, sub := sub, slot1 := slot1, mix := x.isMix, block := x.block.uid, wave := x.wave.idx,
    part := x.part, pc := p.pc, header := h, k := max 1 p.word, xc := none, xp := none, ext := none, lat0 := [], lat1 := [] }

/-- The waves as a pick's clause takes its slot: the core's waves have noted it, and the pick's wave has its turn. -/
def State.turnTaken (s : State) (core sub : Nat) (slot1 : Bool) (x : Pick) (p : Part) : State :=
  ({ s with blocks := s.blocks.map fun b =>
      if b.core == core then { b with waves := b.waves.map fun w =>
        if w.sub == sub then
          { s.passedOver b w with yielded := w.yielded &&& if x.isMix then 0 else if slot1 then 1 else 2 } else w } else b } :
    State).updWave x.block.uid x.wave.idx fun w =>
      { w.setPart x.part (some { p with wait := .none }) with
        starveCnt := 0, readySince := none, promoted := none, turn := if x.part < 4 then x.part else w.turn }

theorem State.startClause_eq (s : State) (core sub : Nat) (slot1 : Bool) (x : Pick) (h : Word) (p : Part) :
    s.startClause core sub slot1 x h p =
      { ((s.turnTaken core sub slot1 x p).observe x.block (waitTokens h)).checkpoint core x.block.uid x.wave.idx true false with
        issues := x.begins core sub slot1 h p :: s.issues } := by
  have issues := (State.observe_frame (s.turnTaken core sub slot1 x p) x.block (waitTokens h)).1
  rw [show s.issues = (s.turnTaken core sub slot1 x p).issues from rfl, ← issues]
  rfl

/-- CLAUSE_SELECT of a ready clause (R15, R225, R396). -/
theorem State.startClause_spec (s : State) (core sub : Nat) (slot1 : Bool) (x : Pick) (h : Word) (p : Part) :
    ∃ t, s.startClause core sub slot1 x h p = t ∧ t.issues = x.begins core sub slot1 h p :: s.issues ∧
      t.now = s.now ∧ t.mem = s.mem ∧ t.dram = s.dram ∧ t.hostMem = s.hostMem ∧ t.l2 = s.l2 ∧
      ((∀ k, k < 8 → h.getLsbD (7 + k) = true → (x.block.token k).coll = false) → MemKept s t) ∧
      ((∃ k, k < 8 ∧ h.getLsbD (7 + k) = true ∧ (x.block.token k).outst = [] ∧ (x.block.token k).coll = true) →
        ∀ y ∈ t.l1, y.core = x.block.core → y.ctx = x.block.ctx → y.valid = y.dirty) := by
  obtain ⟨-, now, mem, dram, hostMem, l2⟩ := (s.turnTaken core sub slot1 x p).observe_frame x.block (waitTokens h)
  refine ⟨_, s.startClause_eq core sub slot1 x h p, rfl, now, mem, dram, hostMem, l2, fun plain => ?_, fun acquired => ?_⟩
  · rw [State.observe_of_plain fun k hk => plain k (mem_waitTokens.mp hk).1 (mem_waitTokens.mp hk).2]
    exact ⟨rfl, rfl, rfl, rfl, rfl, rfl⟩
  · obtain ⟨k, lt, named, done, coll⟩ := acquired
    exact State.observe_l1 (mem_waitTokens.mpr ⟨lt, named⟩) done coll

end Sys2Proof.Machine

open Sys2Proof Sys2Proof.Machine Sys2Proof.Claims

/-- Settles O40: a slot takes the first of the picks in R11's order (`bestPick_spec`, `State.choose_spec`), a pick is of a
wave that may issue (`State.waveNext_spec`), and the start of its clause touches the memories only through the acquire of
an observed COLL or CSEND (`State.startClause_spec`). -/
theorem clauseSelection : Obligations.ClauseSelection := by
  unfold Obligations.ClauseSelection
  refine ⟨fun s core sub slot1 x p chosen part => ⟨fun cls h ready => ?_, fun bad => ?_, fun reconv => ?_⟩,
    fun s core sub slot1 x chosen => ?_⟩
  · obtain ⟨t, started, issues, now, mem, dram, hostMem, l2, plain, acquired⟩ := s.startClause_spec core sub slot1 x h p
    refine ⟨t, x.begins core sub slot1 h p, ?_, issues, rfl, rfl, rfl, rfl, rfl, rfl, rfl, rfl, rfl, rfl, rfl, rfl, rfl, rfl,
      rfl, now, mem, dram, hostMem, l2, plain, acquired⟩
    show execClauseSelect core sub slot1 s = _
    simp only [execClauseSelect, chosen, part, ready, started]
  · show execClauseSelect core sub slot1 s = _
    simp only [execClauseSelect, chosen, part, bad]
  · show execClauseSelect core sub slot1 s = _
    simp only [execClauseSelect, chosen, part, reconv]
  · have offered := State.choose_mem chosen
    obtain ⟨run, idle, halt⟩ := State.mayIssue_spec (State.mayIssue_of_mem_picks offered)
    exact ⟨(State.choose_spec chosen).1, offered, run, idle, halt, State.choose_mix chosen,
      fun y hy above => State.choose_first chosen hy above⟩
end

