-- ==== Sys2Proof/Proofs/Settling.lean ====
section
/-! PROOFS. What settling a block keeps: it changes no state but the block's, and not its name. -/

namespace Sys2Proof.Machine

open Sys2Proof

/-! ### A block's waiting parts go on under its name -/

theorem foldl_uid {α : Type} {f : Block → α → Block} (hf : ∀ b x, (f b x).uid = b.uid) (l : List α) (b : Block) :
    (l.foldl f b).uid = b.uid := by
  induction l generalizing b with
  | nil => rfl
  | cons x l ih => exact (ih (f b x)).trans (hf b x)

@[simp] theorem Block.updWave_uid (b : Block) (i : Nat) (f : Wave → Wave) : (b.updWave i f).uid = b.uid := rfl
@[simp] theorem Block.setBar_uid (b : Block) (n : Nat) (x : Barrier) : (b.setBar n x).uid = b.uid := rfl
@[simp] theorem Block.setMbar_uid (b : Block) (n : Nat) (x : MBarrier) : (b.setMbar n x).uid = b.uid := rfl
@[simp] theorem Block.setChan_uid (b : Block) (n : Nat) (x : Channel) : (b.setChan n x).uid = b.uid := rfl
@[simp] theorem Block.passMbar_uid (b : Block) (n now : Nat) : (b.passMbar n now).uid = b.uid := rfl
@[simp] theorem Block.giveRoom_uid (b : Block) : b.giveRoom.uid = b.uid := rfl
@[simp] theorem Block.noteStuck_uid (b : Block) (now : Nat) : (b.noteStuck now).uid = b.uid := rfl
@[simp] theorem Block.passSets_uid (x phase : Nat) (b : Block) : (b.passSets x phase).uid = b.uid := rfl
@[simp] theorem Block.bmemWrite_uid (b : Block) (off : Nat) (bs : List Byte) : (b.bmemWrite off bs).uid = b.uid := rfl

@[simp] theorem Block.takeTrap_uid (b : Block) (now i : Nat) (pos : Addr) (t : TrapInfo) : (b.takeTrap now i pos t).uid = b.uid := by
  simp only [Block.takeTrap]; split
  · rfl
  · split <;> rfl

@[simp] theorem Block.mergeOne_uid (b : Block) (now : Nat) : (b.mergeOne now).uid = b.uid := by
  simp only [Block.mergeOne]; split
  · split <;> simp
  · rfl

@[simp] theorem Block.arriveBar_uid (b : Block) (n : Nat) (w : Wave) : (b.arriveBar n w).uid = b.uid := by
  simp only [Block.arriveBar]; split <;> rfl

@[simp] theorem Block.completeBar_uid (b : Block) (n : Nat) : (b.completeBar n).uid = b.uid := by
  simp only [Block.completeBar]; split <;> rfl

@[simp] theorem Block.completeMbar_uid (b : Block) (n now : Nat) : (b.completeMbar n now).uid = b.uid := by
  simp only [Block.completeMbar]; split <;> rfl

@[simp] theorem Block.waveArrive_uid (b : Block) (n i k : Nat) (sync : Bool) : (b.waveArrive n i k sync).uid = b.uid := by
  simp only [Block.waveArrive]; split <;> rfl

@[simp] theorem Block.streamArrive_uid (b : Block) (n : Nat) (sync : Bool) (now : Nat) :
    (b.streamArrive n sync now).uid = b.uid := by
  simp only [Block.streamArrive]; split <;> rfl

@[simp] theorem Block.retryMbar_uid (b : Block) (n now : Nat) : (b.retryMbar n now).uid = b.uid := by
  simp only [Block.retryMbar]
  repeat' split
  all_goals simp

@[simp] theorem Block.doSend_uid (b : Block) (n i now : Nat) : (b.doSend n i now).uid = b.uid := by
  simp only [Block.doSend]; split <;> simp

@[simp] theorem Block.sendNow_uid (b : Block) (n i now : Nat) : (b.sendNow n i now).uid = b.uid := by
  simp only [Block.sendNow]; split <;> simp

@[simp] theorem Block.doRecv_uid (b : Block) (n i now : Nat) : (b.doRecv n i now).uid = b.uid := by
  simp only [Block.doRecv]; split
  · rfl
  · split <;> rfl

@[simp] theorem Block.serveChan_uid (b : Block) (n now : Nat) : (b.serveChan n now).uid = b.uid := by
  simp only [Block.serveChan]
  split
  case h_1 i _ =>
    split
    · simp
    · split
      · simp
      · split <;> simp
  case h_2 =>
    split
    · split
      · exact foldl_uid (fun b e => Block.takeTrap_uid b _ _ _ _) _ _
      · split <;> simp
    · rfl

theorem Block.settleOnce_uid (b : Block) (now : Nat) : (b.settleOnce now).uid = b.uid := by
  simp only [Block.settleOnce]
  split
  · rfl
  · rw [foldl_uid (fun b n => by simp), foldl_uid (fun b n => by simp), foldl_uid (fun b n => by simp),
      foldl_uid (fun b n => foldl_uid (fun b w => by split <;> simp) _ _)]
    simp

theorem Block.settleN_uid (now n : Nat) (b : Block) : (Block.settleN now n b).uid = b.uid := by
  induction n generalizing b with
  | zero => rfl
  | succ n ih => exact (ih _).trans (b.settleOnce_uid now)

theorem Block.settle_uid (b : Block) (now : Nat) : (b.settle now).uid = b.uid := by
  simp only [Block.settle]; split
  · simp [Block.settleN_uid]
  · rfl

@[simp] theorem Block.arriveSet_uid (x phase : Nat) (b : Block) (w : Wave) : (b.arriveSet x phase w).uid = b.uid := by
  simp only [Block.arriveSet]; split <;> rfl

@[simp] theorem Block.sendSet_uid (x now : Nat) (sent : Bool) (b : Block) : (b.sendSet x now sent).uid = b.uid := by
  simp only [Block.sendSet]
  split
  · split <;> rfl
  · rfl

theorem Block.settleSet_uid (l : Launch) (now x : Nat) (b : Block) : (b.settleSet l now x).uid = b.uid := by
  simp only [Block.settleSet, Block.sendSet_uid]
  exact foldl_uid (fun b w => by split <;> simp) _ _

/-! ### Settling a block changes only the blocks, and only the block named -/

/-- `t` is `s` but for its blocks. -/
def BlocksOnly (s t : State) : Prop := t = { s with blocks := t.blocks }

theorem BlocksOnly.refl (s : State) : BlocksOnly s s := rfl

theorem BlocksOnly.trans {s t u : State} (h : BlocksOnly s t) (k : BlocksOnly t u) : BlocksOnly s u := by
  unfold BlocksOnly at *
  rw [k, h]

theorem BlocksOnly.foldl {α : Type} {f : State → α → State} (hf : ∀ s x, BlocksOnly s (f s x)) (l : List α) (s : State) :
    BlocksOnly s (l.foldl f s) := by
  induction l generalizing s with
  | nil => rfl
  | cons x l ih => exact (hf s x).trans (ih _)

theorem State.settleSets_only (s : State) (u : Nat) : BlocksOnly s (s.settleSets u) := by
  simp only [State.settleSets]
  repeat' split
  all_goals rfl

theorem State.settle_only (s : State) (u : Nat) : BlocksOnly s (s.settle u) :=
  BlocksOnly.trans (t := s.updBlock u fun b => b.settle s.now) rfl (State.settleSets_only _ u)

theorem State.settleSets_block?_other (s : State) {u v : Nat} (h : v ≠ u) : (s.settleSets u).block? v = s.block? v := by
  simp only [State.settleSets]
  split
  · rfl
  · split
    · rfl
    · split
      · rfl
      · exact block?_updBlock_other _ _ (fun b => foldl_uid (fun b x => Block.settleSet_uid _ _ x b) _ b) h

theorem State.settle_block?_other (s : State) {u v : Nat} (h : v ≠ u) : (s.settle u).block? v = s.block? v :=
  (State.settleSets_block?_other _ h).trans (block?_updBlock_other _ _ (fun b => Block.settle_uid b _) h)

theorem State.settles_block?_other (l : List Block) (s : State) {v : Nat} (h : ∀ b ∈ l, b.uid ≠ v) :
    (l.foldl (fun z b => z.settle b.uid) s).block? v = s.block? v := by
  induction l generalizing s with
  | nil => rfl
  | cons b l ih =>
    exact (ih _ fun c hc => h c (.tail _ hc)).trans (State.settle_block?_other s (Ne.symm (h b (.head _))))

end Sys2Proof.Machine
end

