-- ==== Sys2Proof/Proofs/Repairs.lean ====
section
/-! PROOFS. A core after a change of it, a repair byte after it is set, and what an error record, a machine-check record
and a repair-table entry leave unchanged (R27, R441-R444, R450). -/

namespace Sys2Proof.Machine

open Sys2Proof Sys2Proof.Claims

/-! ### Finding after `upsert` -/

theorem findD_upsert_same {α : Type} (p : α → Bool) (d : α) (f : α → α) (hp : ∀ x, p x = true → p (f x) = true)
    (hd : p d = true) (l : List α) : findD p d (upsert p d f l) = f (findD p d l) := by
  induction l with
  | nil => simp [upsert, findD, hp d hd]
  | cons x l ih =>
    by_cases h : p x = true
    · simp [upsert, findD, h, hp x h]
    · simpa [upsert, findD, h] using ih

theorem findD_upsert_other {α : Type} (p q : α → Bool) (d e : α) (f : α → α) (hq : ∀ x, p x = true → q x = false)
    (hf : ∀ x, p x = true → q (f x) = false) (hd : p d = true) (l : List α) : findD q e (upsert p d f l) = findD q e l := by
  induction l with
  | nil => simp [upsert, findD, hf d hd]
  | cons x l ih =>
    by_cases h : p x = true
    · simp [upsert, findD, h, hq x h, hf x h]
    · by_cases k : q x = true
      · simp [upsert, findD, h, k]
      · simpa [upsert, findD, h, k] using ih

theorem State.core_updCore_same (s : State) (c : Nat) (f : Core → Core) (hf : ∀ k, (f k).id = k.id) :
    (s.updCore c f).core c = f (s.core c) :=
  findD_upsert_same _ _ f (fun k h => by simpa [hf k] using h) (by simp [Core.fresh]) s.cores

theorem State.core_updCore_other (s : State) {c c' : Nat} (f : Core → Core) (hf : ∀ k, (f k).id = k.id) (h : c' ≠ c) :
    (s.updCore c f).core c' = s.core c' := by
  refine findD_upsert_other _ _ _ _ f (fun k hk => ?_) (fun k hk => ?_) (by simp [Core.fresh]) s.cores
  all_goals
    have e : k.id = c := by simpa using hk
    simp [hf, e, Ne.symm h]

theorem State.core_congr {s t : State} (h : t.cores = s.cores) (c : Nat) : t.core c = s.core c := by
  simp only [State.core, h]

/-! ### What leaves the replay counts as they are (R441) -/

/-- Every core's replay count is what it was. -/
def ReplayKept (s t : State) : Prop := ∀ c, (t.core c).replay = (s.core c).replay

theorem ReplayKept.trans {s t u : State} (h : ReplayKept s t) (k : ReplayKept t u) : ReplayKept s u :=
  fun c => (k c).trans (h c)

theorem ReplayKept.of_cores {s t : State} (h : t.cores = s.cores) : ReplayKept s t := fun c => by rw [State.core_congr h]

theorem ReplayKept.updCore (s : State) (c : Nat) (f : Core → Core) (hf : ∀ k, (f k).id = k.id)
    (hr : ∀ k, (f k).replay = k.replay) : ReplayKept s (s.updCore c f) := fun c' => by
  by_cases h : c' = c
  · rw [h, State.core_updCore_same s c f hf, hr]
  · rw [State.core_updCore_other s f hf h]

theorem ReplayKept.foldl {α : Type} {f : State → α → State} (hf : ∀ s x, ReplayKept s (f s x)) (l : List α) (s : State) :
    ReplayKept s (l.foldl f s) := by
  induction l generalizing s with
  | nil => exact fun _ => rfl
  | cons x l ih => exact (hf s x).trans (ih _)

/-! ### Repair bytes (R441) -/

theorem getElem?_updIdx_same {α : Type} (f : α → α) : ∀ (i : Nat) (l : List α), (updIdx i f l)[i]? = l[i]?.map f
  | _, [] => by simp [updIdx]
  | 0, x :: l => rfl
  | i + 1, x :: l => by simpa [updIdx] using getElem?_updIdx_same f i l

theorem Core.repairByte_setRepair (k : Core) {i : Nat} (h : i < 7) (v : BitVec 8) : (k.setRepair i v).repairByte i = v := by
  have inside : i < (padTo 0 7 k.repair).length := by simp [padTo]; omega
  simp only [Core.repairByte, Core.setRepair, List.getD_eq_getElem?_getD]
  rw [getElem?_updIdx_same, List.getElem?_eq_getElem inside]
  rfl

/-! ### Records -/

/-- An error record changes the log, and may freeze the device. -/
theorem State.logError_only (s : State) (typ : Nat) (who : Reporter) (payload : List Word) :
    s.logError typ who payload =
      { s with rel := (s.logError typ who payload).rel, sv := (s.logError typ who payload).sv } := by
  simp only [State.logError]; split <;> rfl

theorem State.logError_errNext (s : State) (typ : Nat) (who : Reporter) (payload : List Word) :
    (s.logError typ who payload).rel.errNext = s.rel.errNext + 1 := by
  simp only [State.logError]; split <;> rfl

theorem State.logError_die (s : State) (typ : Nat) (who : Reporter) (payload : List Word) :
    (s.logError typ who payload).rel.die = s.rel.die := by
  simp only [State.logError]; split <;> rfl

theorem State.logError_memKept (s : State) (typ : Nat) (who : Reporter) (payload : List Word) :
    MemKept s (s.logError typ who payload) := by
  rw [State.logError_only]; exact ⟨rfl, rfl, rfl, rfl, rfl, rfl⟩

@[simp] theorem State.logError_blocks (s : State) (typ : Nat) (who : Reporter) (payload : List Word) :
    (s.logError typ who payload).blocks = s.blocks := by rw [State.logError_only]
@[simp] theorem State.logError_issues (s : State) (typ : Nat) (who : Reporter) (payload : List Word) :
    (s.logError typ who payload).issues = s.issues := by rw [State.logError_only]
@[simp] theorem State.logError_cores (s : State) (typ : Nat) (who : Reporter) (payload : List Word) :
    (s.logError typ who payload).cores = s.cores := by rw [State.logError_only]

theorem State.addRepair_only (s : State) (kind : Nat) (w1 w2 : Word) :
    s.addRepair kind w1 w2 = { s with rel := { s.rel with repairs := (s.addRepair kind w1 w2).rel.repairs } } := by
  simp only [State.addRepair]; split <;> rfl

@[simp] theorem State.addRepair_blocks (s : State) (kind : Nat) (w1 w2 : Word) :
    (s.addRepair kind w1 w2).blocks = s.blocks := by rw [State.addRepair_only]
@[simp] theorem State.addRepair_issues (s : State) (kind : Nat) (w1 w2 : Word) :
    (s.addRepair kind w1 w2).issues = s.issues := by rw [State.addRepair_only]
@[simp] theorem State.addRepair_cores (s : State) (kind : Nat) (w1 w2 : Word) :
    (s.addRepair kind w1 w2).cores = s.cores := by rw [State.addRepair_only]
@[simp] theorem State.addRepair_errNext (s : State) (kind : Nat) (w1 w2 : Word) :
    (s.addRepair kind w1 w2).rel.errNext = s.rel.errNext := by rw [State.addRepair_only]

/-- A machine-check record is queued in its core and touches nothing else of it. -/
theorem Core.pushMchk_only (k : Core) (r : List Word) :
    k.pushMchk r = { k with mchk := (k.pushMchk r).mchk, mchkLast := (k.pushMchk r).mchkLast } := by
  simp only [Core.pushMchk]; split <;> rfl

theorem Core.pushMchk_id (k : Core) (r : List Word) : (k.pushMchk r).id = k.id := by rw [Core.pushMchk_only]
theorem Core.pushMchk_replay (k : Core) (r : List Word) : (k.pushMchk r).replay = k.replay := by rw [Core.pushMchk_only]
theorem Core.pushMchk_repair (k : Core) (r : List Word) : (k.pushMchk r).repair = k.repair := by rw [Core.pushMchk_only]

theorem State.machineCheck_blocks (s : State) (core : Nat) (r : List Word) : (s.machineCheck core r).blocks = s.blocks :=
  State.logError_blocks _ _ _ _
theorem State.machineCheck_issues (s : State) (core : Nat) (r : List Word) : (s.machineCheck core r).issues = s.issues :=
  State.logError_issues _ _ _ _
theorem State.machineCheck_errNext (s : State) (core : Nat) (r : List Word) :
    (s.machineCheck core r).rel.errNext = s.rel.errNext + 1 := State.logError_errNext _ _ _ _

theorem State.machineCheck_core (s : State) (core : Nat) (r : List Word) :
    (s.machineCheck core r).core core = (s.core core).pushMchk r :=
  (State.core_congr (State.logError_cores _ _ _ _) core).trans
    (State.core_updCore_same s core _ fun k => k.pushMchk_id r)

theorem ReplayKept.machineCheck (s : State) (core : Nat) (r : List Word) : ReplayKept s (s.machineCheck core r) :=
  (ReplayKept.updCore s core _ (fun k => k.pushMchk_id r) fun k => k.pushMchk_replay r).trans
    (ReplayKept.of_cores (State.logError_cores _ _ _ _))

/-- The spare of a part takes a place: the core's repair byte, the table and the records (R24, R26, R441, R443, R27). -/
def State.spareTakes (s : State) (core i : Nat) (v : Core → BitVec 8) (kind : Nat) (w : Word) (r : List Word) : State :=
  ((s.updCore core fun k => k.setRepair i (v k)).addRepair kind w 0).machineCheck core r

theorem State.spareTakes_blocks (s : State) (core i : Nat) (v : Core → BitVec 8) (kind : Nat) (w : Word) (r : List Word) :
    (s.spareTakes core i v kind w r).blocks = s.blocks := by
  simp [State.spareTakes, State.machineCheck_blocks]

theorem State.spareTakes_issues (s : State) (core i : Nat) (v : Core → BitVec 8) (kind : Nat) (w : Word) (r : List Word) :
    (s.spareTakes core i v kind w r).issues = s.issues := by
  simp [State.spareTakes, State.machineCheck_issues]

theorem State.spareTakes_errNext (s : State) (core i : Nat) (v : Core → BitVec 8) (kind : Nat) (w : Word) (r : List Word) :
    (s.spareTakes core i v kind w r).rel.errNext = s.rel.errNext + 1 := by
  simp [State.spareTakes, State.machineCheck_errNext]

theorem State.spareTakes_repairByte (s : State) (core : Nat) {i : Nat} (h : i < 7) (v : Core → BitVec 8) (kind : Nat) (w : Word)
    (r : List Word) : ((s.spareTakes core i v kind w r).core core).repairByte i = v (s.core core) := by
  rw [State.spareTakes, State.machineCheck_core, State.core_congr (State.addRepair_cores _ _ _ _),
    State.core_updCore_same s core (fun k => k.setRepair i (v k)) fun _ => rfl]
  simp only [Core.repairByte, Core.pushMchk_repair]
  exact Core.repairByte_setRepair _ h _

theorem ReplayKept.spareTakes (s : State) (core i : Nat) (v : Core → BitVec 8) (kind : Nat) (w : Word) (r : List Word) :
    ReplayKept s (s.spareTakes core i v kind w r) :=
  ((ReplayKept.updCore s core (fun k => k.setRepair i (v k)) (fun _ => rfl) fun _ => rfl).trans
    (ReplayKept.of_cores (State.addRepair_cores _ kind w 0))).trans (ReplayKept.machineCheck _ core r)

/-! ### Fences (R25, R26) -/

theorem State.discardPinned_cores (s : State) (core ctx : Nat) : (s.discardPinned core ctx).cores = s.cores := by
  simp only [State.discardPinned]; split <;> rfl

/-- What a core keeps of a block that leaves it: nothing (R250, R332). -/
def Core.forget (u : Nat) (k : Core) : Core :=
  { k with
    copies := k.copies.filter fun j => j.block != u
    owner := if k.owner == some u then none else k.owner
    history := k.history.map fun x => { x with
      blocks := x.blocks.filter (fun y => y.uid != u), copies := x.copies.filter fun j => j.block != u }
    lastWord := k.lastWord.filter fun e => e.block != u
    lastStream := k.lastStream.filter fun x => x.uid != u }

theorem State.removeBlock_cores {s : State} {u : Nat} {b : Block} (h : s.block? u = some b) :
    (s.removeBlock u).cores = (s.updCore b.core (Core.forget u)).cores := by
  simp only [State.removeBlock, h, State.discardPinned_cores]
  rfl

theorem ReplayKept.removeBlock (s : State) (u : Nat) : ReplayKept s (s.removeBlock u) := by
  cases h : s.block? u with
  | none => simp only [State.removeBlock, h]; exact fun _ => rfl
  | some b =>
    exact ReplayKept.trans (ReplayKept.updCore s b.core (Core.forget u) (fun _ => rfl) fun _ => rfl)
      (ReplayKept.of_cores (State.removeBlock_cores h))

theorem ReplayKept.resetBlock (s : State) (u : Nat) : ReplayKept s (s.resetBlock u) := by
  simp only [State.resetBlock]
  split
  · exact fun _ => rfl
  · split
    · exact (ReplayKept.removeBlock s _).trans (ReplayKept.of_cores rfl)
    · split
      · exact fun _ => rfl
      · exact ReplayKept.of_cores rfl

theorem ReplayKept.fenceSub (s : State) (core sub : Nat) : ReplayKept s (s.fenceSub core sub) := by
  refine ReplayKept.trans (ReplayKept.updCore s core (fun k => k.fence 2 sub) (fun _ => rfl) fun _ => rfl) ?_
  exact ReplayKept.foldl (f := fun s (b : Block) => s.resetBlock b.uid) (fun s b => ReplayKept.resetBlock s b.uid) _ _

theorem ReplayKept.fenceArray (s : State) (core : Nat) : ReplayKept s (s.fenceArray core) := by
  refine ReplayKept.trans (ReplayKept.updCore s core (fun k => k.fence 3 0) (fun _ => rfl) fun _ => rfl) ?_
  simp only [State.fenceArray]
  refine ReplayKept.foldl (fun s b => ?_) _ _
  exact ReplayKept.of_cores rfl

end Sys2Proof.Machine
end

