-- ==== Sys2Proof/Proofs/LaneFaults.lean ====
section
/-! PROOFS. Killed lanes (R161, R439), and the permanent fault of a lane at its sub-core's last word (R24, R25, R150). -/

namespace Sys2Proof.Machine

open Sys2Proof Sys2Proof.Claims

/-! ### Killing lanes of a wave -/

theorem Wave.mem_parts {w : Wave} {q : Nat × Part} (h : q ∈ w.parts) : w.part? q.1 = some q.2 := by
  obtain ⟨k, -, e⟩ := List.mem_filterMap.mp h
  obtain ⟨p, hp, rfl⟩ := Option.map_eq_some_iff.mp e
  exact hp

/-- An entry, freed if its mask is empty (R158). -/
def heldPart : Option Part → Option Part
  | some p => if p.mask == 0 then none else some p
  | none => none

theorem heldPart_some {o : Option Part} {p : Part} (h : heldPart o = some p) : o = some p := by
  cases o with
  | none => simp [heldPart] at h
  | some q =>
    simp only [heldPart] at h
    split at h
    · simp at h
    · exact h

/-- A wave whose entries of empty mask are free. -/
def Wave.cleared (w : Wave) : Wave := { w with splits := w.splits.map heldPart, deferred := heldPart w.deferred }

theorem Wave.part?_cleared (w : Wave) (k : Nat) : w.cleared.part? k = heldPart (w.part? k) := by
  simp only [Wave.part?]
  split
  · simp only [Wave.cleared, List.getD_eq_getElem?_getD, List.getElem?_map]
    cases w.splits[k]? <;> rfl
  · split <;> rfl

/-- Tidying frees entries, and ends a wave with no part left. -/
theorem Wave.tidy_cases (w : Wave) : w.tidy = { w.cleared with run := .exited } ∨ w.tidy = w.cleared := by
  have chosen : ∃ ended : Bool, w.tidy = if ended = true then { w.cleared with run := .exited } else w.cleared := ⟨_, rfl⟩
  obtain ⟨ended, e⟩ := chosen
  cases ended with
  | true => exact .inl e
  | false => exact .inr e

theorem Wave.part?_tidy (w : Wave) (k : Nat) : w.tidy.part? k = heldPart (w.part? k) := by
  rw [← Wave.part?_cleared]
  obtain e | e := w.tidy_cases
  · rw [e]; rfl
  · rw [e]

/-- What killing lanes leaves of a wave: its registers, its name and the lanes that have exited. -/
structure KillKept (a w : Wave) : Prop where
  idx : w.idx = a.idx
  v : w.v = a.v
  s : w.s = a.s
  p : w.p = a.p
  t : w.t = a.t
  flags : w.flags = a.flags
  step : w.step = a.step
  exitedLanes : w.exitedLanes = a.exitedLanes

theorem Wave.kill_kept (w : Wave) (m : Mask) : KillKept w (w.kill m) := by
  unfold Wave.kill
  obtain e | e := Wave.tidy_cases _ <;> (rw [e]; exact ⟨rfl, rfl, rfl, rfl, rfl, rfl, rfl, rfl⟩)

theorem Wave.kill_dead (w : Wave) (m : Mask) : (w.kill m).dead = w.dead ||| (m &&& ~~~w.exitedLanes) := by
  unfold Wave.kill
  obtain e | e := Wave.tidy_cases _ <;> (rw [e]; rfl)

theorem Wave.part?_mapParts (w : Wave) (f : Part → Part) (k : Nat) : (w.mapParts f).part? k = (w.part? k).map f := by
  simp only [Wave.part?]
  split
  · simp only [Wave.mapParts, List.getD_eq_getElem?_getD, List.getElem?_map]
    cases w.splits[k]? <;> rfl
  · split <;> rfl

/-- A killed lane that had not exited is in no part's mask (R161). -/
theorem Wave.kill_parts {w : Wave} {m : Mask} {lane : Nat} (hm : m.getLsbD lane = true) (he : w.exitedLanes.getLsbD lane = false) :
    ∀ q ∈ (w.kill m).parts, q.2.mask.getLsbD lane = false := by
  intro q hq
  have left := heldPart_some ((Wave.part?_tidy _ _).symm.trans (Wave.mem_parts hq))
  rw [Wave.part?_mapParts] at left
  obtain ⟨p, -, e⟩ := Option.map_eq_some_iff.mp left
  rw [← e]
  simp [hm, he]

theorem Wave.kill_dead_lane {w : Wave} {lane : Nat} (hl : lane < 32) (he : w.exitedLanes.getLsbD lane = false) :
    (w.kill ((1 : Mask) <<< lane)).dead.getLsbD lane = true := by
  have named : ((1 : Mask) <<< lane).getLsbD lane = true := by simp [hl]
  simp only [Wave.kill_dead, BitVec.getLsbD_or, BitVec.getLsbD_and, BitVec.getLsbD_not, named, he]
  simp [hl]

theorem State.wave?_killLanes {s : State} {u i : Nat} {b : Block} {w : Wave} (hb : s.block? u = some b)
    (hw : b.wave? i = some w) (m : Mask) : (s.killLanes u i m).wave? u i = some (w.kill m) := by
  have found : s.wave? u i = some w := by simp [State.wave?, hb, hw]
  have only : s.killLanes u i m = (s.updWave u i fun w => w.kill m).updLaunch b.launch fun l =>
      { l with killed := l.killed + popMask (w.newlyDead m) } := by
    simp only [State.killLanes, hb, found]
  rw [only]
  have idx : ∀ v : Wave, v.idx = i → (v.kill m).idx = i := fun v hv => (v.kill_kept m).idx.trans hv
  have hblock : (s.updWave u i fun w => w.kill m).block? u = some (b.updWave i fun w => w.kill m) := by
    rw [State.updWave, block?_updBlock_same s u (fun b => b.updWave i fun w => w.kill m) fun _ => rfl, hb]; rfl
  show ((s.updWave u i fun w => w.kill m).block? u).bind _ = _
  rw [hblock, Option.bind_some, wave?_updWave_same _ _ _ idx, hw, Option.map_some]

theorem State.killLanes_issues (s : State) (u i : Nat) (m : Mask) : (s.killLanes u i m).issues = s.issues := by
  simp only [State.killLanes]; split <;> rfl

theorem State.killLanes_cores (s : State) (u i : Nat) (m : Mask) : (s.killLanes u i m).cores = s.cores := by
  simp only [State.killLanes]; split <;> rfl

/-! ### The last word's effects taken back (R24) -/

/-- A block of whose wave the word is taken back: what it wrote to shared storage, its copies, and the wave (R24). -/
def LastWord.restored (x : LastWord) (own : Option Snapshot) (copies : List Nat) (b : Block) : Block :=
  let byWord {α : Type} (l : List (Nat × α)) : List (Nat × α) := l.filter fun e => e.1 == x.cycle
  let b1 := (match own with
    | some y => b.undo (byWord y.undoB) (byWord y.undoW) (byWord y.undoC)
    | none => b).updWave x.wave fun _ => x.before.keepDead b
  { b1 with tokens := b1.tokens.map fun e => (e.1, { e.2 with outst := e.2.outst.filter fun n => !copies.contains n }) }

theorem LastWord.restored_uid (x : LastWord) (own : Option Snapshot) (copies : List Nat) (b : Block) :
    (x.restored own copies b).uid = b.uid := by
  cases own <;> rfl

theorem Wave.keepDead_kept (b : Block) (w : Wave) : KillKept w (w.keepDead b) := by
  simp only [Wave.keepDead]
  split
  · exact w.kill_kept _
  · exact ⟨rfl, rfl, rfl, rfl, rfl, rfl, rfl, rfl⟩

theorem LastWord.wave?_restored {x : LastWord} {b : Block} {w : Wave} (hw : b.wave? x.wave = some w) (hi : x.before.idx = x.wave)
    (own : Option Snapshot) (copies : List Nat) : (x.restored own copies b).wave? x.wave = some (x.before.keepDead b) := by
  have put (c : Block) (hc : c.waves = b.waves) : (c.updWave x.wave fun _ => x.before.keepDead b).wave? x.wave =
      some (x.before.keepDead b) := by
    have found : c.wave? x.wave = some w := by rw [← hw, Block.wave?, Block.wave?, hc]
    rw [wave?_updWave_same c x.wave _ fun _ _ => (Wave.keepDead_kept b x.before).idx.trans hi, found]
    rfl
  cases own with
  | none => exact put b rfl
  | some y => exact put (b.undo _ _ _) rfl

/-- The start of the clause whose word is taken back. -/
def LastWord.startedAt (x : LastWord) (y : Snapshot) : Bool := y.block == x.block && y.wave == x.wave && y.atStart && match y.last with
  | none => true
  | some e => e == x.cycle

/-- The copies that the word has put under way. -/
def LastWord.copies (x : LastWord) (k : Core) : List Nat :=
  (k.copies.filter fun j => j.block == x.block && j.wave == x.wave && j.issued == x.cycle).map fun j => j.seq

/-- A core without the copies that the word has put under way. -/
def LastWord.dropCopies (x : LastWord) (before k : Core) : Core :=
  { k with copies := k.copies.filter fun j => !(x.copies before).contains j.seq }

/-- A core without what it remembers of the word. -/
def LastWord.unremembered (x : LastWord) (k : Core) : Core :=
  let rest {α : Type} (l : List (Nat × α)) : List (Nat × α) := l.filter fun e => e.1 != x.cycle
  { k with history := (k.history.filter fun y => !(y.cycle == x.cycle && y.block == x.block && y.wave == x.wave &&
      !y.atStart && !y.floor)).map fun y =>
        if x.startedAt y then { y with last := none, undoB := rest y.undoB, undoW := rest y.undoW, undoC := rest y.undoC } else y }

theorem State.takeBack_blocks (s : State) (x : LastWord) : (s.takeBack x).blocks =
    (s.updBlock x.block (x.restored ((s.core x.issue.core).history.find? x.startedAt) (x.copies (s.core x.issue.core)))).blocks :=
  rfl

theorem State.takeBack_issues (s : State) (x : LastWord) : x.issue ∈ (s.takeBack x).issues := List.mem_cons_self

theorem State.takeBack_cores (s : State) (x : LastWord) : (s.takeBack x).cores =
    ((s.updCore x.issue.core (x.dropCopies (s.core x.issue.core))).updCore x.issue.core x.unremembered).cores := rfl

theorem ReplayKept.takeBack (s : State) (x : LastWord) : ReplayKept s (s.takeBack x) :=
  ((ReplayKept.updCore s x.issue.core (x.dropCopies (s.core x.issue.core)) (fun _ => rfl) fun _ => rfl).trans
    (ReplayKept.updCore _ x.issue.core x.unremembered (fun _ => rfl) fun _ => rfl)).trans
    (ReplayKept.of_cores (State.takeBack_cores s x))

/-- The wave of a word that is taken back (R24, R439). -/
theorem State.wave?_takeBack {s : State} {x : LastWord} {b : Block} {w : Wave} (hb : s.block? x.block = some b)
    (hw : b.wave? x.wave = some w) (hi : x.before.idx = x.wave) :
    ∃ c, (s.takeBack x).block? x.block = some c ∧ c.wave? x.wave = some (x.before.keepDead b) := by
  refine ⟨_, ?_, LastWord.wave?_restored hw hi ((s.core x.issue.core).history.find? x.startedAt) (x.copies (s.core x.issue.core))⟩
  rw [State.block?_congr (State.takeBack_blocks s x), block?_updBlock_same s x.block _ (LastWord.restored_uid x _ _), hb]
  rfl

/-! ### The lane's own result put back (R150) -/

/-- Lane `lane` of the listed registers as it is in `old`. -/
def laneFrom (old : Words) (lane : Nat) (ns : List Nat) (v : Words) : Words :=
  ns.foldl (fun v n => setAt 0 v (32 * n + lane) (getAt 0 old (32 * n + lane))) v

theorem vLane_laneFrom (old : Words) {lane l : Nat} (hlane : lane < 32) (hl : l < 32) (q : Nat) (ns : List Nat) (v : Words) :
    vLane (laneFrom old lane ns v) q l = if l = lane ∧ q ∈ ns then vLane old q l else vLane v q l := by
  induction ns generalizing v with
  | nil => simp [laneFrom]
  | cons n ns ih =>
    rw [show laneFrom old lane (n :: ns) v = laneFrom old lane ns (setAt 0 v (32 * n + lane) (getAt 0 old (32 * n + lane))) from rfl, ih]
    by_cases later : l = lane ∧ q ∈ ns
    · simp [later]
    · rw [if_neg later]
      simp only [vLane, getAt_setAt]
      by_cases here : l = lane ∧ q = n
      · obtain ⟨rfl, rfl⟩ := here
        simp
      · have apart : 32 * q + l ≠ 32 * n + lane := by omega
        have out : ¬ (l = lane ∧ q ∈ n :: ns) := fun ⟨same, listed⟩ =>
          (List.mem_cons.mp listed).elim (fun first => here ⟨same, first⟩) fun rest => later ⟨same, rest⟩
        rw [if_neg apart, if_neg out]

/-- The wave of a fragment word with a lane's own result put back (R150). -/
def LastWord.putBack (x : LastWord) (wd : Word) (lane : Nat) (w : Wave) : Wave :=
  { w with
    flags := x.before.flags ||| (x.laneFlags.zipIdx.filter fun e => e.2 != lane).foldl (fun f e => f ||| e.1) (0 : BitVec 6)
    v := laneFrom x.before.v lane (List.range' (wd.extractLsb' 17 8).toNat 8) w.v }

/-! ### The lane's permanent fault (R24, R25) -/

/-- The word last issued on a sub-core, as it is fetched again. -/
def State.lastFetched (s : State) (x : LastWord) (ctx : Nat) : Word :=
  match s.fetch32 x.issue.core ctx (x.issue.pc + BitVec.ofNat 64 (4 * x.issue.k)) with
  | .ok w => w
  | _ => 0

/-- The word's effects taken back, put back, or left, as R24, R150 and R129 have it for the word. -/
def State.redone (s : State) (x : LastWord) (lane : Nat) (wd : Word) : State :=
  match redoOf wd with
  | .again => s.takeBack x
  | .keep => s.updWave x.block x.wave (x.putBack wd lane)
  | .kill => s

/-- The state before the block settles: the faulty lane is killed. -/
def State.laneKilled (s : State) (x : LastWord) (lane : Nat) (wd : Word) : State :=
  (s.redone x lane wd).killLanes x.block x.wave ((1 : Mask) <<< lane)

/-- The record of a lane's permanent fault. -/
def laneRecord (x : LastWord) (b : Block) (wd : Word) (lane phys op action : Nat) : List Word :=
  mchkRecord (if floatResult wd then 1 else 0) x.sub phys lane op x.before.slot action
    (x.issue.pc + BitVec.ofNat 64 (4 * x.issue.k)) b.ctx b.index

theorem State.laneFault_unspared {s : State} {x : LastWord} (b : Block) (lane phys op : Nat)
    (h : spared ((s.core x.issue.core).repairByte x.sub) = false) :
    s.laneFault x b lane phys op = ((s.laneKilled x lane (s.lastFetched x b.ctx)).settle x.block).spareTakes x.issue.core x.sub
      (fun _ => spareByte ((s.core x.issue.core).repairByte x.sub) phys) 1 (repairWord1 x.issue.core x.sub phys)
      (laneRecord x b (s.lastFetched x b.ctx) lane phys op 0) := by
  simp only [State.laneFault, h]
  rfl

theorem State.laneFault_spared {s : State} {x : LastWord} (b : Block) (lane phys op : Nat)
    (h : spared ((s.core x.issue.core).repairByte x.sub) = true) :
    s.laneFault x b lane phys op = (((s.laneKilled x lane (s.lastFetched x b.ctx)).settle x.block).spareTakes x.issue.core x.sub
      (fun _ => (s.core x.issue.core).repairByte x.sub ||| 0x80) 3 (repairWord1 x.issue.core x.sub 0)
      (laneRecord x b (s.lastFetched x b.ctx) lane phys op 1)).fenceSub x.issue.core x.sub := by
  simp only [State.laneFault, h]
  rfl

theorem ReplayKept.laneKilled (s : State) (x : LastWord) (lane : Nat) (wd : Word) : ReplayKept s (s.laneKilled x lane wd) := by
  refine ReplayKept.trans (t := s.redone x lane wd) ?_ (ReplayKept.of_cores (State.killLanes_cores _ _ _ _))
  simp only [State.redone]
  split
  · exact ReplayKept.takeBack s x
  · exact ReplayKept.of_cores rfl
  · exact fun _ => rfl

theorem State.settle_cores (s : State) (u : Nat) : (s.settle u).cores = s.cores := by rw [State.settle_only s u]

theorem ReplayKept.laneFault (s : State) (x : LastWord) (b : Block) (lane phys op : Nat) :
    ReplayKept s (s.laneFault x b lane phys op) := by
  have settled : ReplayKept s ((s.laneKilled x lane (s.lastFetched x b.ctx)).settle x.block) :=
    (ReplayKept.laneKilled s x lane _).trans (ReplayKept.of_cores (State.settle_cores _ _))
  cases h : spared ((s.core x.issue.core).repairByte x.sub) with
  | false =>
    rw [State.laneFault_unspared b lane phys op h]
    exact settled.trans (ReplayKept.spareTakes _ _ _ _ _ _ _)
  | true =>
    rw [State.laneFault_spared b lane phys op h]
    exact (settled.trans (ReplayKept.spareTakes _ _ _ _ _ _ _)).trans (ReplayKept.fenceSub _ _ _)

/-- What the redoing of a word leaves of its wave: as before the word, with the lane's own result put back, or as it is. -/
theorem State.redone_wave {s : State} {x : LastWord} {b : Block} {w : Wave} (lane : Nat) (wd : Word)
    (hb : s.block? x.block = some b) (hw : b.wave? x.wave = some w) (hi : x.before.idx = x.wave) :
    ∃ c n, (s.redone x lane wd).block? x.block = some c ∧ c.wave? x.wave = some n ∧
      (redoOf wd = .again → KillKept x.before n) ∧ (redoOf wd = .keep → n = x.putBack wd lane w) ∧ (redoOf wd = .kill → n = w) := by
  simp only [State.redone]
  split
  next e =>
    obtain ⟨c, hc, hn⟩ := State.wave?_takeBack hb hw hi
    exact ⟨c, _, hc, hn, fun _ => Wave.keepDead_kept b x.before, fun k => by simp [e] at k, fun k => by simp [e] at k⟩
  next e =>
    refine ⟨b.updWave x.wave (x.putBack wd lane), _, ?_, ?_, fun k => ?_, fun _ => rfl, fun k => ?_⟩
    · rw [State.updWave, block?_updBlock_same s x.block (fun b => b.updWave x.wave (x.putBack wd lane)) fun _ => rfl, hb]; rfl
    · rw [wave?_updWave_same b x.wave (x.putBack wd lane) fun _ h => h, hw]; rfl
    · simp [e] at k
    · simp [e] at k
  next e => exact ⟨b, w, hb, hw, fun k => by simp [e] at k, fun k => by simp [e] at k, fun _ => rfl⟩

end Sys2Proof.Machine
end

