-- ==== Sys2Proof/Proofs/Rollback.lean ====
section
/-! PROOFS. The strike rollback (R19, R20, R439, log 8): which blocks go back, and to what. -/

namespace Sys2Proof.Machine

open Sys2Proof Sys2Proof.Claims

/-! ### The state between the two halves of a rollback -/

/-- Blocks of a core that go back to before their start. -/
def State.unstarted (s : State) (core t0 : Nat) : List Block := s.blocks.filter fun b => b.core == core && b.unstarts t0

/-- Is the context of a block one that starts blocks (R338)? -/
def State.startsAgain (s : State) (b : Block) : Bool := (s.ctx? b.ctx).any fun x => x.phase == .active

/-- Blocks that had not started have left: those whose context starts none have gone back to their launches. -/
def State.dropUnstarted (s : State) (core t0 : Nat) : State :=
  ((s.unstarted core t0).filter fun b => !s.startsAgain b).foldl
    (fun s b => s.updLaunch b.launch fun l => { l with returned := l.returned ++ [b.index] })
    { s with blocks := s.blocks.filter fun b => !(b.core == core && b.unstarts t0) }

/-- Blocks of a core that stay through a rollback to `t0`. -/
def State.staying (s : State) (core t0 : Nat) : List Block := (s.dropUnstarted core t0).blocks.filter fun b => b.core == core

/-- A block after the rollback, before it settles. -/
def State.rolledBlock (s : State) (core t0 : Nat) (b : Block) : Block :=
  let k := s.core core
  let upTo (t : Nat) : Nat := s.since core t - s.since core t0
  if b.core == core then
    match k.baseOf t0 b.uid with
    | none => b
    | some x => match x.blocks.find? fun y => y.uid == b.uid with
      | some old => k.restoreBlock t0 (fun w => w.resumedAt t0 s.now (s.since core t0) upTo) (s.now - t0) b x old
      | none => b
  else b

/-- The state with its blocks put back, before they settle. -/
def State.putBack (s0 : State) (core t0 : Nat) : State :=
  let s := s0.dropUnstarted core t0
  { s with
    issues := s.issues.filter fun i => i.core != core
    blocks := s.blocks.map (s.rolledBlock core t0) }

/-- The state after the blocks that stay have settled. -/
def State.rolled (s : State) (core t0 : Nat) : State :=
  (s.staying core t0).foldl (fun z b => z.settle b.uid) (s.putBack core t0)

/-- A core's engine, copies and checkpoints after a rollback. -/
structure RolledCore (s : State) (core t0 : Nat) (f : Core → Core) : Prop where
  id : ∀ k, (f k).id = k.id
  strike : ∀ k, (f k).strike = k.strike
  pending : ∀ k, (f k).pending = (((s.unstarted core t0).filter s.startsAgain).map fun b => (b.launch, b.index)) ++
    ((s.dropUnstarted core t0).core core).pending

theorem State.rollback_eq (s : State) (core t0 : Nat) : ∃ f, s.rollback core t0 =
    ((s.rolled core t0).updCore core f).withdraw core
      ((s.unstarted core t0).map fun b => b.uid) ∧ RolledCore s core t0 f := by
  refine ⟨?f, ?eq, ?kept⟩
  case eq => exact rfl
  case kept => exact ⟨fun _ => rfl, fun _ => rfl, fun _ => rfl⟩

/-! ### What the first half leaves -/

theorem foldl_updLaunch_only {α : Type} (u : α → Nat) (f : α → Launch → Launch) (l : List α) (s : State) :
    l.foldl (fun s b => s.updLaunch (u b) (f b)) s =
      { s with launches := (l.foldl (fun s b => s.updLaunch (u b) (f b)) s).launches } := by
  induction l generalizing s with
  | nil => rfl
  | cons b l ih => rw [List.foldl_cons, ih]; rfl

theorem State.dropUnstarted_only (s : State) (core t0 : Nat) : s.dropUnstarted core t0 = { s with
    blocks := s.blocks.filter fun b => !(b.core == core && b.unstarts t0), launches := (s.dropUnstarted core t0).launches } := by
  have launches := foldl_updLaunch_only (fun b : Block => b.launch) (fun b l => { l with returned := l.returned ++ [b.index] })
    ((s.unstarted core t0).filter fun b => !s.startsAgain b)
    { s with blocks := s.blocks.filter fun b => !(b.core == core && b.unstarts t0) }
  exact launches

theorem State.dropUnstarted_blocks (s : State) (core t0 : Nat) : (s.dropUnstarted core t0).blocks =
    s.blocks.filter fun b => !(b.core == core && b.unstarts t0) := by rw [State.dropUnstarted_only]

theorem State.dropUnstarted_core (s : State) (core t0 c : Nat) : (s.dropUnstarted core t0).core c = s.core c :=
  State.core_congr (by rw [State.dropUnstarted_only]) c

theorem State.staying_eq (s : State) (core t0 : Nat) :
    s.staying core t0 = s.blocks.filter fun b => b.core == core && !b.unstarts t0 := by
  rw [State.staying, State.dropUnstarted_blocks, List.filter_filter]
  congr 1
  funext b
  cases b.core == core <;> simp

theorem State.rolled_only (s : State) (core t0 : Nat) : BlocksOnly (s.putBack core t0) (s.rolled core t0) :=
  BlocksOnly.foldl (f := fun z (b : Block) => z.settle b.uid) (fun z b => z.settle_only b.uid) _ _

/-- What of the state a rollback's blocks do not change. -/
theorem State.rolled_frame (s : State) (core t0 : Nat) : (s.rolled core t0).cores = s.cores ∧
    (s.rolled core t0).issues = s.issues.filter (fun i => i.core != core) ∧ MemKept s (s.rolled core t0) ∧
    (s.rolled core t0).rel = s.rel := by
  rw [State.rolled_only, State.putBack, State.dropUnstarted_only]
  exact ⟨rfl, rfl, ⟨rfl, rfl, rfl, rfl, rfl, rfl⟩, rfl⟩

/-! ### A block put back (R19, R20) -/

/-- The clause starts of a block's waves that were in the middle of a clause at a checkpoint. -/
def Core.midClauses (k : Core) (base : Snapshot) (u : Nat) (old : Block) : List Snapshot :=
  old.waves.filterMap fun w => k.midClause base u w.idx

/-- A wave as it goes on: as at its clause's start, or as at the checkpoint. -/
def Core.clauseStart (k : Core) (base : Snapshot) (u : Nat) (old : Block) (w : Wave) : Wave :=
  match ((k.midClauses base u old).find? fun x => x.wave == w.idx).bind fun x =>
    (x.blocks.find? fun b => b.uid == u).bind fun b => b.wave? w.idx with
  | some v => v
  | none => w

theorem Core.clauseStart_idx (k : Core) (base : Snapshot) (u : Nat) (old : Block) (w : Wave) :
    (k.clauseStart base u old w).idx = w.idx := by
  simp only [Core.clauseStart]
  split
  next v e =>
    obtain ⟨m, -, e⟩ := Option.bind_eq_some_iff.mp e
    obtain ⟨z, -, found⟩ := Option.bind_eq_some_iff.mp e
    exact Block.wave?_idx found
  · rfl

theorem Core.midClause_wave {k : Core} {base m : Snapshot} {u i : Nat} (h : k.midClause base u i = some m) : m.wave = i := by
  have named := List.find?_some h
  simp only [Bool.and_eq_true, beq_iff_eq] at named
  exact named.1.1.2

/-- The clause starts are found by their wave. -/
theorem Core.find?_midClauses {k : Core} {base : Snapshot} {u : Nat} {old : Block} {w : Wave} (hw : w ∈ old.waves) :
    ((k.midClauses base u old).find? fun x => x.wave == w.idx) = k.midClause base u w.idx := by
  cases h : k.midClause base u w.idx with
  | none =>
    refine List.find?_eq_none.mpr fun x hx named => ?_
    obtain ⟨v, -, e⟩ := List.mem_filterMap.mp hx
    have same : v.idx = w.idx := (Core.midClause_wave e).symm.trans (by simpa using named)
    rw [same, h] at e
    simp at e
  | some m =>
    have present : m ∈ k.midClauses base u old := List.mem_filterMap.mpr ⟨w, hw, h⟩
    have found : ((k.midClauses base u old).find? fun x => x.wave == w.idx).isSome = true :=
      List.find?_isSome.mpr ⟨m, present, by simpa using Core.midClause_wave h⟩
    obtain ⟨x, hx⟩ := Option.isSome_iff_exists.mp found
    obtain ⟨v, -, e⟩ := List.mem_filterMap.mp (List.mem_of_find?_eq_some hx)
    have named := List.find?_some hx
    have same : v.idx = w.idx := (Core.midClause_wave e).symm.trans (by simpa using named)
    rw [hx, ← h, ← e, same]

theorem Core.clauseStart_of_none {k : Core} {base : Snapshot} {u : Nat} {old : Block} {w : Wave} (hw : w ∈ old.waves)
    (h : k.midClause base u w.idx = none) : k.clauseStart base u old w = w := by
  simp [Core.clauseStart, Core.find?_midClauses hw, h]

theorem Core.clauseStart_of_mid {k : Core} {base m : Snapshot} {u : Nat} {old z : Block} {w v : Wave} (hw : w ∈ old.waves)
    (h : k.midClause base u w.idx = some m) (hz : m.blocks.find? (fun z => z.uid == u) = some z) (hv : z.wave? w.idx = some v) :
    k.clauseStart base u old w = v := by
  simp [Core.clauseStart, Core.find?_midClauses hw, h, hz, hv]

theorem find?_map_of_keeps {α : Type} (p : α → Bool) (f : α → α) (h : ∀ a, p (f a) = p a) (l : List α) :
    (l.map f).find? p = (l.find? p).map f := by
  rw [List.find?_map, show p ∘ f = p from funext h]

section
variable (k : Core) (t0 : Nat) (resumed : Wave → Wave) (later : Nat) (now : Block) (base : Snapshot) (old : Block)

theorem Core.restoreBlock_uid : (k.restoreBlock t0 resumed later now base old).uid = old.uid := rfl
theorem Core.restoreBlock_tiles : (k.restoreBlock t0 resumed later now base old).tiles = old.tiles := rfl
theorem Core.restoreBlock_waves : (k.restoreBlock t0 resumed later now base old).waves =
    old.waves.map fun w => resumed ((k.clauseStart base now.uid old w).keepDead now) := rfl

/-- With no wave in the middle of a clause the shared storage is the checkpoint's. -/
theorem Core.restoreBlock_storage (h : ∀ w ∈ old.waves, k.midClause base now.uid w.idx = none) :
    (k.restoreBlock t0 resumed later now base old).bmem = old.bmem ∧
      (k.restoreBlock t0 resumed later now base old).win = old.win := by
  have none : (old.waves.filterMap fun w => k.midClause base now.uid w.idx) = [] :=
    List.filterMap_eq_nil_iff.mpr h
  simp only [Core.restoreBlock, none]
  exact ⟨rfl, rfl⟩

theorem Core.restoreBlock_wave? (hr : ∀ w, (resumed w).idx = w.idx) (i : Nat) :
    (k.restoreBlock t0 resumed later now base old).wave? i =
      (old.wave? i).map fun w => resumed ((k.clauseStart base now.uid old w).keepDead now) := by
  rw [Block.wave?, Core.restoreBlock_waves, find?_map_of_keeps, Block.wave?]
  intro w
  rw [hr, (Wave.keepDead_kept now _).idx, Core.clauseStart_idx]

end

/-! ### Which blocks a rollback leaves -/

theorem State.rolledBlock_uid (s : State) (core t0 : Nat) (b : Block) : (s.rolledBlock core t0 b).uid = b.uid := by
  simp only [State.rolledBlock]
  split
  · split
    · rfl
    · split
      next old found =>
        rw [Core.restoreBlock_uid]
        simpa using List.find?_some found
      · rfl
  · rfl

theorem find?_filter_of_pos {α : Type} {p q : α → Bool} {l : List α} {b : α} (h : l.find? q = some b) (hb : p b = true) :
    (l.filter p).find? q = some b := by
  obtain ⟨hq, as, bs, rfl, before⟩ := List.find?_eq_some_iff_append.mp h
  rw [List.filter_append, List.filter_cons_of_pos hb]
  exact List.find?_eq_some_iff_append.mpr ⟨hq, _, _, rfl, fun a ha => before a (List.mem_filter.mp ha |>.1)⟩

theorem State.putBack_block? {s : State} {core t0 u : Nat} {b : Block} (hb : s.block? u = some b)
    (stays : (b.core == core && b.unstarts t0) = false) :
    (s.putBack core t0).block? u = some ((s.dropUnstarted core t0).rolledBlock core t0 b) := by
  show ((s.dropUnstarted core t0).blocks.map ((s.dropUnstarted core t0).rolledBlock core t0)).find? (fun b => b.uid == u) = _
  rw [find?_map_of_keeps _ _ fun b => by rw [State.rolledBlock_uid], State.dropUnstarted_blocks,
    find?_filter_of_pos hb (by simp [stays])]
  rfl

theorem State.rolledBlock_other (s : State) {core t0 : Nat} {b : Block} (h : b.core ≠ core) : s.rolledBlock core t0 b = b := by
  simp [State.rolledBlock, h]

end Sys2Proof.Machine
end

