-- ==== Sys2Proof/Proofs/Strikes.lean ====
section
/-! PROOFS. Strikes, residues and the column remap (O42), clause by clause. -/

namespace Sys2Proof.Machine

open Sys2Proof Sys2Proof.Claims

/-! ### STRIKE_ROLLBACK (R19, R20, R22, R439) -/

/-- The state after the rollback, before its record. -/
def State.struck (s : State) (core : Nat) : State :=
  (s.rollback core (s.windowStart core)).updCore core fun k => { k with strike := satInc k.strike }

theorem exec_strikeRollback (core : Nat) (s : State) : ∃ payload,
    exec (.strikeRollback core) s = .next ((s.struck core).logError 2 (.core core) payload) := ⟨_, rfl⟩

theorem State.struck_blocks (s : State) (core : Nat) : (s.struck core).blocks = (s.rolled core (s.windowStart core)).blocks := by
  obtain ⟨f, eq, -⟩ := s.rollback_eq core (s.windowStart core)
  rw [State.struck, eq]
  rfl

theorem State.withdraw_memKept (s : State) (core : Nat) (gone : List Nat) : MemKept s (s.withdraw core gone) :=
  ⟨rfl, rfl, rfl, rfl, rfl, rfl⟩

@[simp] theorem State.withdraw_issues (s : State) (core : Nat) (gone : List Nat) : (s.withdraw core gone).issues = s.issues := rfl
@[simp] theorem State.withdraw_rel (s : State) (core : Nat) (gone : List Nat) : (s.withdraw core gone).rel = s.rel := rfl

theorem State.updCore_memKept (s : State) (core : Nat) (f : Core → Core) : MemKept s (s.updCore core f) :=
  ⟨rfl, rfl, rfl, rfl, rfl, rfl⟩

theorem State.struck_frame (s : State) (core : Nat) :
    (s.struck core).issues = s.issues.filter (fun i => i.core != core) ∧ MemKept s (s.struck core) ∧
    (s.struck core).rel = s.rel := by
  obtain ⟨f, eq, -⟩ := s.rollback_eq core (s.windowStart core)
  obtain ⟨-, issues, mem, rel⟩ := s.rolled_frame core (s.windowStart core)
  rw [State.struck, eq]
  refine ⟨by simp only [State.updCore_issues, State.withdraw_issues, issues], ?_,
    by simp only [State.updCore_rel, State.withdraw_rel, rel]⟩
  exact ((mem.trans (State.updCore_memKept _ core f)).trans (State.withdraw_memKept _ core _)).trans
    (State.updCore_memKept _ core _)

/-- The core counts the report, and the blocks that had not started are pending again (R19, R440). -/
theorem State.struck_core (s : State) (core : Nat) : ((s.struck core).core core).strike = satInc (s.core core).strike ∧
    ((s.struck core).core core).pending =
      (((s.unstarted core (s.windowStart core)).filter s.startsAgain).map fun b => (b.launch, b.index)) ++ (s.core core).pending := by
  obtain ⟨f, eq, kept⟩ := s.rollback_eq core (s.windowStart core)
  obtain ⟨cores, -, -, -⟩ := s.rolled_frame core (s.windowStart core)
  have rolledCore : (s.rollback core (s.windowStart core)).core core = f (s.core core) := by
    rw [eq]
    exact (State.core_updCore_same (s.rolled core (s.windowStart core)) core f kept.id).trans
      (by rw [State.core_congr cores])
  rw [State.struck, State.core_updCore_same _ core (fun k => { k with strike := satInc k.strike }) fun _ => rfl, rolledCore]
  exact ⟨by rw [kept.strike], by rw [kept.pending, State.dropUnstarted_core]⟩

theorem strikeRollback_spec (core : Nat) (s : State) : ∃ t, exec (.strikeRollback core) s = .next t ∧
    (t.core core).strike = satInc (s.core core).strike ∧
    (∀ i ∈ t.issues, i.core ≠ core) ∧ MemKept s t ∧ t.rel.errNext = s.rel.errNext + 1 ∧
    (∀ u b, s.block? u = some b → b.core ≠ core → (∀ x ∈ s.blocks, x.uid = u → x = b) → t.block? u = some b) ∧
    (∀ b ∈ s.blocks, b.core = core → b.unstarts (s.windowStart core) = true → (∃ x, s.ctx? b.ctx = some x ∧ x.phase = .active) →
      (b.launch, b.index) ∈ (t.core core).pending) := by
  obtain ⟨payload, e⟩ := exec_strikeRollback core s
  obtain ⟨issues, mem, rel⟩ := s.struck_frame core
  obtain ⟨strike, pending⟩ := s.struck_core core
  refine ⟨_, e, ?_, ?_, mem.trans (State.logError_memKept _ _ _ _), ?_, fun u b hb other unique => ?_,
    fun b hb hc unstarts active => ?_⟩
  · rw [State.core_congr (State.logError_cores _ _ _ _), strike]
  · rw [State.logError_issues, issues]
    exact fun i hi => by simpa using (List.mem_filter.mp hi).2
  · rw [State.logError_errNext, rel]
  · rw [State.block?_congr ((State.logError_blocks _ _ _ _).trans (s.struck_blocks core)), State.rolled,
      State.settles_block?_other _ _ fun z hz => ?_,
      State.putBack_block? hb (by simp [other]), State.rolledBlock_other _ other]
    rw [State.staying_eq] at hz
    obtain ⟨present, here⟩ := List.mem_filter.mp hz
    intro same
    rw [unique z present same] at here
    simp [other] at here
  · rw [State.core_congr (State.logError_cores _ _ _ _), pending]
    obtain ⟨x, hx, phase⟩ := active
    refine List.mem_append_left _ (List.mem_map_of_mem (f := fun b : Block => (b.launch, b.index)) (List.mem_filter.mpr ⟨?_, ?_⟩))
    · exact List.mem_filter.mpr ⟨hb, by simp [hc, unstarts]⟩
    · simp [State.startsAgain, hx, phase]

/-- What a wave keeps as it goes on from the rollback (R12, R19). -/
theorem Wave.resumedAt_kept (w : Wave) (t0 now cycles : Nat) (upTo : Nat → Nat) : KillKept w (w.resumedAt t0 now cycles upTo) :=
  ⟨rfl, rfl, rfl, rfl, rfl, rfl, rfl, rfl⟩

theorem KillKept.trans {a b c : Wave} (h : KillKept a b) (k : KillKept b c) : KillKept a c :=
  ⟨k.idx.trans h.idx, k.v.trans h.v, k.s.trans h.s, k.p.trans h.p, k.t.trans h.t, k.flags.trans h.flags, k.step.trans h.step,
    k.exitedLanes.trans h.exitedLanes⟩

theorem Wave.keepDead_dead {b : Block} {w v : Wave} (h : b.wave? w.idx = some v) :
    (w.keepDead b).dead = w.dead ||| (v.dead &&& ~~~w.exitedLanes) := by
  simp only [Wave.keepDead, h, Wave.kill_dead]

/-- A block that stays through the rollback and has a checkpoint is restored to it. -/
theorem State.putBack_restored {s : State} {core t0 u : Nat} {b old : Block} {x : Snapshot} (hb : s.block? u = some b)
    (hc : b.core = core) (hu : b.unstarts t0 = false) (hx : (s.core core).baseOf t0 u = some x)
    (hold : x.blocks.find? (fun z => z.uid == u) = some old) : ∃ resumed later, (∀ w, KillKept w (resumed w)) ∧
      (∀ w, (resumed w).dead = w.dead) ∧
      (s.putBack core t0).block? u = some ((s.core core).restoreBlock t0 resumed later b x old) := by
  have name := State.block?_uid hb
  rw [← name] at hx hold
  refine ⟨fun w => w.resumedAt t0 (s.dropUnstarted core t0).now ((s.dropUnstarted core t0).since core t0)
      fun t => (s.dropUnstarted core t0).since core t - (s.dropUnstarted core t0).since core t0,
    (s.dropUnstarted core t0).now - t0, fun w => w.resumedAt_kept _ _ _ _, fun _ => rfl, ?_⟩
  rw [State.putBack_block? hb (by simp [hu])]
  simp only [State.rolledBlock, hc, State.dropUnstarted_core, hx, hold, BEq.rfl, if_true]

theorem strikeRollback_blocks (core : Nat) (s : State) : ∃ t y, exec (.strikeRollback core) s = .next t ∧
    t.blocks = ((s.blocks.filter fun b => b.core == core && !b.unstarts (s.windowStart core)).foldl
      (fun (z : State) b => z.settle b.uid) y).blocks ∧
    ∀ u b x old, s.block? u = some b → b.core = core → b.unstarts (s.windowStart core) = false →
      (s.core core).baseOf (s.windowStart core) u = some x → x.blocks.find? (fun z => z.uid == u) = some old →
      ∃ n, y.block? u = some n ∧ n.tiles = old.tiles ∧
        ((∀ w ∈ old.waves, (s.core core).midClause x u w.idx = none) → n.bmem = old.bmem ∧ n.win = old.win) ∧
        ∀ i v, ((s.core core).midClause x u i = none ∧ old.wave? i = some v) ∨ (∃ m z, (s.core core).midClause x u i = some m ∧
            m.blocks.find? (fun z => z.uid == u) = some z ∧ z.wave? i = some v ∧ (old.wave? i).isSome = true) →
          ∃ w, n.wave? i = some w ∧ w.v = v.v ∧ w.s = v.s ∧ w.p = v.p ∧ w.t = v.t ∧ w.flags = v.flags ∧ w.step = v.step ∧
            ∀ now, b.wave? i = some now → w.dead = v.dead ||| (now.dead &&& ~~~v.exitedLanes) := by
  obtain ⟨payload, e⟩ := exec_strikeRollback core s
  refine ⟨_, s.putBack core (s.windowStart core), e, ?_, fun u b x old hb hc hu hx hold => ?_⟩
  · rw [State.logError_blocks, State.struck_blocks, State.rolled, State.staying_eq]
  obtain ⟨resumed, later, kept, dead, hn⟩ := State.putBack_restored hb hc hu hx hold
  obtain rfl := State.block?_uid hb
  refine ⟨_, hn, Core.restoreBlock_tiles _ _ _ _ _ _ _, fun idle => Core.restoreBlock_storage _ _ _ _ _ _ _ idle, fun i v from_ => ?_⟩
  have start : ∃ w0, old.wave? i = some w0 ∧ (s.core core).clauseStart x b.uid old w0 = v ∧ v.idx = i := by
    obtain ⟨none, hv⟩ | ⟨m, z, mid, hz, hv, there⟩ := from_
    · have idx := Block.wave?_idx hv
      exact ⟨v, hv, Core.clauseStart_of_none (List.mem_of_find?_eq_some hv) (by rw [idx, none]), idx⟩
    · obtain ⟨w0, hw0⟩ := Option.isSome_iff_exists.mp there
      have idx := Block.wave?_idx hw0
      exact ⟨w0, hw0, Core.clauseStart_of_mid (List.mem_of_find?_eq_some hw0) (by rw [idx, mid]) hz (by rw [idx, hv]),
        Block.wave?_idx hv⟩
  obtain ⟨w0, hw0, rfl, idx⟩ := start
  have whole := (Wave.keepDead_kept b ((s.core core).clauseStart x b.uid old w0)).trans (kept _)
  refine ⟨_, by rw [Core.restoreBlock_wave? _ _ _ _ _ _ _ (fun w => (kept w).idx), hw0]; rfl,
    whole.v, whole.s, whole.p, whole.t, whole.flags, whole.step, fun now hnow => ?_⟩
  rw [dead, Wave.keepDead_dead (by rw [idx]; exact hnow)]

/-! ### STRIKE_UNCORE (R22, R440) -/

theorem strikeUncore_spec (die : Nat) (s : State) (h : die ≤ 8) : ∃ t, exec (.strikeUncore die) s = .next t ∧
    getAt 0 t.rel.die (4 * die) = satInc (getAt 0 s.rel.die (4 * die)) ∧
    t.rel.errNext = s.rel.errNext + 1 ∧ t.blocks = s.blocks ∧ t.issues = s.issues ∧ MemKept s t := by
  let s1 : State := { s with rel := { s.rel with die := bump s.rel.die (4 * die) } }
  have e : exec (.strikeUncore die) s = .next (s1.logError 2 (dieReporter die)
      [BitVec.ofNat 10 1023 ++ (0 : BitVec 22), 0, getAt 0 s1.rel.die (4 * die), 0]) := by
    show execStrikeUncore die s = _
    simp only [execStrikeUncore, Nat.not_lt.mpr h, if_false]
    rfl
  refine ⟨_, e, ?_, State.logError_errNext _ _ _ _, State.logError_blocks _ _ _ _, State.logError_issues _ _ _ _,
    MemKept.trans (t := s1) ⟨rfl, rfl, rfl, rfl, rfl, rfl⟩ (State.logError_memKept _ _ _ _)⟩
  rw [State.logError_die]
  exact getAt_setAt_same 0 s.rel.die (4 * die) _

/-! ### RESIDUE_REISSUE (R24, R25, R28, R150) -/

/-- A replay counted (R441). -/
def State.replayed (s : State) (core : Nat) : State := s.updCore core fun k => { k with replay := satInc k.replay }

theorem State.replayed_core (s : State) (core : Nat) :
    (s.replayed core).core core = { s.core core with replay := satInc (s.core core).replay } :=
  State.core_updCore_same s core (fun k => { k with replay := satInc k.replay }) fun _ => rfl

/-- What a report on a lane of the word last issued on a sub-core needs to be reissued. -/
structure Reissues (s : State) (core sub phys : Nat) (x : LastWord) (b : Block) (lane : Nat) : Prop where
  last : (s.core core).lastWord.find? (fun x => x.sub == sub) = some x
  block : s.block? x.block = some b
  logical : logicalOf ((s.core core).repairByte sub) 32 phys = some lane
  executes : ∃ p, x.before.part? x.issue.part = some p ∧ p.mask.getLsbD lane = true
  slot : s.slotKept x = true
  core : x.issue.core = core

theorem exec_residueReissue {s : State} {core sub phys : Nat} {x : LastWord} {b : Block} {lane : Nat}
    (h : Reissues s core sub phys x b lane) (rec : Bool) : exec (.residueReissue core sub phys rec) s =
      .next (if rec then (s.replayed core).laneFault x b lane phys ((s.replayed core).lastOpcode x b.ctx) else s.replayed core) := by
  obtain ⟨p, hp, hm⟩ := h.executes
  show execResidueReissue core sub phys rec s = _
  simp only [execResidueReissue, h.last, h.block, h.logical, hp, Option.map_some, Option.getD_some, hm, h.slot]
  rfl

theorem State.replayed_repairByte (s : State) (core i : Nat) :
    ((s.replayed core).core core).repairByte i = (s.core core).repairByte i := by rw [State.replayed_core]; rfl

theorem State.laneKilled_rel (s : State) (x : LastWord) (lane : Nat) (wd : Word) : (s.laneKilled x lane wd).rel = s.rel := by
  have killed (y : State) : (y.killLanes x.block x.wave ((1 : Mask) <<< lane)).rel = y.rel := by
    simp only [State.killLanes]; split <;> rfl
  rw [State.laneKilled, killed, State.redone]
  split <;> rfl

theorem State.settle_rel (s : State) (u : Nat) : (s.settle u).rel = s.rel := by rw [State.settle_only s u]

theorem residueReissue_spec {s : State} {core sub phys : Nat} {x : LastWord} {b : Block} {lane : Nat}
    (h : Reissues s core sub phys x b lane) (rec : Bool) : ∃ t, exec (.residueReissue core sub phys rec) s = .next t ∧
      (t.core core).replay = satInc (s.core core).replay ∧
      (rec = false → t = s.updCore core fun k => { k with replay := satInc k.replay }) ∧
      (rec = true → sub < 6 → spared ((s.core core).repairByte sub) = false →
        (t.core core).repairByte sub = spareByte ((s.core core).repairByte sub) phys ∧ t.rel.errNext = s.rel.errNext + 1) := by
  have counted : ((s.replayed core).core core).replay = satInc (s.core core).replay := by rw [State.replayed_core]
  refine ⟨_, exec_residueReissue h rec, ?_, ?_, ?_⟩
  · cases rec with
    | false => exact counted
    | true => exact (ReplayKept.laneFault _ x b lane phys _ core).trans counted
  · rintro rfl
    rfl
  · rintro rfl small free
    obtain rfl := h.core
    have named : x.sub = sub := by
      have found := List.find?_some h.last
      simpa using found
    subst named
    have free' : spared (((s.replayed x.issue.core).core x.issue.core).repairByte x.sub) = false := by
      rw [State.replayed_repairByte, free]
    rw [if_pos rfl, State.laneFault_unspared b lane phys _ free']
    constructor
    · rw [State.spareTakes_repairByte _ _ (by omega), State.replayed_repairByte]
    · rw [State.spareTakes_errNext, State.settle_rel, State.laneKilled_rel]
      rfl

theorem logicalOf_lt {v : BitVec 8} {n phys lane : Nat} (h : logicalOf v n phys = some lane) (free : spared v = false) : lane < n := by
  simp only [logicalOf, free, Bool.false_and, Bool.and_false, Bool.false_eq_true, if_false] at h
  split at h
  · simp only [Option.some.injEq] at h
    omega
  · simp at h

theorem residueReissue_wave {s : State} {core sub phys : Nat} {x : LastWord} {b : Block} {lane : Nat} {w : Wave} {wd : Word}
    (h : Reissues s core sub phys x b lane) (free : spared ((s.core core).repairByte sub) = false)
    (hw : b.wave? x.wave = some w) (hi : x.before.idx = x.wave) (running : w.exitedLanes.getLsbD lane = false)
    (ran : x.before.exitedLanes.getLsbD lane = false)
    (hf : s.fetch32 core b.ctx (x.issue.pc + BitVec.ofNat 64 (4 * x.issue.k)) = .ok wd) : ∃ (t y : State) (n : Wave),
      exec (.residueReissue core sub phys true) s = .next t ∧ t.blocks = (y.settle x.block).blocks ∧ t.issues = (y.settle x.block).issues ∧
      y.wave? x.block x.wave = some n ∧ n.dead.getLsbD lane = true ∧ (∀ q ∈ n.parts, q.2.mask.getLsbD lane = false) ∧
      (redoOf wd = .again → x.issue ∈ y.issues ∧ n.v = x.before.v ∧ n.s = x.before.s ∧ n.p = x.before.p ∧ n.t = x.before.t ∧
        n.flags = x.before.flags) ∧
      (redoOf wd = .keep → n.s = w.s ∧ n.p = w.p ∧ n.t = w.t ∧ ∀ q l, l < 32 → vLane n.v q l =
        if l = lane ∧ wd.toNat / 2 ^ 17 % 256 ≤ q ∧ q < wd.toNat / 2 ^ 17 % 256 + 8 then vLane x.before.v q l else vLane w.v q l) ∧
      (redoOf wd = .kill → n.v = w.v ∧ n.s = w.s ∧ n.p = w.p ∧ n.t = w.t ∧ n.flags = w.flags) := by
  have small : lane < 32 := logicalOf_lt h.logical free
  obtain rfl := h.core
  have named : x.sub = sub := by
    have found := List.find?_some h.last
    simpa using found
  subst named
  obtain ⟨s1, hs1⟩ : ∃ s1, s1 = s.replayed x.issue.core := ⟨_, rfl⟩
  have free' : spared ((s1.core x.issue.core).repairByte x.sub) = false := by rw [hs1, State.replayed_repairByte, free]
  have fetched : s1.lastFetched x b.ctx = wd := by
    have same : s1.fetch32 x.issue.core b.ctx (x.issue.pc + BitVec.ofNat 64 (4 * x.issue.k)) = .ok wd := by rw [hs1]; exact hf
    simp only [State.lastFetched, same]
  obtain ⟨c, n, hc, hn, again, keep, kill⟩ := State.redone_wave (s := s1) lane wd (by rw [hs1]; exact h.block) hw hi
  have kept := n.kill_kept ((1 : Mask) <<< lane)
  have here : n.exitedLanes.getLsbD lane = false := by
    cases e : redoOf wd with
    | again => rw [(again e).exitedLanes, ran]
    | keep => rw [keep e]; exact running
    | kill => rw [kill e, running]
  have bit : ((1 : Mask) <<< lane).getLsbD lane = true := by simp [small]
  refine ⟨_, s1.laneKilled x lane wd, n.kill ((1 : Mask) <<< lane), exec_residueReissue h true, ?_, ?_,
    State.wave?_killLanes hc hn _, Wave.kill_dead_lane small here, Wave.kill_parts bit here, fun e => ?_, fun e => ?_, fun e => ?_⟩
  · rw [if_pos rfl, ← hs1, State.laneFault_unspared b lane phys _ free', State.spareTakes_blocks, fetched]
  · rw [if_pos rfl, ← hs1, State.laneFault_unspared b lane phys _ free', State.spareTakes_issues, fetched]
  · have whole := (again e).trans kept
    refine ⟨?_, whole.v, whole.s, whole.p, whole.t, whole.flags⟩
    rw [State.laneKilled, State.killLanes_issues, State.redone, e]
    exact State.takeBack_issues s1 x
  · have own := keep e
    subst own
    refine ⟨kept.s, kept.p, kept.t, fun q l hl => ?_⟩
    rw [kept.v]
    refine (vLane_laneFrom x.before.v small hl q _ w.v).trans ?_
    have place : q ∈ List.range' (wd.extractLsb' 17 8).toNat 8 ↔ wd.toNat / 2 ^ 17 % 256 ≤ q ∧ q < wd.toNat / 2 ^ 17 % 256 + 8 := by
      rw [List.mem_range'_1, BitVec.extractLsb'_toNat, Nat.shiftRight_eq_div_pow]
    simp only [place]
  · have own := kill e
    subst own
    exact ⟨kept.v, kept.s, kept.p, kept.t, kept.flags⟩

/-! ### COLUMN_REMAP (R26, R273) -/

theorem ReplayKept.arrayFails (s : State) (core : Nat) (old : Block) (path phys op : Nat) :
    ReplayKept s (s.arrayFails core old path phys op) := by
  simp only [State.arrayFails]
  refine ReplayKept.trans ?_ (ReplayKept.fenceArray _ core)
  refine ReplayKept.trans (ReplayKept.of_cores ?_)
    (ReplayKept.spareTakes (State.updBlock s old.uid _) core 6 (fun k => k.repairByte 6 ||| 0x80) 4 (repairWord1 core 0 0) _)
  rfl

/-- Slice `col` of every block of a core copied into the spare slice (R26). -/
def State.copySlices (s : State) (core col : Nat) : State :=
  { s with blocks := s.blocks.map fun b => if b.core == core then { b with spare := some (col, b.slice col) } else b }

theorem columnRemap_spec (core col : Nat) (rec : Bool) (s : State) (old : Block) (lane : Nat)
    (last : (s.core core).lastStream = some old)
    (check : arrayCheck ((old.stream.map fun t => s.streamOpcode old t).getD 0) col = .column)
    (logical : logicalOf ((s.core core).repairByte 6) 64 col = some lane) : ∃ t, exec (.columnRemap core col rec) s = .next t ∧
      (t.core core).replay = satInc (s.core core).replay ∧
      (rec = false → t = s.updCore core fun k => { k with replay := satInc k.replay }) ∧
      (rec = true → spared ((s.core core).repairByte 6) = false →
        (t.core core).repairByte 6 = spareByte ((s.core core).repairByte 6) col ∧ t.rel.errNext = s.rel.errNext + 1 ∧
        t.blocks = s.blocks.map fun b => if b.core = core then { b with spare := some (col, b.slice col) } else b) := by
  have e : exec (.columnRemap core col rec) s = execColumnRemap core col rec s := rfl
  have counted : ((s.replayed core).core core).replay = satInc (s.core core).replay := by rw [State.replayed_core]
  simp only [execColumnRemap, last, check, logical] at e
  cases rec with
  | false =>
    simp only [Bool.not_false, if_true] at e
    exact ⟨_, e, counted, fun _ => rfl, fun k => by simp at k⟩
  | true =>
    simp only [Bool.not_true, Bool.false_eq_true, if_false] at e
    cases free : spared ((s.core core).repairByte 6) with
    | true =>
      rw [if_pos free] at e
      exact ⟨_, e, (ReplayKept.arrayFails (s.replayed core) core old 2 col _ core).trans counted, fun k => by simp at k,
        fun _ k => by simp at k⟩
    | false =>
      rw [if_neg (by simp [free])] at e
      have copied : ((s.replayed core).copySlices core col).core core = (s.replayed core).core core := rfl
      refine ⟨State.spareTakes ((s.replayed core).copySlices core col) core 6 (fun k => spareByte (k.repairByte 6) col) 2
        (repairWord1 core 0 col) _, e, ?_, fun k => by simp at k, fun _ _ => ⟨?_, ?_, ?_⟩⟩
      · rw [ReplayKept.spareTakes _ core 6 _ 2 _ _ core, copied, counted]
      · rw [State.spareTakes_repairByte _ _ (by omega), copied, State.replayed_repairByte]
      · rw [State.spareTakes_errNext]; rfl
      · rw [State.spareTakes_blocks]
        simp only [State.copySlices, beq_iff_eq]
        rfl

end Sys2Proof.Machine

open Sys2Proof Sys2Proof.Machine

/-- Settles O42: a rollback restores each block that stays to its checkpoint (`State.putBack_restored`,
`Core.restoreBlock_wave?`) and then only settles blocks (`State.rolled_only`); a lane's permanent fault redoes its word, kills
the lane and puts the spare in its place (`State.laneFault_unspared`, `State.redone_wave`). -/
theorem strikesAndResidues : Obligations.StrikesAndResidues := by
  unfold Obligations.StrikesAndResidues
  refine ⟨strikeRollback_spec, strikeRollback_blocks, strikeUncore_spec, ?_, ?_, ?_⟩
  · intro core sub phys rec s x b lane p last block logical part mask slot home
    exact residueReissue_spec ⟨last, block, logical, ⟨p, part, mask⟩, slot, home⟩ rec
  · intro core sub phys s x b lane p w wd last block logical part mask slot home free hw hi running ran fetched
    exact residueReissue_wave ⟨last, block, logical, ⟨p, part, mask⟩, slot, home⟩ free hw hi running ran fetched
  · exact fun core col rec s old lane => columnRemap_spec core col rec s old lane
end

