-- ==== Sys2Proof/Proofs/Reductions.lean ====
section
/-! PROOFS. Words that reduce the lanes to one S register (O9, O10): the magnitude that QAMAX delivers, and what WRED delivers
of no lane at all. -/

namespace Sys2Proof.Machine

open Sys2Proof

/-! ### A result written to an S register -/

/-- A word that delivers a scalar result changes that S register and the flags of its wave (R108). -/
theorem scalarResult_only {s : State} {c : Cur} (hc : s.cur? = some c) (f : Form) (d : Nat) (r : Word) (fl : FlagSet) :
    ∃ t w, scalarResult s c f d r fl = .next t ∧ OnlyWave s t c.blk c.iss.wave w ∧
      (∀ k, w.getS k = if k = d then r else c.wv.getS k) ∧ w.flags = c.wv.flags ||| fl := by
  refine ⟨_, _, rfl, retire_only hc rfl, fun k => ?_, by simp [Wave.setS]⟩
  rw [← getS_setS, Wave.getS, retiredWave_s]
  rfl

/-- A word that issues has legal fields (R35). -/
theorem Issues.fieldsOk {s : State} {c : Cur} {form : Cur → Form} (h : Issues s c form) : (form c).fieldsOk = true := by
  have hlegal := h.legal
  cases hbad : (form c).fieldsOk with
  | true => rfl
  | false => simp [Form.fault, hbad] at hlegal

theorem mem_lanesOf {m : Mask} {l : Nat} : l ∈ lanesOf m ↔ l < 32 ∧ m.getLsbD l = true := by
  simp [lanesOf]

theorem lanesOf_eq_nil_iff {m : Mask} : lanesOf m = [] ↔ m = 0 := by
  rw [List.eq_nil_iff_forall_not_mem]
  constructor
  · intro h
    refine BitVec.eq_of_getLsbD_eq fun l hl => ?_
    simpa [mem_lanesOf, hl] using h l
  · rintro rfl l
    simp [mem_lanesOf]

/-! ### NaNs by their bits (R62, R64) -/

/-- The value of an FP32 word by its sign, exponent and fraction (R62, R64). -/
theorem f32_eq (x : Word) : f32 x =
    if x.toNat / 2 ^ 23 % 2 ^ 8 = 255 then if x.toNat % 2 ^ 23 = 0 then .inf (x.getLsbD 31) else .nan (!x.getLsbD 22)
    else if x.toNat / 2 ^ 23 % 2 ^ 8 = 0 then .fin (x.getLsbD 31) (x.toNat % 2 ^ 23) (-149)
    else .fin (x.getLsbD 31) (2 ^ 23 + x.toNat % 2 ^ 23) ((x.toNat / 2 ^ 23 % 2 ^ 8 : Nat) - 127 - 23) := by
  have hquiet : (x.toNat % 2 ^ 23).testBit 22 = x.getLsbD 22 := by rw [Nat.testBit_mod_two_pow]; rfl
  rw [← hquiet]
  by_cases hexp : x.toNat / 2 ^ 23 % 2 ^ 8 = 255
  · rw [if_pos hexp]
    exact if_pos (by simpa [fmtFP32] using hexp)
  · rw [if_neg hexp]
    exact if_neg (by simpa [fmtFP32] using hexp)

theorem f32_of_nan {x : Word} (h : x.toNat % 2 ^ 31 > 0x7F800000) : f32 x = .nan (!x.getLsbD 22) := by
  rw [f32_eq, if_pos (by omega), if_neg (by omega)]

theorem f32_isNaN_iff (x : Word) : (f32 x).isNaN = true ↔ x.toNat % 2 ^ 31 > 0x7F800000 := by
  refine ⟨fun h => ?_, fun h => by rw [f32_of_nan h]; rfl⟩
  rw [f32_eq] at h
  split at h
  next hexp =>
    split at h
    · cases h
    · omega
  next =>
    split at h <;> cases h

theorem Num.isNaN_of_isSig {x : Num} (h : x.isSig = true) : x.isNaN = true := by
  cases x with
  | nan _ => rfl
  | inf _ => exact h
  | fin _ _ _ => exact h

theorem f32_isSig_iff (x : Word) : (f32 x).isSig = true ↔ x.toNat % 2 ^ 31 > 0x7F800000 ∧ x.getLsbD 22 = false := by
  constructor
  · intro h
    have hnan := (f32_isNaN_iff x).1 (Num.isNaN_of_isSig h)
    rw [f32_of_nan hnan] at h
    exact ⟨hnan, by simpa only [Num.isSig, Bool.not_eq_true'] using h⟩
  · rintro ⟨hnan, hquiet⟩
    rw [f32_of_nan hnan, hquiet]
    rfl

/-! ### The largest magnitude (R80) -/

/-- The greater of a magnitude and the magnitude of a word. -/
def largerMag (m x : Word) : Word := if (x &&& 0x7FFFFFFF#32).toNat > m.toNat then x &&& 0x7FFFFFFF#32 else m

theorem toNat_largerMag (m x : Word) : (largerMag m x).toNat = max m.toNat (x.toNat % 2 ^ 31) := by
  have hmag : (x &&& 0x7FFFFFFF#32).toNat = x.toNat % 2 ^ 31 := Nat.and_two_pow_sub_one_eq_mod x.toNat 31
  unfold largerMag
  split <;> omega

/-- The greatest of some magnitudes and a first one is none below them, and one of them. -/
theorem foldl_largerMag_spec (ws : List Word) : ∀ m : Word,
    m.toNat ≤ (ws.foldl largerMag m).toNat ∧ (∀ x ∈ ws, x.toNat % 2 ^ 31 ≤ (ws.foldl largerMag m).toNat) ∧
      (ws.foldl largerMag m = m ∨ ∃ x ∈ ws, x.toNat % 2 ^ 31 = (ws.foldl largerMag m).toNat) := by
  induction ws with
  | nil => simp
  | cons y ys ih =>
    intro m
    obtain ⟨hfirst, hall, hone⟩ := ih (largerMag m y)
    have hstep := toNat_largerMag m y
    rw [List.foldl_cons]
    refine ⟨by omega, List.forall_mem_cons.2 ⟨by omega, hall⟩, ?_⟩
    rcases hone with heq | ⟨x, hx, hmag⟩
    · rw [heq]
      rcases Nat.le_total (y.toNat % 2 ^ 31) m.toNat with hle | hle
      · exact .inl (BitVec.eq_of_toNat_eq (by omega))
      · exact .inr ⟨y, List.mem_cons_self, by omega⟩
    · exact .inr ⟨x, List.mem_cons_of_mem y hx, hmag⟩

/-- Of words none of which is a NaN: no magnitude is above what `amax` delivers, which is one of them. -/
theorem amax_of_noNaN {ws : List Word} (h : ∀ x ∈ ws, ¬ x.toNat % 2 ^ 31 > 0x7F800000) :
    (amax ws).1.getLsbD 31 = false ∧ (∀ x ∈ ws, x.toNat % 2 ^ 31 ≤ (amax ws).1.toNat) ∧
      (ws ≠ [] → ∃ x ∈ ws, x.toNat % 2 ^ 31 = (amax ws).1.toNat) := by
  have hfold : (amax ws).1 = ws.foldl largerMag 0 := by
    have hany : ¬ (ws.any fun x => (f32 x).isNaN) = true := by
      simpa [List.any_eq_true, f32_isNaN_iff] using h
    rw [amax, if_neg hany]
    rfl
  obtain ⟨-, hall, hone⟩ := foldl_largerMag_spec ws 0
  rw [← hfold] at hall hone
  refine ⟨?_, hall, fun hne => ?_⟩
  · apply Nat.testBit_lt_two_pow
    rcases hone with hzero | ⟨x, -, hx⟩
    · simp [hzero]
    · omega
  · rcases hone with hzero | hin
    · obtain ⟨x, hx⟩ := List.exists_mem_of_ne_nil ws hne
      have hle := hall x hx
      rw [hzero] at hle ⊢
      exact ⟨x, hx, Nat.le_zero.1 hle⟩
    · exact hin

theorem amax_of_nan {ws : List Word} (h : ∃ x ∈ ws, x.toNat % 2 ^ 31 > 0x7F800000) : (amax ws).1 = nan32 := by
  have hany : (ws.any fun x => (f32 x).isNaN) = true := by
    simpa [List.any_eq_true, f32_isNaN_iff] using h
  rw [amax, if_pos hany]

/-- The flag of `amax` is that of a signalling NaN, whatever else is among the words. -/
theorem amax_flags (ws : List Word) : (amax ws).2 = flIf (ws.any fun x => (f32 x).isSig) flNV := by
  unfold amax
  split
  · rfl
  next hnone =>
    have hsig : ¬ (ws.any fun x => (f32 x).isSig) = true := by
      rw [List.any_eq_true] at hnone ⊢
      exact fun ⟨x, hx, hs⟩ => hnone ⟨x, hx, Num.isNaN_of_isSig hs⟩
    simp [flIf, hsig]

theorem amax_flags_of_sig {ws : List Word} (h : ∃ x ∈ ws, x.toNat % 2 ^ 31 > 0x7F800000 ∧ x.getLsbD 22 = false) :
    (amax ws).2 = flNV := by
  have hany : (ws.any fun x => (f32 x).isSig) = true := by
    simpa [List.any_eq_true, f32_isSig_iff] using h
  rw [amax_flags, hany]
  rfl

theorem amax_flags_of_noSig {ws : List Word} (h : ∀ x ∈ ws, ¬ (x.toNat % 2 ^ 31 > 0x7F800000 ∧ x.getLsbD 22 = false)) :
    (amax ws).2 = 0 := by
  have hany : (ws.any fun x => (f32 x).isSig) = false := by
    simpa [List.any_eq_false, f32_isSig_iff] using h
  rw [amax_flags, hany]
  rfl

/-! ### QAMAX -/

/-- What QAMAX compares: four registers in the lanes that execute it (R80). -/
def qamaxElems (c : Cur) (a : BitVec 8) : List Word :=
  (lanesOf c.execMask).flatMap fun l => (List.range 4).map fun j => c.opnd false 0 (a.toNat + j) l

theorem mem_qamaxElems {c : Cur} {a : BitVec 8} {x : Word} : x ∈ qamaxElems c a ↔
    ∃ l j, l < 32 ∧ j < 4 ∧ c.execMask.getLsbD l = true ∧ x = c.opnd false 0 (a.toNat + j) l := by
  simp only [qamaxElems, List.mem_flatMap, List.mem_map, List.mem_range, mem_lanesOf, eq_comm (b := x)]
  constructor
  · rintro ⟨l, ⟨hl, hm⟩, j, hj, hx⟩
    exact ⟨l, j, hl, hj, hm, hx⟩
  · rintro ⟨l, j, hl, hj, hm, hx⟩
    exact ⟨l, ⟨hl, hm⟩, j, hj, hx⟩

theorem qamaxElems_eq_nil_iff {c : Cur} {a : BitVec 8} : qamaxElems c a = [] ↔ c.execMask = 0 := by
  rw [← lanesOf_eq_nil_iff, qamaxElems, List.flatMap_eq_nil_iff, List.eq_nil_iff_forall_not_mem]
  simp

theorem exec_qamax {s : State} {c : Cur} {d a : BitVec 8} (h : Issues s c (formQamax d a)) :
    exec (.qamax d a) s =
      scalarResult s c (formQamax d a c) (c.sNum 2 d) (amax (qamaxElems c a)).1 (amax (qamaxElems c a)).2 := by
  show execQamax d a s = _
  rw [execQamax, runWord_go h]
  rfl

/-! ### WRED of no lane (R78) -/

theorem combPairs_absent (op : Nat) : ∀ l : List (Option Word), (∀ o ∈ l, o = none) →
    (∀ o ∈ (combPairs op l).1, o = none) ∧ (combPairs op l).2 = 0
  | [], _ => ⟨by simp [combPairs], rfl⟩
  | [_], h => ⟨h, rfl⟩
  | a :: b :: t, h => by
    obtain ⟨rfl, rfl, ht⟩ : a = none ∧ b = none ∧ ∀ o ∈ t, o = none := by simpa using h
    obtain ⟨habsent, hflags⟩ := combPairs_absent op t ht
    simpa [combPairs, comb, hflags] using habsent

theorem combTree_absent (op n : Nat) : ∀ l : List (Option Word), (∀ o ∈ l, o = none) → combTree op n l = (none, 0) := by
  induction n with
  | zero =>
    intro l h
    cases l with
    | nil => rfl
    | cons o t => simp [combTree, h o (by simp)]
  | succ n ih =>
    intro l h
    obtain ⟨habsent, hflags⟩ := combPairs_absent op l h
    simp [combTree, ih _ habsent, hflags]

theorem sigFlags_absent (op : Nat) {l : List (Option Word)} (h : ∀ o ∈ l, o = none) : sigFlags op l = 0 := by
  unfold sigFlags
  rw [List.any_eq_false.2, Bool.and_false]
  · rfl
  · intro o ho
    simp [h o ho]

theorem Cur.present_absent {c : Cur} (h : c.execMask = 0) (a : Nat) : ∀ o ∈ c.present a, o = none := by
  simp [Cur.present, h]

/-- The identities in the order of the operators' codes (R78). -/
theorem combIdentity_of_code : ∀ op, op < 11 → some (combIdentity op) =
    ([0, 0x7FFFFFFF, 0x80000000, 0xFFFFFFFF, 0, 0xFFFFFFFF, 0, 0, 0x80000000, 0x7F800000, 0xFF800000] : List Word)[op]? := by
  decide

theorem exec_wred_noLane {s : State} {c : Cur} {d a b : BitVec 8} (h : Issues s c (formWred d a b)) (hm : c.execMask = 0) :
    exec (.wred d a b) s = scalarResult s c (formWred d a b c) (c.sNum 2 d) (combIdentity b.toNat) 0 := by
  have habsent := c.present_absent hm a.toNat
  show execWred d a b s = _
  rw [execWred, runWord_go h]
  simp [combTree_absent b.toNat 5 _ habsent, sigFlags_absent b.toNat habsent]

end Sys2Proof.Machine

open Sys2Proof Sys2Proof.Machine

/-- Settles O9: what QAMAX delivers is `amax` of its elements, whose value is the greatest of the magnitudes
(`foldl_largerMag_spec`) and whose flag is that of a signalling NaN (`amax_flags`). -/
theorem qamaxDeliversTheLargest : Obligations.QamaxDeliversTheLargest := by
  unfold Obligations.QamaxDeliversTheLargest
  intro d a s c h mag nan sig elem
  obtain ⟨t, w, ht, honly, hreg, hflags⟩ := scalarResult_only h.cur (formQamax d a c) (c.sNum 2 d)
    (amax (qamaxElems c a)).1 (amax (qamaxElems c a)).2
  have hval : w.getS (c.sNum 2 d) = (amax (qamaxElems c a)).1 := by simp [hreg]
  have helem (x : Word) : elem x ↔ x ∈ qamaxElems c a := mem_qamaxElems.symm
  refine ⟨t, w, (exec_qamax h).trans ht, honly.inWave.wave, ?_⟩
  simp only [hval, hflags, helem]
  refine ⟨amax_of_nan, fun hno => ?_, fun hm => ?_, fun hsig => ?_, fun hno => ?_⟩
  · obtain ⟨hsign, hall, hone⟩ := amax_of_noNaN hno
    exact ⟨hsign, hall, fun hm => hone (mt qamaxElems_eq_nil_iff.1 hm)⟩
  · rw [qamaxElems_eq_nil_iff.2 hm]
    rfl
  · rw [amax_flags_of_sig hsig]
  · exact (congrArg (c.wv.flags ||| ·) (amax_flags_of_noSig hno)).trans BitVec.or_zero

/-- Settles O10: absent leaves leave the whole tree absent (`combTree_absent`), and of an absent result WRED delivers the
identity. -/
theorem wredDeliversTheIdentity : Obligations.WredDeliversTheIdentity := by
  unfold Obligations.WredDeliversTheIdentity
  intro d a b s c h hm
  obtain ⟨t, w, ht, honly, hreg, hflags⟩ := scalarResult_only h.cur (formWred d a b c) (c.sNum 2 d) (combIdentity b.toNat) 0
  have hcode : b.toNat < 11 := Nat.lt_succ_of_le (of_decide_eq_true h.fieldsOk)
  refine ⟨t, w, (exec_wred_noLane h hm).trans ht, honly.inWave.wave, hflags.trans BitVec.or_zero, ?_⟩
  rw [hreg, if_pos rfl]
  exact combIdentity_of_code b.toNat hcode
end

