-- ==== Sys2Proof/Proofs/Retiring.lean ====
section
/-! PROOFS. What a retired word leaves of its clause and its wave (`Moved`, `WaveKept`), and from it the effect of every word
that writes one vector register or one predicate (R15, R86, R88, R99). -/

namespace Sys2Proof.Machine

open Sys2Proof Sys2Proof.Claims

/-! ### The wave of a retired word -/

theorem waveKept_retiredWave {s : State} {c : Cur} {d : Done} {a : Wave} (h : WaveKept a d.wave) : WaveKept a (retiredWave s c d) where
  idx := by simpa using h.idx
  exitedLanes := by simpa using h.exitedLanes
  dead := by simpa using h.dead
  starve := by simpa using h.starve
  step := by simpa using h.step
  lastSeq := by simpa using h.lastSeq
  cycleHi := by simpa using h.cycleHi
  loads := by simpa using h.loads
  sq := by simpa using h.sq
  atoms := by simpa using h.atoms
  acks := by simpa using h.acks
  rays := by simpa using h.rays
  colls := by simpa using h.colls
  run := by simpa using h.run
  args := by simpa using h.args
  service := by simpa using h.service

@[simp] theorem countSkid_pend (b : Block) (w : Wave) : (countSkid b w).pend = w.pend := by
  unfold countSkid; repeat' split
  all_goals rfl
@[simp] theorem Wave.setPart_pend (w : Wave) (k : Nat) (p : Option Part) : (w.setPart k p).pend = w.pend := by
  unfold Wave.setPart; repeat' split
  all_goals rfl
@[simp] theorem nextClause_pend (c : Cur) (w : Wave) : (nextClause c w).pend = w.pend := by
  unfold nextClause; split <;> simp
@[simp] theorem clauseYield_pend (c : Cur) (w : Wave) : (clauseYield c w).pend = w.pend := by
  unfold clauseYield; dsimp only; split <;> rfl

theorem Wave.addPend_pend (w : Wave) (r : Regs) (due : Nat) :
    (w.addPend r due).pend = w.pend ++ if r = noRegs then [] else [{ regs := r, due := due }] := by
  unfold Wave.addPend; split <;> simp

/-- The registers a word writes are pending once it has retired (R13). -/
theorem retiredWave_pend (s : State) (c : Cur) (d : Done) : (retiredWave s c d).pend =
    d.wave.pend ++ if d.writes = noRegs then [] else [{ regs := d.writes, due := s.now + d.lat }] := by
  rw [← Wave.addPend_pend]
  unfold retiredWave; dsimp only; split <;> simp

@[simp] theorem countSkid_part? (b : Block) (w : Wave) (k : Nat) : (countSkid b w).part? k = w.part? k := by
  unfold countSkid; repeat' split
  all_goals rfl
@[simp] theorem clauseYield_part? (c : Cur) (w : Wave) (k : Nat) : (clauseYield c w).part? k = w.part? k := by
  unfold clauseYield; dsimp only; split <;> rfl
@[simp] theorem Wave.addPend_part? (w : Wave) (r : Regs) (due k : Nat) : (w.addPend r due).part? k = w.part? k := by
  unfold Wave.addPend; split <;> rfl

/-- A part that is there, replaced. -/
theorem Wave.part?_setPart_same {w : Wave} {k : Nat} {p : Part} (h : w.part? k = some p) (q : Option Part) :
    (w.setPart k q).part? k = q := by
  by_cases hk : k < 4
  · simp [Wave.setPart, Wave.part?, hk]
  · by_cases h4 : k = 4
    · simp [Wave.setPart, Wave.part?, h4]
    · simp [Wave.part?, hk, h4] at h

/-- After its clause's last word a part stands at the next clause (R8). -/
theorem retiredWave_part?_last {s : State} {c : Cur} {d : Done} {p : Part} (hp : d.wave.part? c.iss.part = some p)
    (hlast : headerN c.iss.header < c.iss.k + d.words) :
    (retiredWave s c d).part? c.iss.part = some { p with pc := c.nextPc, word := 0 } := by
  have hp' : (d.wave.addPend d.writes (s.now + d.lat)).part? c.iss.part = some p := by simpa using hp
  simp only [retiredWave, advance_k]
  rw [if_pos hlast, countSkid_part?, clauseYield_part?, nextClause, hp']
  exact Wave.part?_setPart_same hp' _

theorem retiredWave_part?_next {s : State} {c : Cur} {d : Done} (hnext : c.iss.k + d.words ≤ headerN c.iss.header) (k : Nat) :
    (retiredWave s c d).part? k = d.wave.part? k := by
  simp only [retiredWave, advance_k]
  rw [if_neg (by omega), countSkid_part?, Wave.addPend_part?]

/-! ### The clause of a retired word -/

theorem retire_issues_last {s : State} {c : Cur} {d : Done} (hlast : headerN c.iss.header < c.iss.k + d.words) :
    (retire s c d).issues = s.issues.tail := by
  simp only [retire, advance_k, advance_header]
  rw [if_pos hlast]
  rfl

theorem retire_issues_next {s : State} {c : Cur} {d : Done} (hnext : c.iss.k + d.words ≤ headerN c.iss.header) :
    (retire s c d).issues = s.issues.tail ++ [c.iss.advance d] := by
  simp only [retire, advance_k, advance_header]
  rw [if_neg (by omega)]
  rfl

/-- L0 takes a result in the lanes of a mask, and zero in the others; the other latches shift (R15). -/
theorem latch_shiftLatch (lat : List (List Word)) (mask : Mask) (f : Nat → Word) {m l : Nat} (hm : m < 4) (hl : l < 32) :
    latch (shiftLatch lat (latchLanes mask f)) m l =
      if m = 0 then (if mask.getLsbD l then f l else 0) else latch lat (m - 1) l := by
  cases m with
  | zero => simp [latch, shiftLatch, latchLanes, hl]
  | succ m =>
    have hm3 : m < 3 := by omega
    simp [latch, shiftLatch, hm3]

/-- A retired word leaves its clause and its wave as `Moved` says, when its result lies in the executing lanes. -/
theorem retire_moved {s : State} {c : Cur} {d : Done} {l0 : Option (Bool × (Nat → Word))} (hpend : d.wave.pend = c.wv.pend)
    (hpart : d.wave.part? c.iss.part = some c.pt) (hlatch : d.latch = l0.map fun x => (x.1, latchLanes c.execMask x.2)) :
    Moved s (retire s c d) c (retiredWave s c d) d.writes d.lat d.words l0 where
  pend := by rw [retiredWave_pend, hpend]
  last h := ⟨retire_issues_last h, retiredWave_part?_last hpart h⟩
  next h := by
    refine ⟨(retiredWave_part?_next h _).trans hpart, c.iss.advance d, retire_issues_next h, ?_⟩
    unfold Issue.advance
    rw [hlatch]
    rcases l0 with - | ⟨_ | _, f⟩
    · exact ⟨rfl, fun _ _ _ _ _ => rfl⟩
    · refine ⟨rfl, fun slot m l hm hl => ?_⟩
      cases slot with
      | false => exact latch_shiftLatch c.iss.lat0 c.execMask f hm hl
      | true => rfl
    · refine ⟨rfl, fun slot m l hm hl => ?_⟩
      cases slot with
      | false => rfl
      | true => exact latch_shiftLatch c.iss.lat1 c.execMask f hm hl

/-! ### A word that writes registers -/

/-- `w` differs from `a` in V, S and P registers at most. -/
def RegsWritten (a w : Wave) : Prop := w = { a with v := w.v, s := w.s, p := w.p }

theorem regsWritten_refl (w : Wave) : RegsWritten w w := rfl
theorem regsWritten_setV (w : Wave) (n : Nat) (m : Mask) (f : Nat → Word) : RegsWritten w (w.setV n m f) := rfl
theorem regsWritten_setP (w : Wave) (n : Nat) (x : Mask) : RegsWritten w (w.setP n x) := by
  unfold RegsWritten Wave.setP
  split <;> rfl

/-- How a word retires that leaves its wave as `w` but for the flags `fl`, and a result `g` in the latches of a slot. -/
def resultDone (c : Cur) (f : Form) (w : Wave) (fl : FlagSet) (slot1 : Bool) (g : Nat → Word) : Done :=
  { wave := { w with flags := w.flags ||| fl }, latch := some (slot1, latchLanes c.execMask g), writes := f.writes, lat := f.lat }

/-- What such a word changes (R8, R13, R15). -/
theorem resultDone_retires {s : State} {c : Cur} {w : Wave} (f : Form) (fl : FlagSet) (slot1 : Bool) (g : Nat → Word)
    (hc : s.cur? = some c) (hw : RegsWritten c.wv w) :
    let t := retire s c (resultDone c f w fl slot1 g)
    ∃ u, OnlyWave s t c.blk c.iss.wave u ∧ WaveKept c.wv u ∧ Moved s t c u f.writes f.lat 1 (some (slot1, g)) ∧
      u.v = w.v ∧ u.s = w.s ∧ u.p = w.p ∧ u.t = c.wv.t ∧ u.flags = c.wv.flags ||| fl := by
  obtain ⟨-, -, -, hpart, -⟩ := cur?_spec hc
  obtain ⟨v, sr, p, rfl⟩ : ∃ v sr p, w = { c.wv with v := v, s := sr, p := p } := ⟨_, _, _, hw⟩
  have hkept : WaveKept c.wv (resultDone c f { c.wv with v := v, s := sr, p := p } fl slot1 g).wave :=
    ⟨rfl, rfl, rfl, rfl, rfl, rfl, rfl, rfl, rfl, rfl, rfl, rfl, rfl, rfl, rfl, rfl⟩
  refine ⟨_, retire_only hc hkept.idx, waveKept_retiredWave hkept, retire_moved rfl hpart rfl, ?_⟩
  simp [resultDone]

/-! ### Words that write one vector register -/

/-- The wave after a vector result; with nwb no register is written (R88). -/
def vecWave (c : Cur) (nwb : Bool) (d : Nat) (r : Nat → Word × FlagSet) : Wave :=
  if nwb then c.wv else c.wv.setV d c.execMask fun l => (r l).1

theorem vecResult_eq_retire (s : State) (c : Cur) (f : Form) (slot1 nwb : Bool) (d : Nat) (r : Nat → Word × FlagSet) :
    vecResult s c f slot1 nwb d r = .next (retire s c (resultDone c f (vecWave c nwb d r) (orFlags c.execMask (fun l => (r l).2) 32)
      slot1 fun l => (r l).1)) := rfl

theorem regsWritten_vecWave (c : Cur) (nwb : Bool) (d : Nat) (r : Nat → Word × FlagSet) : RegsWritten c.wv (vecWave c nwb d r) := by
  cases nwb with
  | false => exact regsWritten_setV ..
  | true => exact regsWritten_refl _

theorem vecWave_s (c : Cur) (nwb : Bool) (d : Nat) (r : Nat → Word × FlagSet) : (vecWave c nwb d r).s = c.wv.s := by
  cases nwb <;> rfl
theorem vecWave_p (c : Cur) (nwb : Bool) (d : Nat) (r : Nat → Word × FlagSet) : (vecWave c nwb d r).p = c.wv.p := by
  cases nwb <;> rfl

theorem vLane_vecWave (c : Cur) (nwb : Bool) (d : Nat) (r : Nat → Word × FlagSet) (k : Nat) {l : Nat} (hl : l < 32) :
    vLane (vecWave c nwb d r).v k l =
      if k = d ∧ nwb = false ∧ c.execMask.getLsbD l = true then (r l).1 else vLane c.wv.v k l := by
  cases nwb with
  | false =>
    simp only [true_and]
    exact vLane_setV c.wv d c.execMask (fun l => (r l).1) k l hl
  | true => simp [vecWave]

/-- A word whose meaning is a vector result does what `VecWordIn` says of its value in each lane. -/
theorem vecWordIn_of_exec {slot1 : Bool} {i : Instr} {form : Cur → Form} {n : Bool} {d : Nat} {r : Cur → Nat → Word × FlagSet}
    (hwrites : ∀ c, (form c).writes = { noRegs with v := if n then [] else [d] })
    (hexec : ∀ s c, Issues s c form → exec i s = vecResult s c (form c) slot1 n d (r c)) : VecWordIn slot1 1 i form n d r := by
  intro s c h
  obtain ⟨u, honly, hkept, hmoved, hv, hs, hp, ht, hflags⟩ := resultDone_retires (form c)
    (orFlags c.execMask (fun l => (r c l).2) 32) slot1 (fun l => (r c l).1) h.cur (regsWritten_vecWave c n d (r c))
  rw [hwrites] at hmoved
  refine ⟨_, u, (hexec s c h).trans (vecResult_eq_retire ..), honly, hkept, hmoved, fun k l hl => ?_, hs.trans (vecWave_s ..),
    hp.trans (vecWave_p ..), ht, hflags⟩
  rw [hv]
  exact vLane_vecWave c n d (r c) k hl

/-- A three-operand vector word of meaning `m`, by its value from A, B and C. -/
theorem vecWord_of_runV3 {i : Instr} {op : Nat} {x : XcRule} {readsC : Bool} {lat : Nat} {n : Bool} {d a b : BitVec 8}
    {g : Cur → Word → Word → Word → Word × FlagSet} {r : Cur → Nat → Word × FlagSet} (m : State → Out)
    (hexec : ∀ s, exec i s = m s) (hm : ∀ s, m s = runV3 s op x readsC lat n d a b g)
    (hval : ∀ c l, g c (opA c a l) (opB c b l) (if readsC then opC c d l else 0) = r c l) :
    VecWord i (formV3 op x readsC lat n d a b) n d.toNat r := by
  refine vecWordIn_of_exec (fun _ => rfl) fun s c h => ?_
  rw [hexec, hm, runV3, runWord_go h, ← funext (hval c)]
  rfl

/-- A two-source integer word of meaning `m`, by its value from A and B. -/
theorem intWord_of_runV3 {i : Instr} {op : Nat} {n : Bool} {d a b : BitVec 8} {g r : Word → Word → Word} (m : State → Out)
    (hexec : ∀ s, exec i s = m s) (hm : ∀ s, m s = runV3 s op xcInt false 4 n d a b fun _ x y _ => pureInt (g x y))
    (hval : ∀ x y, g x y = r x y) : IntWord i op n d a b r :=
  vecWord_of_runV3 m hexec hm fun _ _ => congrArg pureInt (hval _ _)

/-! ### Words that write one predicate -/

theorem getLsbD_maskOf_of_lt (f : Nat → Bool) {l : Nat} (hl : l < 32) : ∀ n, (maskOf f n).getLsbD l = (decide (l < n) && f l)
  | 0 => by simp [maskOf]
  | n + 1 => by
    have hbit : (if f n = true then (1 : Mask) <<< n else 0).getLsbD l = (decide (l = n) && f n) := by
      cases f n with
      | false => simp
      | true =>
        rw [if_pos rfl, BitVec.getLsbD_shiftLeft, Bool.eq_iff_iff]
        simp [hl]
        omega
    rw [maskOf, BitVec.getLsbD_or, getLsbD_maskOf_of_lt f hl n, hbit]
    rcases Nat.lt_trichotomy l n with h | rfl | h
    · rw [decide_eq_true h, decide_eq_true (Nat.lt_succ_of_lt h), decide_eq_false (Nat.ne_of_lt h), Bool.false_and, Bool.or_false]
    · rw [decide_eq_false (Nat.lt_irrefl l), decide_eq_true (Nat.lt_succ_self l), decide_eq_true rfl, Bool.false_and, Bool.false_or]
    · rw [decide_eq_false (by omega : ¬ l < n), decide_eq_false (by omega : ¬ l < n + 1), decide_eq_false (by omega : ¬ l = n),
        Bool.false_and, Bool.false_and, Bool.or_false]

theorem getLsbD_maskOf (f : Nat → Bool) {l : Nat} (hl : l < 32) : (maskOf f 32).getLsbD l = f l := by
  rw [getLsbD_maskOf_of_lt f hl, decide_eq_true hl, Bool.true_and]

theorem getLsbD_blend (m old new : Mask) {l : Nat} (hl : l < 32) :
    (blend m old new).getLsbD l = if m.getLsbD l = true then new.getLsbD l else old.getLsbD l := by
  rw [blend, BitVec.getLsbD_or, BitVec.getLsbD_and, BitVec.getLsbD_and, BitVec.getLsbD_not]
  cases m.getLsbD l <;> simp [hl]

theorem latchLanes_congr (m : Mask) {f g : Nat → Word} (h : ∀ l, l < 32 → f l = g l) : latchLanes m f = latchLanes m g := by
  refine List.map_congr_left fun l hl => ?_
  rw [h l (List.mem_range.1 hl)]

/-- The bit that a predicate word delivers in a lane, AND-ed with the old one where the word says so (R99). -/
def predBit (c : Cur) (p : Nat) (old : Bool) (r : Nat → Bool × FlagSet) (l : Nat) : Bool :=
  (r l).1 && (!old || (c.wv.getP p).getLsbD l)

/-- The wave after a predicate result. -/
def predWave (c : Cur) (p : Nat) (old : Bool) (r : Nat → Bool × FlagSet) : Wave :=
  c.wv.setP p (blend c.execMask (c.wv.getP p) (maskOf (predBit c p old r) 32))

theorem predResult_eq_retire (s : State) (c : Cur) (f : Form) (p : Nat) (old : Bool) (r : Nat → Bool × FlagSet) :
    predResult s c f p old r = .next (retire s c (resultDone c f (predWave c p old r) (orFlags c.execMask (fun l => (r l).2) 32)
      false fun l => if predBit c p old r l then 1 else 0)) := by
  have hlatch : latchLanes c.execMask (fun l => if (maskOf (predBit c p old r) 32).getLsbD l then 1 else 0) =
      latchLanes c.execMask fun l => if predBit c p old r l then 1 else 0 :=
    latchLanes_congr _ fun l hl => by rw [getLsbD_maskOf _ hl]
  rw [resultDone, ← hlatch]
  rfl

theorem getLsbD_getP_predWave (c : Cur) (p : Nat) (old : Bool) (r : Nat → Bool × FlagSet) (q : Nat) {l : Nat} (hl : l < 32) :
    ((predWave c p old r).getP q).getLsbD l =
      if q = p ∧ p ≠ 15 ∧ c.execMask.getLsbD l = true then predBit c p old r l else (c.wv.getP q).getLsbD l := by
  rw [predWave, getP_setP]
  by_cases hq : q = p ∧ p ≠ 15
  · obtain ⟨rfl, h15⟩ := hq
    rw [if_pos ⟨rfl, h15⟩, getLsbD_blend _ _ _ hl, getLsbD_maskOf _ hl]
    simp only [true_and, ne_eq, h15, not_false_eq_true]
  · rw [if_neg hq, if_neg fun h => hq ⟨h.1, h.2.1⟩]

theorem regsWritten_predWave (c : Cur) (p : Nat) (old : Bool) (r : Nat → Bool × FlagSet) : RegsWritten c.wv (predWave c p old r) :=
  regsWritten_setP ..

theorem predWave_v (c : Cur) (p : Nat) (old : Bool) (r : Nat → Bool × FlagSet) : (predWave c p old r).v = c.wv.v := by
  unfold predWave Wave.setP; split <;> rfl
theorem predWave_s (c : Cur) (p : Nat) (old : Bool) (r : Nat → Bool × FlagSet) : (predWave c p old r).s = c.wv.s := by
  unfold predWave Wave.setP; split <;> rfl

/-- A word whose meaning is a predicate result does what `PredWord` says of its bit in each lane. -/
theorem predWord_of_exec {i : Instr} {form : Cur → Form} {p : Nat} {old : Bool} {r : Cur → Nat → Bool × FlagSet}
    (hwrites : ∀ c, (form c).writes = { noRegs with p := [p] })
    (hexec : ∀ s c, Issues s c form → exec i s = predResult s c (form c) p old (r c)) : PredWord i form p old r := by
  intro s c h
  obtain ⟨u, honly, hkept, hmoved, hv, hs, hp, ht, hflags⟩ :=
    resultDone_retires (form c) (orFlags c.execMask (fun l => (r c l).2) 32) false (fun l => if predBit c p old (r c) l then 1 else 0)
      h.cur (regsWritten_predWave c p old (r c))
  rw [hwrites] at hmoved
  refine ⟨_, u, (hexec s c h).trans (predResult_eq_retire ..), honly, hkept, hmoved, fun q l hl => ?_,
    hv.trans (predWave_v ..), hs.trans (predWave_s ..), ht, hflags⟩
  rw [Wave.getP, hp]
  exact getLsbD_getP_predWave c p old (r c) q hl

end Sys2Proof.Machine
end

