-- ==== Sys2Proof/Proofs/VectorInteger.lean ====
section
/-! PROOFS. The vector integer words (O1, O2): the value of each as an exact integer, cut to 32 bits, clamped, shifted or masked. -/

namespace Sys2Proof.Machine

open Sys2Proof Sys2Proof.Claims

/-! ### Sums and products (R93, R94) -/

/-- The value of IADD and ISUB: the exact result, clamped with SAT and else cut to 32 bits. -/
theorem satWord_or_wrapped (sat : Bool) (v : Int) {w : Word} (hw : w = BitVec.ofInt 32 v) :
    (if sat then satWord v else pureInt w) = if sat = true ∧ v > 2 ^ 31 - 1 then (0x7FFFFFFF, flSA)
      else if sat = true ∧ v < -2 ^ 31 then (0x80000000, flSA) else (BitVec.ofInt 32 v, 0) := by
  subst hw
  cases sat with
  | false => simp [pureInt]
  | true => simp only [satWord, if_true, true_and]; rfl

theorem add_eq_ofInt (x y : Word) : x + y = BitVec.ofInt 32 (x.toInt + y.toInt) := by
  rw [BitVec.ofInt_add, BitVec.ofInt_toInt, BitVec.ofInt_toInt]

theorem sub_eq_ofInt (x y : Word) : x - y = BitVec.ofInt 32 (x.toInt - y.toInt) := by
  rw [Int.sub_eq_add_neg, BitVec.ofInt_add, BitVec.ofInt_neg, BitVec.ofInt_toInt, BitVec.ofInt_toInt, BitVec.sub_eq_add_neg]

theorem mul_eq_ofInt (x y : Word) : x * y = BitVec.ofInt 32 (x.toInt * y.toInt) := by
  rw [BitVec.ofInt_mul, BitVec.ofInt_toInt, BitVec.ofInt_toInt]

theorem mulAdd_eq_ofInt (x y z : Word) : x * y + z = BitVec.ofInt 32 (x.toInt * y.toInt + z.toInt) := by
  rw [BitVec.ofInt_add, ← mul_eq_ofInt, BitVec.ofInt_toInt]

/-- The high half of a 64-bit pattern is the quotient by 2^32. -/
theorem highHalf_ofInt (p : Int) : (BitVec.ofInt 64 p).extractLsb' 32 32 = BitVec.ofInt 32 (p / 2 ^ 32) := by
  apply BitVec.eq_of_toNat_eq
  rw [BitVec.extractLsb'_toNat, BitVec.toNat_ofInt, BitVec.toNat_ofInt, Nat.shiftRight_eq_div_pow]
  omega

theorem mulhs_eq_ofInt (x y : Word) :
    (x.signExtend 64 * y.signExtend 64).extractLsb' 32 32 = BitVec.ofInt 32 (x.toInt * y.toInt / 2 ^ 32) := by
  rw [← highHalf_ofInt, BitVec.ofInt_mul]
  rfl

theorem mulhu_eq_ofNat (x y : Word) :
    (x.zeroExtend 64 * y.zeroExtend 64).extractLsb' 32 32 = BitVec.ofNat 32 (x.toNat * y.toNat / 2 ^ 32) := by
  have hx (z : Word) : z.zeroExtend 64 = BitVec.ofNat 64 z.toNat := BitVec.eq_of_toNat_eq (by simp)
  apply BitVec.eq_of_toNat_eq
  rw [hx, hx, ← BitVec.ofNat_mul, BitVec.extractLsb'_toNat, BitVec.toNat_ofNat, BitVec.toNat_ofNat, Nat.shiftRight_eq_div_pow]
  omega

theorem imin_eq_ofInt (x y : Word) : (if x.toInt ≤ y.toInt then x else y) = BitVec.ofInt 32 (min x.toInt y.toInt) := by
  rw [Int.min_def, apply_ite (BitVec.ofInt 32), BitVec.ofInt_toInt, BitVec.ofInt_toInt]

theorem imax_eq_ofInt (x y : Word) : (if x.toInt ≤ y.toInt then y else x) = BitVec.ofInt 32 (max x.toInt y.toInt) := by
  rw [Int.max_def, apply_ite (BitVec.ofInt 32), BitVec.ofInt_toInt, BitVec.ofInt_toInt]

theorem umin_eq_ofNat (x y : Word) : (if x.toNat ≤ y.toNat then x else y) = BitVec.ofNat 32 (min x.toNat y.toNat) := by
  rw [Nat.min_def, apply_ite (BitVec.ofNat 32), BitVec.ofNat_toNat, BitVec.ofNat_toNat, BitVec.setWidth_eq, BitVec.setWidth_eq]

theorem umax_eq_ofNat (x y : Word) : (if x.toNat ≤ y.toNat then y else x) = BitVec.ofNat 32 (max x.toNat y.toNat) := by
  rw [Nat.max_def, apply_ite (BitVec.ofNat 32), BitVec.ofNat_toNat, BitVec.ofNat_toNat, BitVec.setWidth_eq, BitVec.setWidth_eq]

/-! ### Shifts and fields (R93, R97) -/

theorem shl_eq_ofNat (x y : Word) : x <<< shAmt y = BitVec.ofNat 32 (x.toNat * 2 ^ (y.toNat % 32)) :=
  BitVec.eq_of_toNat_eq (by rw [BitVec.toNat_shiftLeft, Nat.shiftLeft_eq, BitVec.toNat_ofNat]; rfl)

theorem shr_eq_ofNat (x y : Word) : x >>> shAmt y = BitVec.ofNat 32 (x.toNat / 2 ^ (y.toNat % 32)) := by
  apply BitVec.eq_of_toNat_eq
  have hlt : x.toNat / 2 ^ (y.toNat % 32) < 2 ^ 32 := Nat.lt_of_le_of_lt (Nat.div_le_self _ _) x.isLt
  rw [BitVec.toNat_ushiftRight, Nat.shiftRight_eq_div_pow, BitVec.toNat_ofNat, Nat.mod_eq_of_lt hlt]
  rfl

theorem sar_eq_ofInt (x y : Word) : x.sshiftRight (shAmt y) = BitVec.ofInt 32 (x.toInt / 2 ^ (y.toNat % 32)) := by
  rw [BitVec.sshiftRight, Int.shiftRight_eq_div_pow]
  norm_cast

theorem rotl_eq_or (x y : Word) : x.rotateLeft (shAmt y) = x <<< (y.toNat % 32) ||| x >>> (32 - y.toNat % 32) := by
  have hlt : y.toNat % 32 < 32 := Nat.mod_lt _ (by decide)
  exact BitVec.rotateLeft_eq_rotateLeftAux_of_lt hlt

/-- The width of a BFX or BFI field (R97). -/
def fieldWidth (b : Word) : Nat := if b.toNat / 32 % 32 = 0 then 32 else b.toNat / 32 % 32

theorem getLsbD_fieldMask (b : Word) {i : Nat} (hi : i < 32) :
    (fieldMask b).getLsbD i = (decide (b.toNat % 32 ≤ i) && decide (i < b.toNat % 32 + fieldWidth b)) := by
  show (BitVec.ofNat 32 ((2 ^ fieldWidth b - 1) * 2 ^ (b.toNat % 32))).getLsbD i = _
  rw [BitVec.getLsbD_ofNat, Nat.testBit_mul_two_pow, Nat.testBit_two_pow_sub_one]
  rw [Bool.eq_iff_iff]
  simp [hi]
  omega

theorem bfx_eq_ofNat (x y : Word) :
    (x &&& fieldMask y) >>> shAmt y = BitVec.ofNat 32 (x.toNat / 2 ^ (y.toNat % 32) % 2 ^ fieldWidth y) := by
  refine BitVec.eq_of_getLsbD_eq fun i hi => ?_
  rw [BitVec.getLsbD_ushiftRight, BitVec.getLsbD_and, BitVec.getLsbD_ofNat, Nat.testBit_mod_two_pow, Nat.testBit_div_two_pow]
  by_cases hin : shAmt y + i < 32
  · have hmask : (fieldMask y).getLsbD (shAmt y + i) = decide (i < fieldWidth y) := by
      rw [getLsbD_fieldMask y hin]
      simp [shAmt]
    rw [hmask, Nat.add_comm, decide_eq_true hi, Bool.true_and, Bool.and_comm]
    rfl
  · rw [BitVec.getLsbD_of_ge x _ (by omega), ← shAmt, Nat.add_comm i, BitVec.testBit_toNat, BitVec.getLsbD_of_ge x _ (by omega)]
    simp

theorem dot4i_eq_ofInt (x y z : Word) : dot4i x y z = BitVec.ofInt 32 ((byteOf x 0).toInt * (byteOf y 0).toInt +
    (byteOf x 1).toInt * (byteOf y 1).toInt + (byteOf x 2).toInt * (byteOf y 2).toInt +
    (byteOf x 3).toInt * (byteOf y 3).toInt + z.toInt) := by
  rw [BitVec.ofInt_add, BitVec.ofInt_toInt]
  rfl

end Sys2Proof.Machine

open Sys2Proof Sys2Proof.Machine Sys2Proof.Claims

/-- Settles O1: each word is a three-operand vector word whose value is an exact integer cut to 32 bits, or clamped. -/
theorem integerArithmetic : Obligations.IntegerArithmetic := by
  unfold Obligations.IntegerArithmetic
  intro n d a b
  refine ⟨?_, ?_, ?_, ?_, ?_, ?_, ?_, ?_, ?_, ?_⟩
  · exact vecWord_of_runV3 (execIadd n d a b) (fun _ => rfl) (fun _ => rfl) fun c _ => satWord_or_wrapped c.sat _ (add_eq_ofInt ..)
  · exact vecWord_of_runV3 (execIsub n d a b) (fun _ => rfl) (fun _ => rfl) fun c _ => satWord_or_wrapped c.sat _ (sub_eq_ofInt ..)
  · exact intWord_of_runV3 (execImul n d a b) (fun _ => rfl) (fun _ => rfl) mul_eq_ofInt
  · exact intWord_of_runV3 (execImulhs n d a b) (fun _ => rfl) (fun _ => rfl) mulhs_eq_ofInt
  · exact intWord_of_runV3 (execImulhu n d a b) (fun _ => rfl) (fun _ => rfl) mulhu_eq_ofNat
  · exact vecWord_of_runV3 (execImad n d a b) (fun _ => rfl) (fun _ => rfl) fun _ _ => congrArg pureInt (mulAdd_eq_ofInt ..)
  · exact intWord_of_runV3 (execImin n d a b) (fun _ => rfl) (fun _ => rfl) imin_eq_ofInt
  · exact intWord_of_runV3 (execImax n d a b) (fun _ => rfl) (fun _ => rfl) imax_eq_ofInt
  · exact intWord_of_runV3 (execUmin n d a b) (fun _ => rfl) (fun _ => rfl) umin_eq_ofNat
  · exact intWord_of_runV3 (execUmax n d a b) (fun _ => rfl) (fun _ => rfl) umax_eq_ofNat

/-- Settles O2: a shift is a product with or a quotient by a power of 2, and a field is what its mask selects
(`getLsbD_fieldMask`). -/
theorem integerLogicAndShifts : Obligations.IntegerLogicAndShifts := by
  unfold Obligations.IntegerLogicAndShifts
  intro n d a b
  refine ⟨?_, ?_, ?_, ?_, ?_, ?_, ?_, ?_, ?_, ?_, ?_⟩
  · exact intWord_of_runV3 (execAnd n d a b) (fun _ => rfl) (fun _ => rfl) fun _ _ => rfl
  · exact intWord_of_runV3 (execOr n d a b) (fun _ => rfl) (fun _ => rfl) fun _ _ => rfl
  · exact intWord_of_runV3 (execXor n d a b) (fun _ => rfl) (fun _ => rfl) fun _ _ => rfl
  · exact intWord_of_runV3 (execAndn n d a b) (fun _ => rfl) (fun _ => rfl) fun _ _ => rfl
  · exact intWord_of_runV3 (execShl n d a b) (fun _ => rfl) (fun _ => rfl) shl_eq_ofNat
  · exact intWord_of_runV3 (execShr n d a b) (fun _ => rfl) (fun _ => rfl) shr_eq_ofNat
  · exact intWord_of_runV3 (execSar n d a b) (fun _ => rfl) (fun _ => rfl) sar_eq_ofInt
  · exact intWord_of_runV3 (execRotl n d a b) (fun _ => rfl) (fun _ => rfl) rotl_eq_or
  · exact intWord_of_runV3 (execBfx n d a b) (fun _ => rfl) (fun _ => rfl) bfx_eq_ofNat
  · exact vecWord_of_runV3 (execBfi n d a b) (fun _ => rfl) (fun _ => rfl) fun _ _ => rfl
  · exact vecWord_of_runV3 (execDot4i n d a b) (fun _ => rfl) (fun _ => rfl) fun _ _ => congrArg pureInt (dot4i_eq_ofInt ..)
end

