-- ==== Sys2Proof/Proofs/VectorFloat.lean ====
section
/-! PROOFS. The vector floating-point words: sums, products, FMIN and FMAX (O4), packed pairs and dot products (O5), and why the
statement about FUN (O3) fails. -/

namespace Sys2Proof.Machine

open Sys2Proof Sys2Proof.Claims

/-! ### RINT under a draw that is no 16-bit number -/

/-- Of a draw of 16 bits an exact value stays as it is (R70); one of 65536 carries into it, and RINT of +0 is 1. -/
theorem rint_zero_of_wideDraw : funWord 5 (.sr 65536) 0 = (0x3F800000, 0) := by decide

/-! ### The lesser and the greater of two numbers (R66, R102) -/

/-- The place of an FP32 number among the others, −0 just below +0. -/
def floatRank (w : Word) : Int := if w.msb then -(w.toNat % 2 ^ 31 : Nat) - 1 else (w.toNat % 2 ^ 31 : Nat)

/-- The comparison that FMIN and FMAX make. -/
def floatLess (x y : Word) : Bool := decide (orderKey x < orderKey y) || (decide (orderKey x = orderKey y) && x.msb)

theorem floatRank_injective {x y : Word} (h : floatRank x = floatRank y) : x = y := by
  apply BitVec.eq_of_toNat_eq
  have hx := x.isLt
  have hy := y.isLt
  simp only [floatRank, BitVec.msb_eq_decide, decide_eq_true_eq] at h
  split at h <;> split at h <;> omega

theorem floatLess_iff (x y : Word) :
    floatLess x y = true ↔ orderKey x < orderKey y ∨ orderKey x = orderKey y ∧ x.msb = true := by
  simp [floatLess]

theorem floatLess_of_rank_lt {x y : Word} (h : floatRank x < floatRank y) : floatLess x y = true := by
  rw [floatLess_iff]
  unfold floatRank at h
  unfold orderKey
  grind

theorem rank_le_of_floatLess {x y : Word} (h : floatLess x y = true) : floatRank x ≤ floatRank y := by
  rw [floatLess_iff] at h
  unfold orderKey at h
  unfold floatRank
  grind

theorem fminmax_flags (k : Bool) (x y : Word) : (fminmax k x y).2 = flIf ((f32 x).isSig || (f32 y).isSig) flNV := by
  unfold fminmax
  dsimp only
  repeat' split
  all_goals rfl

/-- Which operand a comparison of two numbers delivers; it sets no flag. -/
theorem fminmax_of_numbers (k : Bool) {x y : Word} (hx : (f32 x).isNaN = false) (hy : (f32 y).isNaN = false) :
    fminmax k x y = (if floatRank x ≤ floatRank y then (if k then y else x) else (if k then x else y), 0) := by
  have hquiet {z : Word} (hz : (f32 z).isNaN = false) : (f32 z).isSig = false :=
    Bool.eq_false_iff.2 fun hs => Bool.eq_false_iff.1 hz (Num.isNaN_of_isSig hs)
  have hval : fminmax k x y = (if (floatLess x y != k) = true then x else y, 0) := by
    simp [fminmax, hx, hy, hquiet hx, hquiet hy, floatLess, flIf]
  rw [hval]
  rcases Int.lt_trichotomy (floatRank x) (floatRank y) with hlt | heq | hgt
  · rw [floatLess_of_rank_lt hlt, if_pos (Int.le_of_lt hlt)]
    cases k <;> rfl
  · obtain rfl := floatRank_injective heq
    simp
  · rw [Bool.eq_false_iff.2 (mt rank_le_of_floatLess (Int.not_le.2 hgt)), if_neg (Int.not_le.2 hgt)]
    cases k <;> rfl

theorem fminmax_of_nans (k : Bool) {x y : Word} (hx : (f32 x).isNaN = true) (hy : (f32 y).isNaN = true) :
    (fminmax k x y).1 = 0x7FC00000 := by simp [fminmax, hx, hy]
theorem fminmax_of_nan_left (k : Bool) {x y : Word} (hx : (f32 x).isNaN = true) (hy : (f32 y).isNaN = false) :
    (fminmax k x y).1 = y := by simp [fminmax, hx, hy]
theorem fminmax_of_nan_right (k : Bool) {x y : Word} (hx : (f32 x).isNaN = false) (hy : (f32 y).isNaN = true) :
    (fminmax k x y).1 = x := by simp [fminmax, hx, hy]

theorem f32_isNaN_eq_false_iff (x : Word) : (f32 x).isNaN = false ↔ ¬ x.toNat % 2 ^ 31 > 0x7F800000 := by
  rw [← Bool.not_eq_true, f32_isNaN_iff]

theorem f32_isSig_eq_false_iff (x : Word) :
    (f32 x).isSig = false ↔ ¬ (x.toNat % 2 ^ 31 > 0x7F800000 ∧ x.getLsbD 22 = false) := by
  rw [← Bool.not_eq_true, f32_isSig_iff]

end Sys2Proof.Machine

open Sys2Proof Sys2Proof.Machine Sys2Proof.Claims

/-- Refutes O3: its clauses about FUN speak of every rounding mode, and so of stochastic rounding with a draw of 65536, which
is no 16-bit number (R70): under it RINT of +0 is not +0 (`rint_zero_of_wideDraw`). No XC gives FUN such a mode. -/
theorem not_unaryAndImmediate : ¬ Obligations.UnaryAndImmediate := by
  unfold Obligations.UnaryAndImmediate
  rintro ⟨-, -, hfun⟩
  obtain ⟨-, -, -, -, -, -, hzero, -⟩ := hfun (.sr 65536) 0
  obtain ⟨hkeeps, -⟩ := hzero rfl
  have hrint := hkeeps 5 (by decide) (by decide)
  rw [rint_zero_of_wideDraw] at hrint
  exact absurd hrint (by decide)

/-- Settles O4: each word is a three-operand vector word, and the order of FMIN and FMAX is that of `floatRank`. -/
theorem floatingPoint : Obligations.FloatingPoint := by
  unfold Obligations.FloatingPoint
  refine ⟨fun n d a b => ⟨?_, ?_, ?_, ?_, ?_, ?_, ?_⟩, ?_⟩
  · exact vecWord_of_runV3 (execFadd n d a b) (fun _ => rfl) (fun _ => rfl) fun _ _ => rfl
  · exact vecWord_of_runV3 (execFsub n d a b) (fun _ => rfl) (fun _ => rfl) fun _ _ => rfl
  · exact vecWord_of_runV3 (execFmul n d a b) (fun _ => rfl) (fun _ => rfl) fun _ _ => rfl
  · exact vecWord_of_runV3 (execFfma n d a b) (fun _ => rfl) (fun _ => rfl) fun _ _ => rfl
  · exact vecWord_of_runV3 (execFmin n d a b) (fun _ => rfl) (fun _ => rfl) fun _ _ => rfl
  · exact vecWord_of_runV3 (execFmax n d a b) (fun _ => rfl) (fun _ => rfl) fun _ _ => rfl
  · exact vecWord_of_runV3 (execLdexp n d a b) (fun _ => rfl) (fun _ => rfl) fun _ _ => rfl
  · intro x y nan sig ord
    refine ⟨fun hx hy => ?_, fun k => ⟨fun hx hy => ?_, fun hx hy => ?_, fun hx hy => ?_, fun hsig => ?_, fun hx hy => ?_⟩⟩
    · have hx' := (f32_isNaN_eq_false_iff x).2 hx
      have hy' := (f32_isNaN_eq_false_iff y).2 hy
      exact ⟨fminmax_of_numbers false hx' hy', fminmax_of_numbers true hx' hy'⟩
    · exact fminmax_of_nans k ((f32_isNaN_iff x).2 hx) ((f32_isNaN_iff y).2 hy)
    · exact fminmax_of_nan_left k ((f32_isNaN_iff x).2 hx) ((f32_isNaN_eq_false_iff y).2 hy)
    · exact fminmax_of_nan_right k ((f32_isNaN_eq_false_iff x).2 hx) ((f32_isNaN_iff y).2 hy)
    · have hany : ((f32 x).isSig || (f32 y).isSig) = true := by
        rw [Bool.or_eq_true, f32_isSig_iff, f32_isSig_iff]
        exact hsig
      rw [fminmax_flags, hany]
      rfl
    · rw [fminmax_flags, (f32_isSig_eq_false_iff x).2 hx, (f32_isSig_eq_false_iff y).2 hy]
      rfl

/-- Settles O5: each word is a three-operand vector word; a packed sum or product delivers `packedPair`, a dot product one
rounded sum of its exact products and C. -/
theorem packedAndDot : Obligations.PackedAndDot := by
  unfold Obligations.PackedAndDot
  intro n d a b
  refine ⟨?_, ?_, ?_, ?_, ?_, ?_, ?_, ?_⟩
  · exact vecWord_of_runV3 (execBadd2 n d a b) (fun _ => rfl) (fun _ => rfl) fun _ _ => rfl
  · exact vecWord_of_runV3 (execBmul2 n d a b) (fun _ => rfl) (fun _ => rfl) fun _ _ => rfl
  · exact vecWord_of_runV3 (execBfma2 n d a b) (fun _ => rfl) (fun _ => rfl) fun _ _ => rfl
  · exact vecWord_of_runV3 (execHadd2 n d a b) (fun _ => rfl) (fun _ => rfl) fun _ _ => rfl
  · exact vecWord_of_runV3 (execHmul2 n d a b) (fun _ => rfl) (fun _ => rfl) fun _ _ => rfl
  · exact vecWord_of_runV3 (execHfma2 n d a b) (fun _ => rfl) (fun _ => rfl) fun _ _ => rfl
  · exact vecWord_of_runV3 (execDot2b n d a b) (fun _ => rfl) (fun _ => rfl) fun _ _ => rfl
  · exact vecWord_of_runV3 (execDot4f8 n d a b) (fun _ => rfl) (fun _ => rfl) fun _ _ => rfl
end

