-- ==== Sys2Proof/Proofs/VectorCompare.lean ====
section
/-! PROOFS. Compares, votes and SEL (O6): the bit of an integer condition, and what a vote says of the lanes that execute. -/

namespace Sys2Proof.Machine

open Sys2Proof Sys2Proof.Claims

/-! ### Conditions of an integer compare (R49) -/

theorem icond_opposite {k : Nat} (hk : k < 10) (a b : Word) :
    icond (if k < 2 then 1 - k else if k < 6 then 7 - k else 15 - k) a b = !icond k a b := by
  obtain rfl | rfl | rfl | rfl | rfl | rfl | rfl | rfl | rfl | rfl :
    k = 0 ∨ k = 1 ∨ k = 2 ∨ k = 3 ∨ k = 4 ∨ k = 5 ∨ k = 6 ∨ k = 7 ∨ k = 8 ∨ k = 9 := by omega
  all_goals simp [icond, bne, ← decide_not]

/-! ### Conditions of a vote (R124) -/

theorem mask_and_eq_zero_iff (e q : Mask) : e &&& q = 0 ↔ ∀ l : Nat, e.getLsbD l = true → q.getLsbD l = false := by
  constructor
  · intro h l hl
    have hbit : (e &&& q).getLsbD l = false := by rw [h]; exact BitVec.getLsbD_zero
    simpa [hl] using hbit
  · refine fun h => BitVec.eq_of_getLsbD_eq fun l _ => ?_
    rw [BitVec.getLsbD_and]
    cases he : e.getLsbD l with
    | false => exact BitVec.getLsbD_zero.symm
    | true => exact (h l he).trans BitVec.getLsbD_zero.symm

theorem mask_and_not_eq_zero_iff (e q : Mask) : e &&& ~~~q = 0 ↔ ∀ l : Nat, e.getLsbD l = true → q.getLsbD l = true := by
  rw [mask_and_eq_zero_iff]
  refine forall_congr' fun l => imp_congr_right fun hl => ?_
  have hlt : l < 32 := BitVec.lt_of_getLsbD hl
  simp [hlt]

theorem voteBit_any (e q : Mask) : voteBit 0 e q = true ↔ ∃ l : Nat, e.getLsbD l = true ∧ q.getLsbD l = true := by
  simp only [voteBit, decide_eq_true_eq, ne_eq, mask_and_eq_zero_iff, Classical.not_forall, Bool.not_eq_false, exists_prop]

theorem voteBit_all (e q : Mask) : voteBit 1 e q = true ↔ ∀ l : Nat, e.getLsbD l = true → q.getLsbD l = true := by
  simp only [voteBit, decide_eq_true_eq, mask_and_not_eq_zero_iff]

theorem voteBit_uniform (e q : Mask) : voteBit 2 e q = true ↔
    ∀ j l : Nat, e.getLsbD j = true → e.getLsbD l = true → q.getLsbD j = q.getLsbD l := by
  simp only [voteBit, Bool.or_eq_true, decide_eq_true_eq]
  rw [mask_and_not_eq_zero_iff, mask_and_eq_zero_iff]
  constructor
  · rintro (hnone | hall) j l hj hl
    · rw [hnone j hj, hnone l hl]
    · rw [hall j hj, hall l hl]
  · intro h
    by_cases hsome : ∃ j : Nat, e.getLsbD j = true ∧ q.getLsbD j = true
    · obtain ⟨j, hj, hq⟩ := hsome
      exact .inr fun l hl => (h j l hj hl).symm.trans hq
    · exact .inl fun l hl => by simpa using fun hq => hsome ⟨l, hl, hq⟩

end Sys2Proof.Machine

open Sys2Proof Sys2Proof.Machine Sys2Proof.Claims

/-- Settles O6: the three compares and votes are predicate words, SEL is a vector word, and each condition is read from its
definition. -/
theorem comparesAndSelect : Obligations.ComparesAndSelect := by
  unfold Obligations.ComparesAndSelect
  refine ⟨⟨fun k p old a b => ?_, fun k p old a b => ?_, fun k p old q => ?_, fun n d a b => ?_⟩, fun a b => ?_, fun e q =>
    ⟨voteBit_any e q, voteBit_all e q, voteBit_uniform e q⟩⟩
  · refine predWord_of_exec (fun _ => rfl) fun s c h => ?_
    show execIcmp k p old a b s = _
    rw [execIcmp, runWord_go h]
    rfl
  · refine predWord_of_exec (fun _ => rfl) fun s c h => ?_
    show execFcmp k p old a b s = _
    rw [execFcmp, runWord_go h]
    rfl
  · refine predWord_of_exec (fun _ => rfl) fun s c h => ?_
    show execVote k p old q s = _
    rw [execVote, runWord_go h]
  · refine vecWordIn_of_exec (fun _ => rfl) fun s c h => ?_
    show execSel n d a b s = _
    rw [execSel, runWord_go h]
    rfl
  · have heq : icond 0 a b = decide (a = b) := rfl
    have hne : icond 1 a b = decide (a ≠ b) := by
      rw [decide_not, ← heq]
      rfl
    refine ⟨heq, hne, rfl, rfl, rfl, rfl, rfl, rfl, rfl, rfl, fun k hk => ?_⟩
    rw [icond_opposite hk]
    exact mt (Bool.eq_not_self _).1 id
end

