-- ==== Sys2Proof/Proofs/ResultWords.lean ====
section
/-! PROOFS. The effect of a word from its meaning, for each way a result is written: one vector register, several of them, or
one S register (R88, R108). -/

namespace Sys2Proof.Machine

open Sys2Proof Sys2Proof.Claims

/-- A vector word of meaning `m`, by its value in each lane. -/
theorem vecWordIn_of_runWord {slot1 : Bool} {i : Instr} {form : Cur → Form} {n : Bool} {d : Nat} {r : Cur → Nat → Word × FlagSet}
    (m : State → Out) (hexec : ∀ s, exec i s = m s)
    (hm : ∀ s, m s = runWord s form fun c f => vecResult s c f slot1 n d (r c))
    (hwrites : ∀ c, (form c).writes = { noRegs with v := if n then [] else [d] }) : VecWordIn slot1 1 i form n d r :=
  vecWordIn_of_exec hwrites fun s _ h => by rw [hexec, hm, runWord_go h]

/-! ### Words that write one S register -/

theorem regsWritten_setS (w : Wave) (n : Nat) (x : Word) : RegsWritten w (w.setS n x) := rfl

theorem scalarResult_eq_retire (s : State) (c : Cur) (f : Form) (d : Nat) (r : Word) (fl : FlagSet) :
    scalarResult s c f d r fl = .next (retire s c (resultDone c f (c.wv.setS d r) fl false fun _ => r)) := rfl

/-- A word of meaning `m` that delivers `r` to S[d] does what `ScalarResult` says. -/
theorem scalarResult_of_runWord {i : Instr} {form : Cur → Form} {d : Cur → Nat} {r : Cur → Word × FlagSet}
    (m : State → Out) (hexec : ∀ s, exec i s = m s)
    (hm : ∀ s, m s = runWord s form fun c f => scalarResult s c f (d c) (r c).1 (r c).2)
    (hwrites : ∀ c, (form c).writes = { noRegs with s := [d c] }) : ScalarResult i form d r := by
  intro s c h
  obtain ⟨u, honly, hkept, hmoved, hv, hs, hp, ht, hflags⟩ := resultDone_retires (form c) (r c).2 false (fun _ => (r c).1)
    h.cur (regsWritten_setS c.wv (d c) (r c).1)
  rw [hwrites] at hmoved
  refine ⟨_, u, ?_, honly, hkept, hmoved, fun k => ?_, hv, hp, ht, hflags⟩
  · rw [hexec, hm, runWord_go h, scalarResult_eq_retire]
  · rw [← getS_setS, Wave.getS, hs]
    rfl

/-! ### Words that write several vector registers -/

/-- The wave after the results `g 0`, ..., `g (k - 1)` in the registers from V[d] (R108). -/
def multiWave (c : Cur) (d k : Nat) (g : Nat → Nat → Word × FlagSet) : Wave :=
  (List.range k).foldl (fun w j => w.setV (d + j) c.execMask fun l => (g j l).1) c.wv

/-- The flags of those results. -/
def multiFlags (m : Mask) (k : Nat) (g : Nat → Nat → Word × FlagSet) : FlagSet :=
  (List.range k).foldl (fun x j => x ||| orFlags m (fun l => (g j l).2) 32) 0

theorem multiResult_eq_retire (s : State) (c : Cur) (f : Form) (d k : Nat) (g : Nat → Nat → Word × FlagSet) :
    multiResult s c f d k g =
      .next (retire s c (resultDone c f (multiWave c d k g) (multiFlags c.execMask k g) false fun l => (g 0 l).1)) := rfl

theorem multiWave_succ (c : Cur) (d k : Nat) (g : Nat → Nat → Word × FlagSet) :
    multiWave c d (k + 1) g = (multiWave c d k g).setV (d + k) c.execMask fun l => (g k l).1 := by
  simp [multiWave, List.range_succ]

theorem multiFlags_succ (m : Mask) (k : Nat) (g : Nat → Nat → Word × FlagSet) :
    multiFlags m (k + 1) g = multiFlags m k g ||| orFlags m (fun l => (g k l).2) 32 := by
  simp [multiFlags, List.range_succ]

/-- Results in vector registers change nothing else of the wave. -/
theorem multiWave_eq (c : Cur) (d k : Nat) (g : Nat → Nat → Word × FlagSet) :
    multiWave c d k g = { c.wv with v := (multiWave c d k g).v } := by
  induction k with
  | zero => rfl
  | succ k ih =>
    rw [multiWave_succ, ih]
    rfl

theorem regsWritten_multiWave (c : Cur) (d k : Nat) (g : Nat → Nat → Word × FlagSet) : RegsWritten c.wv (multiWave c d k g) := by
  rw [RegsWritten, multiWave_eq]

theorem vLane_multiWave (c : Cur) (d k : Nat) (g : Nat → Nat → Word × FlagSet) (q : Nat) {l : Nat} (hl : l < 32) :
    vLane (multiWave c d k g).v q l =
      if d ≤ q ∧ q < d + k ∧ c.execMask.getLsbD l = true then (g (q - d) l).1 else vLane c.wv.v q l := by
  induction k with
  | zero => rw [if_neg (by omega)]; rfl
  | succ k ih =>
    rw [multiWave_succ, vLane_setV _ _ _ _ _ _ hl, ih]
    by_cases hq : q = d + k
    · subst hq
      simp
    · have hlt : q < d + (k + 1) ↔ q < d + k := by omega
      simp only [hq, hlt, false_and, if_false]

theorem getLsbD_multiFlags (m : Mask) (k : Nat) (g : Nat → Nat → Word × FlagSet) (b : Nat) :
    (multiFlags m k g).getLsbD b = (List.range k).any fun j => (orFlags m (fun l => (g j l).2) 32).getLsbD b := by
  induction k with
  | zero => exact BitVec.getLsbD_zero
  | succ k ih => simp [multiFlags_succ, List.range_succ, ih]

/-- A word of meaning `m` that delivers `r 0`, ..., `r (k - 1)` to the registers from V[d] does what `MultiWord` says. -/
theorem multiWord_of_runWord {i : Instr} {form : Cur → Form} {d k : Nat} {r : Cur → Nat → Nat → Word × FlagSet}
    (m : State → Out) (hexec : ∀ s, exec i s = m s)
    (hm : ∀ s, m s = runWord s form fun c f => multiResult s c f d k (r c))
    (hwrites : ∀ c, (form c).writes = { noRegs with v := List.range' d k }) : MultiWord true i form d k Cur.execMask r := by
  intro s c h
  obtain ⟨u, honly, hkept, hmoved, hv, hs, hp, ht, hflags⟩ := resultDone_retires (form c) (multiFlags c.execMask k (r c)) false
    (fun l => (r c 0 l).1) h.cur (regsWritten_multiWave c d k (r c))
  rw [hwrites] at hmoved
  rw [multiWave_eq] at hs hp
  refine ⟨_, u, ?_, honly, hkept, hmoved, fun q l hl => ?_, hs, hp, ht, fun b => ?_⟩
  · rw [hexec, hm, runWord_go h, multiResult_eq_retire]
  · rw [hv, vLane_multiWave c d k (r c) q hl]
  · rw [hflags, BitVec.getLsbD_or, getLsbD_multiFlags]

end Sys2Proof.Machine
end

