-- ==== Sys2Proof/Proofs/LaneExchange.lean ====
section
/-! PROOFS. Words that pass values between lanes, and between lanes and S registers (O8), with the sender that PERM finds for a
lane (R123). -/

namespace Sys2Proof.Machine

open Sys2Proof Sys2Proof.Claims

/-! ### PERM's sender of a lane (R123) -/

/-- Lane k executes PERM and its B names lane l. -/
def sendsTo (c : Cur) (b l k : Nat) : Prop := c.execMask.getLsbD k = true ∧ (c.opnd false 1 b k).toNat = l

/-- Of the first n lanes, the sender is the highest of those that send. -/
theorem permSender_spec (c : Cur) (b l n : Nat) :
    (∀ j, permSender c b l n = some j → j < n ∧ sendsTo c b l j ∧ ∀ k, j < k → k < n → ¬ sendsTo c b l k) ∧
      (permSender c b l n = none → ∀ k, k < n → ¬ sendsTo c b l k) := by
  induction n with
  | zero => exact ⟨by simp [permSender], by simp⟩
  | succ n ih =>
    obtain ⟨hsome, hnone⟩ := ih
    have htest : (c.execMask.getLsbD n && (c.opnd false 1 b n).toNat == l) = true ↔ sendsTo c b l n := by
      simp [sendsTo]
    rw [permSender]
    by_cases hn : sendsTo c b l n
    · rw [if_pos (htest.2 hn)]
      refine ⟨fun j hj => ?_, fun h => nomatch h⟩
      obtain rfl := Option.some.inj hj
      exact ⟨Nat.lt_succ_self _, hn, fun k hlo hhi => by omega⟩
    · rw [if_neg (mt htest.1 hn)]
      refine ⟨fun j hj => ?_, fun h k hk => ?_⟩
      · obtain ⟨hlt, hsends, hlast⟩ := hsome j hj
        refine ⟨Nat.lt_succ_of_lt hlt, hsends, fun k hlo hhi => ?_⟩
        rcases Nat.lt_succ_iff_lt_or_eq.1 hhi with hk | rfl
        · exact hlast k hlo hk
        · exact hn
      · rcases Nat.lt_succ_iff_lt_or_eq.1 hk with hk | rfl
        · exact hnone h k hk
        · exact hn

end Sys2Proof.Machine

open Sys2Proof Sys2Proof.Machine Sys2Proof.Claims

/-- Settles O8: each word is a vector or a scalar word of its value, and PERM's sender is the highest lane that sends
(`permSender_spec`). -/
theorem laneExchange : Obligations.LaneExchange := by
  unfold Obligations.LaneExchange
  refine ⟨fun n d a b => ⟨?_, ?_, fun p => ?_, ?_, ?_, fun l => ?_, ?_⟩, fun c b l => ?_⟩
  · exact vecWordIn_of_runWord (execShfl n d a b) (fun _ => rfl) (fun _ => rfl) fun _ => rfl
  · exact vecWordIn_of_runWord (execPerm n d a b) (fun _ => rfl) (fun _ => rfl) fun _ => rfl
  · exact scalarResult_of_runWord (execBallot d p) (fun _ => rfl) (fun _ => rfl) fun _ => rfl
  · exact scalarResult_of_runWord (execWred d a b) (fun _ => rfl) (fun _ => rfl) fun _ => rfl
  · exact vecWordIn_of_runWord (execWscan n d a b) (fun _ => rfl) (fun _ => rfl) fun _ => rfl
  · exact scalarResult_of_runWord (execV2s d a l) (fun _ => rfl) (fun _ => rfl) fun _ => rfl
  · exact vecWordIn_of_runWord (execS2v n d a) (fun _ => rfl) (fun _ => rfl) fun _ => rfl
  · obtain ⟨hsome, hnone⟩ := permSender_spec c b l 32
    refine ⟨fun j hj => ?_, fun h k hk hm hto => hnone h k hk ⟨hm, hto⟩⟩
    obtain ⟨hlt, ⟨hm, hto⟩, hlast⟩ := hsome j hj
    exact ⟨hlt, hm, hto, fun k hlo hhi hk hto => hlast k hlo hhi ⟨hk, hto⟩⟩
end

