-- ==== Sys2Proof/Proofs/RoundingUp.lean ====
section
/-! PROOFS. Rounding up to FP32 (R67): the word delivered is the least number that is not below the exact value. The values of
FP32 numbers are integers in units of 2^-200, and an exact quotient is compared with them by cross multiplication. -/

namespace Sys2Proof.Machine

open Sys2Proof

/-! ### The binade of a quotient -/

/-- `ratLog2` takes 1 from the difference of the places of the leading bits when the quotient is below that power of 2. -/
theorem ratLog2_eq (num den : Nat) : ratLog2 num den =
    (num.log2 : Int) - den.log2 - if num * 2 ^ den.log2 < den * 2 ^ num.log2 then 1 else 0 := by
  have htest : (if num.log2 ≥ den.log2 then decide (num < den <<< (num.log2 - den.log2))
      else decide (num <<< (den.log2 - num.log2) < den)) = decide (num * 2 ^ den.log2 < den * 2 ^ num.log2) := by
    rcases Nat.lt_or_ge num.log2 den.log2 with hlt | hge
    · have hpow : 2 ^ den.log2 = 2 ^ (den.log2 - num.log2) * 2 ^ num.log2 := by
        rw [← Nat.pow_add, Nat.sub_add_cancel (Nat.le_of_lt hlt)]
      rw [if_neg (Nat.not_le.2 hlt), decide_eq_decide, Nat.shiftLeft_eq, hpow, ← Nat.mul_assoc,
        Nat.mul_lt_mul_right (Nat.two_pow_pos _)]
    · have hpow : 2 ^ num.log2 = 2 ^ (num.log2 - den.log2) * 2 ^ den.log2 := by
        rw [← Nat.pow_add, Nat.sub_add_cancel hge]
      rw [if_pos hge, decide_eq_decide, Nat.shiftLeft_eq, hpow, ← Nat.mul_assoc, Nat.mul_lt_mul_right (Nat.two_pow_pos _)]
  rw [ratLog2, htest]
  simp only [decide_eq_true_eq]

/-- The quotient of two positive numbers is not below the power of 2 that `ratLog2` gives, and below twice that power. -/
theorem ratLog2_bounds {num den i j : Nat} (hnum : 0 < num) (hden : 0 < den) (h : ratLog2 num den = (i : Int) - j) :
    den * 2 ^ i ≤ num * 2 ^ j ∧ num * 2 ^ j < den * 2 ^ (i + 1) := by
  have hnlo := Nat.log2_self_le (Nat.ne_of_gt hnum)
  have hnhi := Nat.lt_log2_self (n := num)
  have hdlo := Nat.log2_self_le (Nat.ne_of_gt hden)
  have hdhi := Nat.lt_log2_self (n := den)
  rw [ratLog2_eq] at h
  generalize num.log2 = a at *
  generalize den.log2 = b at *
  -- both sides times 2^b or 2^(b + 1), where they are multiples of 2^j
  split at h
  next hlt =>
    have hexp : i + (b + 1) = a + j := by omega
    constructor
    · refine Nat.le_of_mul_le_mul_right (c := 2 ^ (b + 1)) ?_ (Nat.two_pow_pos _)
      rw [Nat.mul_assoc, ← Nat.pow_add, hexp, Nat.pow_add, ← Nat.mul_assoc, Nat.mul_right_comm num]
      refine Nat.mul_le_mul_right _ ?_
      rw [Nat.mul_comm num]
      exact Nat.mul_le_mul (Nat.le_of_lt hdhi) hnlo
    · refine Nat.lt_of_mul_lt_mul_right (a := 2 ^ b) ?_
      rw [Nat.mul_assoc, Nat.mul_assoc, ← Nat.pow_add, ← Nat.pow_add, show i + 1 + b = a + j by omega, Nat.pow_add, Nat.pow_add,
        Nat.mul_comm (2 ^ j), ← Nat.mul_assoc, ← Nat.mul_assoc]
      exact Nat.mul_lt_mul_of_pos_right hlt (Nat.two_pow_pos _)
  next hge =>
    have hexp : i + b = a + j := by omega
    constructor
    · refine Nat.le_of_mul_le_mul_right (c := 2 ^ b) ?_ (Nat.two_pow_pos _)
      rw [Nat.mul_assoc, ← Nat.pow_add, hexp, Nat.pow_add, ← Nat.mul_assoc, Nat.mul_right_comm num]
      exact Nat.mul_le_mul_right _ (Nat.not_lt.1 hge)
    · refine Nat.lt_of_mul_lt_mul_right (a := 2 ^ b) ?_
      rw [Nat.mul_assoc den, ← Nat.pow_add, show i + 1 + b = a + 1 + j by omega, Nat.pow_add, ← Nat.mul_assoc, Nat.mul_right_comm num,
        Nat.mul_comm den]
      exact Nat.mul_lt_mul_of_pos_right (Nat.mul_lt_mul_of_lt_of_le hnhi hdlo hden) (Nat.two_pow_pos _)

/-- Of a natural number the binade is the place of its leading bit. -/
theorem ratLog2_one (m : Nat) (h : 0 < m) : ratLog2 m 1 = m.log2 := by
  have hone : Nat.log2 1 = 0 := by decide
  have hle := Nat.log2_self_le (Nat.ne_of_gt h)
  rw [ratLog2_eq, hone, if_neg (by omega)]
  omega

/-! ### A magnitude rounded up in units of a power of 2 -/

/-- The quotient that `scaleTo` gives is the value in units of 2^q; `s` is any place below both exponents. -/
theorem scaleTo_ratio (num den : Nat) {e q s : Int} (he : s ≤ e) (hq : s ≤ q) :
    (scaleTo num den e q).1 * (den * 2 ^ (q - s).toNat) = num * 2 ^ (e - s).toNat * (scaleTo num den e q).2 := by
  unfold scaleTo
  split
  next hge =>
    have hexp : (e - s).toNat = (e - q).toNat + (q - s).toNat := by omega
    rw [hexp, Nat.shiftLeft_eq, Nat.pow_add]
    dsimp only
    generalize 2 ^ (e - q).toNat = a, 2 ^ (q - s).toNat = b
    rw [← Nat.mul_assoc num, Nat.mul_assoc _ b, Nat.mul_comm b]
  next hlt =>
    have hexp : (q - s).toNat = (q - e).toNat + (e - s).toNat := by omega
    rw [hexp, Nat.shiftLeft_eq, Nat.pow_add]
    dsimp only
    generalize 2 ^ (q - e).toNat = a, 2 ^ (e - s).toNat = b
    rw [Nat.mul_comm a b, Nat.mul_left_comm den, ← Nat.mul_assoc num]

theorem scaleTo_den_pos (num : Nat) {den : Nat} (hden : 0 < den) (e q : Int) : 0 < (scaleTo num den e q).2 := by
  unfold scaleTo
  split
  · exact hden
  · exact Nat.shiftLeft_eq .. ▸ Nat.mul_pos hden (Nat.two_pow_pos _)

/-- The least number of units that is not below a quotient. -/
theorem ceilDiv_bounds (n : Nat) {d : Nat} (hd : 0 < d) :
    let t := if n % d ≠ 0 then n / d + 1 else n / d
    n ≤ t * d ∧ t * d < n + d ∧ (n % d = 0 ↔ n = t * d) := by
  have hdiv := Nat.div_add_mod' n d
  have hmod := Nat.mod_lt n hd
  intro t
  by_cases hrem : n % d = 0
  · have ht : t = n / d := if_neg (fun h => h hrem)
    rw [ht]
    omega
  · have ht : t * d = n / d * d + d := by rw [show t = n / d + 1 from if_pos hrem, Nat.succ_mul]
    omega

/-- Rounded up in units of 2^q, a value `n / d` of them becomes the least number of units that is not below it. -/
theorem roundAt_up {num den n d : Nat} {e q : Int} (hden : 0 < den) (hd : 0 < d)
    (hratio : (scaleTo num den e q).1 * d = n * (scaleTo num den e q).2) :
    let r := roundAt .ru false num den e q
    n ≤ r.1 * d ∧ r.1 * d < n + d ∧ (r.2 = true ↔ n = r.1 * d) := by
  have hr : roundAt .ru false num den e q =
      (if (scaleTo num den e q).1 % (scaleTo num den e q).2 ≠ 0 then (scaleTo num den e q).1 / (scaleTo num den e q).2 + 1
        else (scaleTo num den e q).1 / (scaleTo num den e q).2,
        decide ((scaleTo num den e q).1 % (scaleTo num den e q).2 = 0)) := by
    simp only [roundAt, roundsUp, Bool.not_false, Bool.and_true, decide_eq_true_eq]
  have hpos := scaleTo_den_pos num hden e q
  generalize scaleTo num den e q = u at hratio hr hpos
  obtain ⟨a, b⟩ := u
  dsimp only at hratio hr hpos
  obtain ⟨hle, hlt, hwhole⟩ := ceilDiv_bounds a hpos
  rw [hr]
  dsimp only
  generalize (if a % b ≠ 0 then a / b + 1 else a / b) = t at hle hlt hwhole ⊢
  -- times b, where n * b is a * d
  have hswap : t * d * b = t * b * d := Nat.mul_right_comm ..
  refine ⟨Nat.le_of_mul_le_mul_right (c := b) ?_ hpos, Nat.lt_of_mul_lt_mul_right (a := b) ?_, ?_⟩
  · rw [← hratio, hswap]
    exact Nat.mul_le_mul_right d hle
  · rw [Nat.add_mul, ← hratio, hswap, Nat.mul_comm d b, ← Nat.add_mul]
    exact Nat.mul_lt_mul_of_pos_right hlt hd
  · rw [decide_eq_true_eq, hwhole]
    exact ⟨fun h => Nat.eq_of_mul_eq_mul_right hpos (by rw [← hratio, hswap, h]),
      fun h => Nat.eq_of_mul_eq_mul_right hd (by rw [hratio, h, hswap])⟩

/-! ### FP32 magnitudes in the order of their bits (R62) -/

/-- The value of the magnitude bits of an FP32 number, in units of 2^-200. -/
def magUnits (b : Nat) : Nat :=
  if b / 2 ^ 23 = 0 then b * 2 ^ 51 else (2 ^ 23 + b % 2 ^ 23) * 2 ^ (b / 2 ^ 23 + 50)

/-- The word of a number's magnitude bits reads as that number (R62). -/
theorem f32_of_magnitude {b : Nat} (hb : b < 0x7F800000) :
    ∃ m e, f32 (BitVec.ofNat 32 b) = .fin false m e ∧ m * 2 ^ (e + 200).toNat = magUnits b := by
  have hnat : (BitVec.ofNat 32 b).toNat = b := by rw [BitVec.toNat_ofNat]; omega
  have hsign : (BitVec.ofNat 32 b).getLsbD 31 = false := by
    rw [BitVec.getLsbD_ofNat, Nat.testBit_lt_two_pow (by omega), Bool.and_false]
  have hexp : b / 2 ^ 23 % 2 ^ 8 = b / 2 ^ 23 := by omega
  rw [f32_eq, hnat, hsign, hexp, if_neg (by omega), magUnits]
  by_cases hzero : b / 2 ^ 23 = 0
  · rw [if_pos hzero, if_pos hzero, Nat.mod_eq_of_lt (by omega : b < 2 ^ 23)]
    exact ⟨_, _, rfl, rfl⟩
  · rw [if_neg hzero, if_neg hzero]
    refine ⟨_, _, rfl, ?_⟩
    rw [show ((b / 2 ^ 23 : Nat) - 127 - 23 + 200 : Int).toNat = b / 2 ^ 23 + 50 by omega]

/-- `t` units of 2^(k - 149), with their leading bit in place unless k is 0, have the magnitude bits that a rounding
delivers: a carry out of the fraction is one into the exponent. -/
theorem magUnits_of_units {k t : Nat} (hlo : k = 0 ∨ 2 ^ 23 ≤ t) (hhi : t ≤ 2 ^ 24) :
    magUnits (k * 2 ^ 23 + t) = t * 2 ^ (k + 51) := by
  unfold magUnits
  rcases Nat.lt_or_ge t (2 ^ 23) with hsub | hnormal
  · obtain rfl : k = 0 := by omega
    rw [if_pos (by omega), Nat.zero_mul, Nat.zero_add]
  · rw [if_neg (by omega)]
    rcases Nat.lt_or_eq_of_le hhi with hlt | rfl
    · have hfrac : 2 ^ 23 + (k * 2 ^ 23 + t) % 2 ^ 23 = t := by omega
      have hexp : (k * 2 ^ 23 + t) / 2 ^ 23 + 50 = k + 51 := by omega
      rw [hfrac, hexp]
    · have hfrac : 2 ^ 23 + (k * 2 ^ 23 + 2 ^ 24) % 2 ^ 23 = 2 ^ 23 := by omega
      have hexp : (k * 2 ^ 23 + 2 ^ 24) / 2 ^ 23 + 50 = k + 51 + 1 := by omega
      rw [hfrac, hexp, Nat.pow_succ 2 (k + 51)]
      generalize 2 ^ (k + 51) = u
      omega

/-- The number before the one of `t` units is below every quotient `n / den` that is rounded up to `t` units. -/
theorem magUnits_pred_lt {k t n den : Nat} (hden : 0 < den) (ht : 0 < t) (hlo : k = 0 ∨ 2 ^ 23 ≤ t) (hhi : t ≤ 2 ^ 24)
    (hup : t * (den * 2 ^ (k + 51)) < n + den * 2 ^ (k + 51)) (hbinade : k = 0 ∨ 2 ^ 23 * (den * 2 ^ (k + 51)) ≤ n) :
    den * magUnits (k * 2 ^ 23 + t - 1) < n := by
  by_cases hpred : k = 0 ∨ 2 ^ 23 ≤ t - 1
  · have hone := Nat.le_mul_of_pos_left (den * 2 ^ (k + 51)) ht
    rw [Nat.add_sub_assoc ht, magUnits_of_units hpred (by omega), Nat.mul_left_comm, Nat.sub_one_mul]
    exact Nat.sub_lt_right_of_lt_add hone hup
  · obtain ⟨j, rfl⟩ : ∃ j, k = j + 1 := ⟨k - 1, by omega⟩
    obtain rfl : t = 2 ^ 23 := by omega
    have hbits : (j + 1) * 2 ^ 23 + 2 ^ 23 - 1 = j * 2 ^ 23 + (2 ^ 24 - 1) := by omega
    have hunit : den * 2 ^ (j + 1 + 51) = 2 * (den * 2 ^ (j + 51)) := by
      rw [Nat.add_right_comm, Nat.pow_succ 2 (j + 51), ← Nat.mul_assoc, Nat.mul_comm]
    have hpos : 0 < den * 2 ^ (j + 51) := Nat.mul_pos hden (Nat.two_pow_pos _)
    have hlead := hbinade.resolve_left (Nat.succ_ne_zero j)
    rw [hunit] at hlead
    rw [hbits, magUnits_of_units (.inr (by decide)) (by decide), Nat.mul_left_comm]
    generalize den * 2 ^ (j + 51) = u at hpos hlead ⊢
    omega

/-! ### Rounding up to FP32 (R67) -/

/-- What a rounding to FP32 delivers of `t` units of 2^(k - 149), when that is in range. -/
theorem roundMag_fp32 {mode : Mode} {num den k t : Nat} {e : Int} {whole : Bool}
    (hk : max (ratLog2 num den + e - 23) (-149) = (k : Int) - 149)
    (hround : roundAt mode false num den e ((k : Int) - 149) = (t, whole)) (hrange : k * 2 ^ 23 + t < 0x7F800000) :
    ∃ tiny : Bool, roundMag fmtFP32 mode false false num den e =
      (k * 2 ^ 23 + t, flIf (!whole) flNX ||| flIf (tiny && !whole) flUF) := by
  have hk' : max (ratLog2 num den + e - (fmtFP32.fracBits : Int)) (1 - (fmtFP32.bias : Int) - fmtFP32.fracBits) =
      (k : Int) - 149 := hk
  have hunits : ((k : Int) - 149 - (1 - (fmtFP32.bias : Int) - fmtFP32.fracBits)).toNat * 2 ^ fmtFP32.fracBits + t =
      k * 2 ^ 23 + t := by
    show ((k : Int) - 149 - (1 - 127 - 23)).toNat * 2 ^ 23 + t = _
    omega
  have hmax : fmtFP32.maxBits = 0x7F7FFFFF := rfl
  unfold roundMag
  dsimp only
  rw [hk', hround, hunits, if_neg (by omega), Fmt.signBits, if_neg Bool.false_ne_true, Nat.add_zero]
  exact ⟨_, rfl⟩

theorem inexactFlag_eq_zero_iff (whole tiny : Bool) :
    (flIf (!whole) flNX ||| flIf (tiny && !whole) flUF) &&& flNX = 0 ↔ whole = true := by
  revert whole tiny
  decide

/-- A value `n / den` in units of 2^-200 whose leading bit is that of 2^ex: in the units its rounding takes it is below 2^24, and
not below 2^23 unless they are the least. -/
theorem units_of_binade {ex : Int} {k n den i : Nat} (hi : (i : Int) = ex + 200) (hk : max (ex - 23) (-149) = (k : Int) - 149)
    (hlead : den * 2 ^ i ≤ n) (htop : n < den * 2 ^ (i + 1)) :
    (k = 0 ∨ 2 ^ 23 * (den * 2 ^ (k + 51)) ≤ n) ∧ n < 2 ^ 24 * (den * 2 ^ (k + 51)) := by
  have hscale (a : Nat) : 2 ^ a * (den * 2 ^ (k + 51)) = den * 2 ^ (a + (k + 51)) := by
    rw [Nat.pow_add 2 a (k + 51), Nat.mul_left_comm]
  rw [hscale, hscale]
  constructor
  · rcases Nat.eq_zero_or_pos k with hzero | hpos
    · exact .inl hzero
    · exact .inr (by rwa [show 23 + (k + 51) = i by omega])
  · exact Nat.lt_of_lt_of_le htop (Nat.mul_le_mul_left den (Nat.pow_le_pow_right (by decide) (by omega)))

/-- So are the units `t` that it is rounded up to, but for a carry to 2^24. -/
theorem roundedUnits_bounds {k t n d : Nat} (hn : 0 < n) (hd : 0 < d) (hbinade : k = 0 ∨ 2 ^ 23 * d ≤ n) (htop : n < 2 ^ 24 * d)
    (hle : n ≤ t * d) (hup : t * d < n + d) : 0 < t ∧ (k = 0 ∨ 2 ^ 23 ≤ t) ∧ t ≤ 2 ^ 24 := by
  refine ⟨Nat.pos_of_ne_zero ?_, hbinade.imp_right fun h => Nat.le_of_mul_le_mul_right (Nat.le_trans h hle) hd, ?_⟩
  · rintro rfl
    omega
  · have hlt : t * d < (2 ^ 24 + 1) * d := by omega
    exact Nat.lt_succ_iff.1 (Nat.lt_of_mul_lt_mul_right hlt)

/-- Rounded up, a positive quotient in range delivers the magnitude bits of the least number that is not below it, and NX unless
it is that number. -/
theorem roundMag_up {num den : Nat} {e : Int} (hnum : 0 < num) (hden : 0 < den) (hsmall : den.log2 ≤ 50) (he : -149 ≤ e)
    (hrange : (num.log2 : Int) - den.log2 + e ≤ 126) :
    let r := roundMag fmtFP32 .ru false false num den e
    0 < r.1 ∧ r.1 < 0x7F800000 ∧ den * magUnits (r.1 - 1) < num * 2 ^ (e + 200).toNat ∧
      num * 2 ^ (e + 200).toNat ≤ den * magUnits r.1 ∧ (r.2 &&& flNX = 0 ↔ num * 2 ^ (e + 200).toNat = den * magUnits r.1) := by
  have hlog : -51 ≤ ratLog2 num den ∧ ratLog2 num den ≤ (num.log2 : Int) - den.log2 := by
    rw [ratLog2_eq]
    split <;> omega
  obtain ⟨i, hi⟩ : ∃ i : Nat, (i : Int) = ratLog2 num den + e + 200 := ⟨(ratLog2 num den + e + 200).toNat, by omega⟩
  obtain ⟨hlead, htop⟩ := ratLog2_bounds (i := i) (j := (e + 200).toNat) hnum hden (by omega)
  obtain ⟨k, hk⟩ : ∃ k : Nat, max (ratLog2 num den + e - 23) (-149) = (k : Int) - 149 :=
    ⟨(max (ratLog2 num den + e - 23) (-149) + 149).toNat, by omega⟩
  have hratio := scaleTo_ratio num den (e := e) (q := (k : Int) - 149) (s := -200) (by omega) (by omega)
  rw [show ((k : Int) - 149 - -200).toNat = k + 51 by omega, show e - -200 = e + 200 by omega] at hratio
  have hunit : 0 < den * 2 ^ (k + 51) := Nat.mul_pos hden (Nat.two_pow_pos _)
  obtain ⟨hle, hup, hexact⟩ := roundAt_up hden hunit hratio
  generalize hround : roundAt .ru false num den e ((k : Int) - 149) = u at hle hup hexact
  obtain ⟨t, whole⟩ := u
  dsimp only at hle hup hexact
  have hpos : 0 < num * 2 ^ (e + 200).toNat := Nat.mul_pos hnum (Nat.two_pow_pos _)
  obtain ⟨hbinade, hbelow⟩ := units_of_binade hi hk hlead htop
  obtain ⟨ht0, ht23, ht24⟩ := roundedUnits_bounds hpos hunit hbinade hbelow hle hup
  have hbits : k * 2 ^ 23 + t < 0x7F800000 := by omega
  obtain ⟨tiny, hr⟩ := roundMag_fp32 hk hround hbits
  rw [hr]
  dsimp only
  rw [magUnits_of_units ht23 ht24, inexactFlag_eq_zero_iff, hexact, Nat.mul_left_comm den]
  exact ⟨by omega, hbits, magUnits_pred_lt hden ht0 ht23 ht24 hup hbinade, hle, Iff.rfl⟩

end Sys2Proof.Machine
end

