-- ==== Sys2Proof/Proofs/Conversions.lean ====
section
/-! PROOFS. Conversions, FP8 packing, the SFU, quantisation words and random numbers (O7), with the value that QSCALE delivers
(R81). -/

namespace Sys2Proof.Machine

open Sys2Proof Sys2Proof.Claims

/-! ### QSCALE of a NaN, an infinity and a zero (R81) -/

theorem qscaleWord_of_nan (k : Bool) {x : Word} {s : Bool} (h : f32 x = .nan s) : qscaleWord k x = (0x7FC00000, flNV) := by
  rw [qscaleWord, h]
  rfl

theorem qscaleWord_of_inf (k : Bool) {x : Word} {neg : Bool} (h : f32 x = .inf neg) : qscaleWord k x = (0x7F800000, 0) := by
  rw [qscaleWord, h]
  rfl

theorem f32_of_zero {x : Word} (h : x.toNat % 2 ^ 31 = 0) : f32 x = .fin (x.getLsbD 31) 0 (-149) := by
  rw [f32_eq, if_neg (by omega), if_pos (by omega), show x.toNat % 2 ^ 23 = 0 by omega]

theorem qscaleWord_of_zero (k : Bool) {x : Word} (h : x.toNat % 2 ^ 31 = 0) : qscaleWord k x = (0x3F800000, 0) := by
  rw [qscaleWord, f32_of_zero h]
  rfl

/-! ### Compatibility mode -/

theorem deliverSum_of_valid {f : Fmt} {mode : Mode} {sat : Bool} {ts : List Num} {x : Num} (h : exactSum mode ts = (x, false)) :
    deliverSum f mode sat ts = deliver f mode sat x := by
  rw [deliverSum, h]
  exact Prod.ext rfl BitVec.or_zero

theorem sum32_of_valid {mode : Mode} {ts : List Num} {x : Num} (h : exactSum mode ts = (x, false)) :
    sum32 mode ts = (BitVec.ofNat 32 (deliver fmtFP32 mode false x).1, (deliver fmtFP32 mode false x).2) := by
  rw [sum32, deliverSum_of_valid h]

theorem exactSum_pow (e : Int) : exactSum .rn [.fin false 1 e] = (.fin false 1 e, false) := by
  simp [exactSum, minExp, sumUnits, Num.isInf, Num.isSig, Num.isNaN]

/-- A power of 2 is delivered as the sum of it alone. -/
theorem sum32_pow (e : Int) : sum32 .rn [.fin false 1 e] = deliver32 (.fin false 1 e) :=
  sum32_of_valid (exactSum_pow e)

theorem qscaleWord_compat {x : Word} {neg : Bool} {m : Nat} {e : Int} (h : f32 x = .fin neg m e) (hm : m ≠ 0) :
    qscaleWord true x = sum32 .rn [.fin false 1 (max ((m.log2 : Int) + e - 8) (-127))] := by
  rw [sum32_pow, ← ratLog2_one m (Nat.pos_of_ne_zero hm), qscaleWord, h]
  simp [hm]

/-! ### Native mode -/

theorem f32_finite_bounds {x : Word} {neg : Bool} {m : Nat} {e : Int} (h : f32 x = .fin neg m e) :
    m < 2 ^ 24 ∧ -149 ≤ e ∧ e ≤ 104 := by
  rw [f32_eq] at h
  split at h
  next => split at h <;> cases h
  next hexp =>
    split at h
    next =>
      obtain ⟨-, rfl, rfl⟩ := Num.fin.inj h
      omega
    next =>
      obtain ⟨-, rfl, rfl⟩ := Num.fin.inj h
      omega

theorem qscaleWord_native {x : Word} {neg : Bool} {m : Nat} {e : Int} (h : f32 x = .fin neg m e) (hm : m ≠ 0) :
    qscaleWord false x = (BitVec.ofNat 32 (roundMag fmtFP32 .ru false false m 448 e).1,
      (roundMag fmtFP32 .ru false false m 448 e).2) := by
  rw [qscaleWord, h]
  simp [hm]

/-- QSCALE in native mode: the least FP32 number that is not below a 448th of the magnitude, and NX unless it is that value
(R81). -/
theorem qscaleWord_native_least {x : Word} {neg : Bool} {m : Nat} {e : Int} (h : f32 x = .fin neg m e) (hm : m ≠ 0) :
    ∃ mq eq mp ep, f32 (qscaleWord false x).1 = .fin false mq eq ∧ f32 ((qscaleWord false x).1 - 1) = .fin false mp ep ∧
      448 * mp * 2 ^ (ep + 200).toNat < m * 2 ^ (e + 200).toNat ∧
      m * 2 ^ (e + 200).toNat ≤ 448 * mq * 2 ^ (eq + 200).toNat ∧
      ((qscaleWord false x).2 &&& flNX = 0 ↔ m * 2 ^ (e + 200).toNat = 448 * mq * 2 ^ (eq + 200).toNat) := by
  obtain ⟨hm24, helo, hehi⟩ := f32_finite_bounds h
  have hlog : m.log2 < 24 := (Nat.log2_lt hm).2 hm24
  have hlog448 : Nat.log2 448 = 8 := by decide
  obtain ⟨hpos, hfin, hbelow, habove, hexact⟩ :=
    roundMag_up (den := 448) (Nat.pos_of_ne_zero hm) (by decide) (by omega) helo (by omega)
  rw [qscaleWord_native h hm]
  generalize roundMag fmtFP32 .ru false false m 448 e = r at hpos hfin hbelow habove hexact ⊢
  obtain ⟨b, fl⟩ := r
  have hpred : BitVec.ofNat 32 b - 1 = BitVec.ofNat 32 (b - 1) := BitVec.ofNat_sub_ofNat_of_le b 1 (by decide) hpos
  obtain ⟨mq, eq, hq, hqval⟩ := f32_of_magnitude hfin
  obtain ⟨mp, ep, hp, hpval⟩ := f32_of_magnitude (b := b - 1) (Nat.lt_of_le_of_lt (Nat.sub_le _ _) hfin)
  refine ⟨mq, eq, mp, ep, hq, by rw [hpred, hp], ?_⟩
  rw [Nat.mul_assoc, Nat.mul_assoc, hqval, hpval]
  exact ⟨hbelow, habove, hexact⟩

end Sys2Proof.Machine

open Sys2Proof Sys2Proof.Machine Sys2Proof.Claims

/-- Settles O7: each word is a vector, a scalar or a several-register word of its value, and QSCALE rounds a 448th of the
magnitude up to FP32 (`roundMag_up`). -/
theorem conversionsAndQuantisation : Obligations.ConversionsAndQuantisation := by
  unfold Obligations.ConversionsAndQuantisation
  refine ⟨fun n d a b => ⟨?_, ?_, ?_, ?_, ?_, fun m => ?_, ?_⟩, fun k x => ⟨?_, ?_, ?_, fun neg m e h hm => ⟨?_, ?_⟩⟩⟩
  · exact vecWordIn_of_runWord (execCvt n d a b) (fun _ => rfl) (fun _ => rfl) fun _ => rfl
  · exact vecWordIn_of_runWord (execF8pack n d a b) (fun _ => rfl) (fun _ => rfl) fun _ => rfl
  · exact multiWord_of_runWord (execF8unpk d a b) (fun _ => rfl) (fun _ => rfl) fun _ => rfl
  · exact vecWordIn_of_runWord (execSfu n d a b) (fun _ => rfl) (fun _ => rfl) fun _ => rfl
  · exact scalarResult_of_runWord (execQamax d a) (fun _ => rfl) (fun _ => rfl) fun _ => rfl
  · exact scalarResult_of_runWord (execQscale d a m) (fun _ => rfl) (fun _ => rfl) fun _ => rfl
  · exact multiWord_of_runWord (execRng d a b) (fun _ => rfl) (fun _ => rfl) fun _ => rfl
  · exact fun s h => qscaleWord_of_nan k h
  · exact fun neg h => qscaleWord_of_inf k h
  · exact qscaleWord_of_zero k
  · rintro rfl
    exact qscaleWord_compat h hm
  · rintro rfl
    exact qscaleWord_native_least h hm
end

