-- ==== Sys2Proof/Proofs/ScalarWords.lean ====
section
/-! PROOFS. The scalar words (O11): a word that shifts no latch, and of those the one that writes where its predicate lets it
take effect (R130, R131). -/

namespace Sys2Proof.Machine

open Sys2Proof Sys2Proof.Claims

/-! ### A word that shifts no latch -/

/-- `w` differs from `a` in its register files and flags at most. -/
def FilesWritten (a w : Wave) : Prop := w = { a with v := w.v, s := w.s, p := w.p, t := w.t, flags := w.flags }

theorem filesWritten_refl (w : Wave) : FilesWritten w w := rfl

theorem filesWritten_of_regsWritten {a w : Wave} (h : RegsWritten a w) : FilesWritten a w := by
  obtain ⟨v, sr, p, rfl⟩ : ∃ v sr p, w = { a with v := v, s := sr, p := p } := ⟨_, _, _, h⟩
  rfl

theorem regsWritten_t {a w : Wave} (h : RegsWritten a w) : w.t = a.t := by
  rw [h]

theorem regsWritten_flags {a w : Wave} (h : RegsWritten a w) : w.flags = a.flags := by
  rw [h]

/-- A word that shifts no latch leaves the machine as `t`, and of its wave the register files and the flags as in `w`
(R8, R13, R15). -/
def Leaves (s t : State) (c : Cur) (w : Wave) (writes : Regs) (lat words : Nat) : Prop :=
  ∃ u, OnlyWave s t c.blk c.iss.wave u ∧ WaveKept c.wv u ∧ Moved s t c u writes lat words none ∧
    u.v = w.v ∧ u.s = w.s ∧ u.p = w.p ∧ u.t = w.t ∧ u.flags = w.flags

theorem retire_leaves {s : State} {c : Cur} {w : Wave} (writes : Regs) (lat words : Nat) (hc : s.cur? = some c)
    (hw : FilesWritten c.wv w) :
    Leaves s (retire s c { wave := w, writes := writes, lat := lat, words := words }) c w writes lat words := by
  obtain ⟨-, -, -, hpart, -⟩ := cur?_spec hc
  obtain ⟨v, sr, p, tl, fl, rfl⟩ : ∃ v sr p tl fl, w = { c.wv with v := v, s := sr, p := p, t := tl, flags := fl } :=
    ⟨_, _, _, _, _, hw⟩
  have hkept : WaveKept c.wv { c.wv with v := v, s := sr, p := p, t := tl, flags := fl } :=
    ⟨rfl, rfl, rfl, rfl, rfl, rfl, rfl, rfl, rfl, rfl, rfl, rfl, rfl, rfl, rfl, rfl⟩
  refine ⟨_, retire_only hc hkept.idx, waveKept_retiredWave hkept, retire_moved rfl hpart rfl, ?_⟩
  simp

/-! ### Words that take effect where their predicate lets them (R131) -/

/-- The wave after a scalar word that would leave it as `w`. -/
def takenWave (c : Cur) (w : Wave) : Wave := if c.scalarTakes then w else c.wv

/-- The registers it then has pending. -/
def takenWrites (c : Cur) (writes : Regs) : Regs := if c.scalarTakes then writes else noRegs

theorem takenWave_of_takes {c : Cur} (h : c.scalarTakes = true) (w : Wave) : takenWave c w = w := if_pos h

theorem takenWave_of_not {c : Cur} (h : c.scalarTakes = false) (w : Wave) : takenWave c w = c.wv := by
  simp [takenWave, h]

/-- Whatever a word leaves alone where it takes effect, it leaves alone. -/
theorem takenWave_keeps {α : Type} {c : Cur} {w : Wave} (file : Wave → α) (h : file w = file c.wv) :
    file (takenWave c w) = file c.wv := by
  unfold takenWave
  split
  · exact h
  · rfl

theorem filesWritten_takenWave {c : Cur} {w : Wave} (h : RegsWritten c.wv w) : FilesWritten c.wv (takenWave c w) := by
  unfold takenWave
  split
  · exact filesWritten_of_regsWritten h
  · exact filesWritten_refl _

/-- How a scalar word of `words` clause words retires. -/
def takenDone (c : Cur) (f : Form) (w : Wave) (words : Nat) : Done :=
  { wave := takenWave c w, writes := takenWrites c f.writes, lat := f.lat, words := words }

theorem scalarDone_eq_retire (s : State) (c : Cur) (f : Form) (w : Wave) :
    scalarDone s c f w = .next (retire s c (takenDone c f w 1)) := rfl

/-- What a scalar word changes that would leave its wave as `w` (R8, R13, R15, R131). -/
theorem takenDone_retires {s : State} {c : Cur} {w : Wave} (f : Form) (words : Nat) (hc : s.cur? = some c)
    (hw : RegsWritten c.wv w) :
    let t := retire s c (takenDone c f w words)
    ∃ u, OnlyWave s t c.blk c.iss.wave u ∧ WaveKept c.wv u ∧ Moved s t c u (takenWrites c f.writes) f.lat words none ∧
      u.v = (takenWave c w).v ∧ u.s = (takenWave c w).s ∧ u.p = (takenWave c w).p ∧ u.t = c.wv.t ∧
      u.flags = c.wv.flags := by
  obtain ⟨u, honly, hkept, hmoved, hv, hs, hp, ht, hflags⟩ :=
    retire_leaves (takenWrites c f.writes) f.lat words hc (filesWritten_takenWave hw)
  exact ⟨u, honly, hkept, hmoved, hv, hs, hp, ht.trans (takenWave_keeps Wave.t (regsWritten_t hw)),
    hflags.trans (takenWave_keeps Wave.flags (regsWritten_flags hw))⟩

/-! ### Words that write one S register -/

theorem getS_takenWave_setS (c : Cur) (d : Nat) (x : Word) (k : Nat) :
    (takenWave c (c.wv.setS d x)).getS k = if k = d ∧ c.scalarTakes = true then x else c.wv.getS k := by
  cases h : c.scalarTakes with
  | true => simp [takenWave_of_takes h, getS_setS]
  | false => simp [takenWave_of_not h]

/-- A word of meaning `m` that gives `r` to S[d] where it takes effect does what `ScalarWordOf` says. -/
theorem scalarWordOf_of_runWord {words : Nat} {i : Instr} {form : Cur → Form} {d : Cur → Nat} {r : Cur → Word}
    (m : State → Out) (hexec : ∀ s, exec i s = m s)
    (hm : ∀ s, m s = runWord s form fun c f => .next (retire s c (takenDone c f (c.wv.setS (d c) (r c)) words)))
    (hwrites : ∀ c, (form c).writes = { noRegs with s := [d c] }) (hlat : ∀ c, (form c).lat = 2) :
    ScalarWordOf words i form d r := by
  intro s c h
  obtain ⟨u, honly, hkept, hmoved, hv, hs, hp, ht, hflags⟩ := takenDone_retires (form c) words h.cur
    (regsWritten_setS c.wv (d c) (r c))
  rw [hwrites, hlat] at hmoved
  refine ⟨_, u, by rw [hexec, hm, runWord_go h], honly, hkept, hmoved, fun k => ?_, hv.trans (takenWave_keeps Wave.v rfl),
    hp.trans (takenWave_keeps Wave.p rfl), ht, hflags⟩
  rw [← getS_takenWave_setS, Wave.getS, hs]
  rfl

/-- A three-register scalar word of meaning `m`, by its value from A and B (R134). -/
theorem scalarWord_of_runS3 {i : Instr} {op : Nat} {d a b : BitVec 8} {g r : Word → Word → Word} (m : State → Out)
    (hexec : ∀ s, exec i s = m s) (hm : ∀ s, m s = runS3 s op d a b g) (hval : ∀ x y, g x y = r x y) :
    ScalarWord i (formS3 op 1 d a b) (fun c => c.sNum 2 d) fun c => r (c.wv.getS (c.sNum 1 a)) (c.wv.getS (c.sNum 0 b)) := by
  obtain rfl : g = r := funext fun x => funext (hval x)
  exact scalarWordOf_of_runWord m hexec hm (fun _ => rfl) fun _ => rfl

/-! ### SADD64 (R135) -/

theorem regsWritten_setS64 (w : Wave) (n : Nat) (x : Addr) : RegsWritten w (w.setS64 n x) := rfl

theorem getS64_setS64 (w : Wave) (n : Nat) (x : Addr) : (w.setS64 n x).getS64 n = x := by
  have hlo : (w.setS64 n x).getS n = x.extractLsb' 0 32 := by
    simp [Wave.setS64, getS_setS]
  have hhi : (w.setS64 n x).getS (n + 1) = x.extractLsb' 32 32 := by
    simp [Wave.setS64, getS_setS]
  rw [Wave.getS64, hlo, hhi]
  exact BitVec.extractLsb'_append_extractLsb'_eq_extractLsb' rfl |>.trans (BitVec.extractLsb'_eq_self ..)

theorem getS_setS64_of_ne (w : Wave) {n k : Nat} (x : Addr) (hlo : k ≠ n) (hhi : k ≠ n + 1) :
    (w.setS64 n x).getS k = w.getS k := by
  simp [Wave.setS64, getS_setS, hlo, hhi]

/-! ### SCMP (R138) -/

/-- The mask that SCMP writes: its bit in all 32 lanes, AND-ed with the old bits where the word says so. -/
def scmpMask (bit old : Bool) (m : Mask) : Mask := if bit then (if old then m else 0xFFFFFFFF#32) else 0

theorem getLsbD_scmpMask (bit old : Bool) (m : Mask) {l : Nat} (hl : l < 32) :
    (scmpMask bit old m).getLsbD l = (bit && (!old || m.getLsbD l)) := by
  have hones : (0xFFFFFFFF#32).getLsbD l = true := by
    rw [show (0xFFFFFFFF#32) = BitVec.allOnes 32 from rfl, BitVec.getLsbD_allOnes, decide_eq_true hl]
  cases bit with
  | false => exact BitVec.getLsbD_zero
  | true =>
    cases old with
    | false => simpa [scmpMask] using hones
    | true => simp [scmpMask]

theorem getLsbD_takenWave_setP (c : Cur) (p : Nat) (m : Mask) (q l : Nat) :
    ((takenWave c (c.wv.setP p m)).getP q).getLsbD l =
      if q = p ∧ p ≠ 15 ∧ c.scalarTakes = true then m.getLsbD l else (c.wv.getP q).getLsbD l := by
  cases h : c.scalarTakes with
  | true =>
    rw [takenWave_of_takes h, getP_setP]
    simp only [and_true]
    split <;> rfl
  | false => simp [takenWave_of_not h]

theorem setP_v (w : Wave) (p : Nat) (m : Mask) : (w.setP p m).v = w.v := by
  unfold Wave.setP; split <;> rfl
theorem setP_s (w : Wave) (p : Nat) (m : Mask) : (w.setP p m).s = w.s := by
  unfold Wave.setP; split <;> rfl

section
variable {s : State} {c : Cur} {d a b : BitVec 8} {k p : BitVec 4} {old : Bool}

theorem exec_sadd64 (h : Issues s c (formS3 0x56 2 d a b)) : exec (.sadd64 d a b) s =
    .next (retire s c (takenDone c (formS3 0x56 2 d a b c)
      (c.wv.setS64 (c.sNum 2 d) (c.wv.getS64 (c.sNum 1 a) + c.wv.getS64 (c.sNum 0 b))) 1)) := by
  show execSadd64 d a b s = _
  rw [execSadd64, runWord_go h, scalarDone_eq_retire]

theorem exec_scmp (h : Issues s c (formScmp k p old a b)) : exec (.scmp k p old a b) s =
    .next (retire s c (takenDone c (formScmp k p old a b c) (c.wv.setP p.toNat
      (scmpMask (icond k.toNat (c.wv.getS (c.sNum 1 a)) (c.wv.getS (c.sNum 0 b))) old (c.wv.getP p.toNat))) 1)) := by
  show execScmp k p old a b s = _
  rw [execScmp, runWord_go h]
  rfl

end

end Sys2Proof.Machine

open Sys2Proof Sys2Proof.Machine Sys2Proof.Claims

/-- Settles O11: each word changes its wave to `takenWave` of the written one, which is the old wave where the predicate
does not let it take effect. -/
theorem scalarWords : Obligations.ScalarWords := by
  unfold Obligations.ScalarWords
  refine ⟨fun d a b => ⟨?_, ?_, ?_, ?_, ?_, ?_, ?_, ?_, ?_, ?_, ?_, fun i => ?_, fun i => ?_, fun lit => ?_, ?_⟩,
    fun d a b s c h => ?_, fun k p old a b s c h => ?_⟩
  · exact scalarWord_of_runS3 (execSadd d a b) (fun _ => rfl) (fun _ => rfl) fun _ _ => rfl
  · exact scalarWord_of_runS3 (execSsub d a b) (fun _ => rfl) (fun _ => rfl) fun _ _ => rfl
  · exact scalarWord_of_runS3 (execSmul d a b) (fun _ => rfl) (fun _ => rfl) fun _ _ => rfl
  · exact scalarWord_of_runS3 (execSand d a b) (fun _ => rfl) (fun _ => rfl) fun _ _ => rfl
  · exact scalarWord_of_runS3 (execSor d a b) (fun _ => rfl) (fun _ => rfl) fun _ _ => rfl
  · exact scalarWord_of_runS3 (execSxor d a b) (fun _ => rfl) (fun _ => rfl) fun _ _ => rfl
  · exact scalarWord_of_runS3 (execSshl d a b) (fun _ => rfl) (fun _ => rfl) shl_eq_ofNat
  · exact scalarWord_of_runS3 (execSshr d a b) (fun _ => rfl) (fun _ => rfl) shr_eq_ofNat
  · exact scalarWord_of_runS3 (execSsar d a b) (fun _ => rfl) (fun _ => rfl) sar_eq_ofInt
  · exact scalarWord_of_runS3 (execSmin d a b) (fun _ => rfl) (fun _ => rfl) imin_eq_ofInt
  · exact scalarWord_of_runS3 (execSmax d a b) (fun _ => rfl) (fun _ => rfl) imax_eq_ofInt
  · exact scalarWordOf_of_runWord (execSaddi d a i) (fun _ => rfl) (fun _ => rfl) (fun _ => rfl) fun _ => rfl
  · exact scalarWordOf_of_runWord (execSmovi d i) (fun _ => rfl) (fun _ => rfl) (fun _ => rfl) fun _ => rfl
  · exact scalarWordOf_of_runWord (execSmovl d lit) (fun _ => rfl) (fun _ => rfl) (fun _ => rfl) fun _ => rfl
  · exact scalarWordOf_of_runWord (execSsel d a b) (fun _ => rfl) (fun _ => rfl) (fun _ => rfl) fun _ => rfl
  · obtain ⟨u, honly, hkept, hmoved, hv, hs, hp, ht, hflags⟩ := takenDone_retires (formS3 0x56 2 d a b c) 1 h.cur
      (regsWritten_setS64 c.wv (c.sNum 2 d) (c.wv.getS64 (c.sNum 1 a) + c.wv.getS64 (c.sNum 0 b)))
    refine ⟨_, u, exec_sadd64 h, honly, hkept, hmoved, fun htakes => ?_, fun k hk => ?_,
      hv.trans (takenWave_keeps Wave.v rfl), hp.trans (takenWave_keeps Wave.p rfl), ht, hflags⟩
    · rw [takenWave_of_takes htakes] at hs
      rw [Wave.getS64, Wave.getS, Wave.getS, hs]
      exact getS64_setS64 ..
    · rw [Wave.getS, hs]
      rcases hk with ⟨hlo, hhi⟩ | hnot
      · exact takenWave_keeps (fun w => w.getS k) (getS_setS64_of_ne c.wv _ hlo hhi)
      · rw [takenWave_of_not hnot]
        rfl
  · obtain ⟨u, honly, hkept, hmoved, hv, hs, hp, ht, hflags⟩ := takenDone_retires (formScmp k p old a b c) 1 h.cur
      (regsWritten_setP c.wv p.toNat
        (scmpMask (icond k.toNat (c.wv.getS (c.sNum 1 a)) (c.wv.getS (c.sNum 0 b))) old (c.wv.getP p.toNat)))
    refine ⟨_, u, exec_scmp h, honly, hkept, hmoved, fun q l hl => ?_, hv.trans (takenWave_keeps Wave.v (setP_v ..)),
      hs.trans (takenWave_keeps Wave.s (setP_s ..)), ht, hflags⟩
    rw [Wave.getP, hp]
    refine (getLsbD_takenWave_setP c p.toNat _ q l).trans ?_
    split
    next hq => rw [getLsbD_scmpMask _ _ _ hl, hq.1]
    next => rfl
end

