-- ==== Sys2Proof/Proofs/TileWords.lean ====
section
/-! PROOFS. The tile words (O12): what fragment products and TMOV write to the registers, what TMOV and TZERO write to a tile
(R142, R144, R145), and the elements of a product by the bytes of its tiles (R147). -/

namespace Sys2Proof.Machine

open Sys2Proof Sys2Proof.Claims

/-! ### The lanes of a tile word (R142) -/

/-- A word that accepts no extension has none when it issues. -/
theorem Issues.noXc {s : State} {c : Cur} {form : Cur → Form} (h : Issues s c form) (hx : (form c).xc.noXc = true) :
    c.iss.xc = none := by
  cases hxc : c.iss.xc with
  | none => rfl
  | some x =>
    have hlegal := h.legal
    have hbad : xcOk (form c).xc x = false := by simp [xcOk, hx]
    simp [Form.fault, hxc, hbad] at hlegal

/-- Without an extension a word executes in the live lanes of its split. -/
theorem execMask_eq_liveMask {c : Cur} (h : c.iss.xc = none) : c.execMask = c.liveMask := by
  rw [Cur.execMask, Cur.predMask, h]
  exact BitVec.and_allOnes

/-! ### Words that write several registers and shift no latch -/

/-- The wave after the results `g 0`, ..., `g (k - 1)` in the registers from V[d], with their flags. -/
def flaggedWave (c : Cur) (d k : Nat) (g : Nat → Nat → Word × FlagSet) : Wave :=
  { multiWave c d k g with flags := c.wv.flags ||| multiFlags c.execMask k g }

theorem filesWritten_flaggedWave (c : Cur) (d k : Nat) (g : Nat → Nat → Word × FlagSet) :
    FilesWritten c.wv (flaggedWave c d k g) := by
  rw [FilesWritten, flaggedWave, multiWave_eq]

/-- A word without a predicate that leaves its wave as `flaggedWave` does what `MultiWord` says. -/
theorem multiWord_of_leaves {i : Instr} {form : Cur → Form} {d k : Nat} {r : Cur → Nat → Nat → Word × FlagSet}
    (hx : ∀ c, (form c).xc.noXc = true) (hwrites : ∀ c, (form c).writes = { noRegs with v := List.range' d k })
    (hexec : ∀ s c, Issues s c form → c.execMask = c.liveMask →
      ∃ t, exec i s = .next t ∧ Leaves s t c (flaggedWave c d k (r c)) (form c).writes (form c).lat 1) :
    MultiWord false i form d k Cur.liveMask r := by
  intro s c h
  have hmask := execMask_eq_liveMask (h.noXc (hx c))
  obtain ⟨t, hnext, u, honly, hkept, hmoved, hv, hs, hp, ht, hflags⟩ := hexec s c h hmask
  rw [hwrites] at hmoved
  rw [flaggedWave, multiWave_eq] at hs hp ht
  refine ⟨t, u, hnext, honly, hkept, hmoved, fun q l hl => ?_, hs, hp, ht, fun b => ?_⟩
  · rw [hv, ← hmask]
    exact vLane_multiWave c d k (r c) q hl
  · rw [hflags, ← hmask, flaggedWave, BitVec.getLsbD_or, getLsbD_multiFlags]

/-! ### Fragment products -/

/-- Noting the flags of lanes changes nothing that is said of a word. -/
theorem noteLaneFlags_leaves {s t : State} {c : Cur} {w : Wave} {writes : Regs} {lat words : Nat}
    (h : Leaves s t c w writes lat words) (core sub : Nat) (fl : List FlagSet) :
    Leaves s (t.noteLaneFlags core sub fl) c w writes lat words := by
  obtain ⟨u, ⟨houtside, hinWave⟩, hkept, hmoved, hfiles⟩ := h
  exact ⟨u, ⟨{ houtside with }, { hinWave with }⟩, hkept, { hmoved with }, hfiles⟩

/-- What a fragment word changes (R142, R149). -/
theorem fragResult_leaves {s : State} {c : Cur} (f : Form) (d : Nat) (g : Nat → Nat → Word × FlagSet) (hc : s.cur? = some c)
    (hmask : c.execMask = c.liveMask) :
    ∃ t, fragResult s c f d g = .next t ∧ Leaves s t c (flaggedWave c d 8 g) f.writes f.lat 1 := by
  have hwave : { multiWave c d 8 g with flags := (multiWave c d 8 g).flags ||| multiFlags c.execMask 8 g } =
      flaggedWave c d 8 g := by
    rw [flaggedWave, multiWave_eq]
  refine ⟨_, ?_, noteLaneFlags_leaves (retire_leaves f.writes f.lat 1 hc (filesWritten_flaggedWave c d 8 g)) c.iss.core c.iss.sub
    ((List.range 32).map fun l => if c.execMask.getLsbD l then (List.range 8).foldl (fun x i => x ||| (g i l).2) 0 else 0)⟩
  rw [fragResult, ← hmask, ← hwave]
  rfl

/-- A fragment word of meaning `m`, by its elements. -/
theorem multiWord_of_fragResult {i : Instr} {form : Cur → Form} {d : Nat} {r : Cur → Nat → Nat → Word × FlagSet}
    (m : State → Out) (hexec : ∀ s, exec i s = m s) (hm : ∀ s, m s = runWord s form fun c f => fragResult s c f d (r c))
    (hx : ∀ c, (form c).xc.noXc = true) (hwrites : ∀ c, (form c).writes = { noRegs with v := List.range' d 8 }) :
    MultiWord false i form d 8 Cur.liveMask r := by
  refine multiWord_of_leaves hx hwrites fun s c h hmask => ?_
  rw [hexec, hm, runWord_go h]
  exact fragResult_leaves (form c) d (r c) h.cur hmask

/-! ### The elements of a fragment product (R147) -/

/-- A tile's byte as a product reads it: zero of a lane that is dead or has exited (R142). -/
theorem tile_eq (c : Cur) (x o : Nat) : c.tile x o =
    if c.wv.dead.getLsbD (o / 16) || c.wv.exitedLanes.getLsbD (o / 16) then 0 else tileByte c.wv.t x o := by
  rw [Cur.tile, Wave.gone, BitVec.getLsbD_or]

theorem tileHalf_eq (c : Cur) (x o : Nat) : c.tileHalf x o = (c.tile x (o + 1)).toNat * 256 + (c.tile x o).toNat := by
  rw [Cur.tileHalf]
  omega

/-- The element of an INT8 product is the exact sum, cut to 32 bits. -/
theorem tmmaElem_int8 (c : Cur) (d a b i l : Nat) : tmmaElem c 2 d a b i l =
    (BitVec.ofInt 32 ((vLane c.wv.v (d + i) l).toInt + ((List.range 32).map fun k =>
      (c.tile a (32 * (2 * i + l / 16) + k)).toInt * (c.tile b (32 * (l % 16) + k)).toInt).sum), 0) := by
  rw [List.sum_eq_foldl, List.foldl_map, Int.add_comm, BitVec.ofInt_add, BitVec.ofInt_toInt]
  rfl

/-! ### TMOV to registers (R145) -/

/-- Bytes 16 l + 4 j and up of a tile as the word that TMOV moves. -/
def tileWord (t : Cells Byte) (k j l : Nat) : Word :=
  tileByte t k (16 * l + 4 * j + 3) ++ tileByte t k (16 * l + 4 * j + 2) ++ tileByte t k (16 * l + 4 * j + 1) ++
    tileByte t k (16 * l + 4 * j)

theorem orFlags_zero (m : Mask) (n : Nat) : orFlags m (fun _ => 0) n = 0 := by
  induction n with
  | zero => rfl
  | succ n ih =>
    rw [orFlags, ih]
    simp

/-- Results without flags leave the flags alone. -/
theorem flaggedWave_of_noFlags (c : Cur) (d k : Nat) (g : Nat → Nat → Word) :
    flaggedWave c d k (fun j l => (g j l, 0)) = multiWave c d k fun j l => (g j l, 0) := by
  have hflags : multiFlags c.execMask k (fun j l => (g j l, 0)) = 0 := by
    induction k with
    | zero => rfl
    | succ k ih => rw [multiFlags_succ, ih, orFlags_zero]; rfl
  have hkeep : c.wv.flags ||| 0 = c.wv.flags := BitVec.or_zero
  rw [flaggedWave, hflags, hkeep, multiWave_eq]

theorem exec_tmov_toRegs {s : State} {c : Cur} {v : BitVec 8} {t : BitVec 5} (h : Issues s c (formTmov true v t))
    (hmask : c.execMask = c.liveMask) : exec (.tmov true v t) s = .next (retire s c
      { wave := flaggedWave c v.toNat 4 fun j l => (tileWord c.wv.t t.toNat j l, 0)
        writes := { noRegs with v := List.range' v.toNat 4 }, lat := 4 }) := by
  show execTmov true v t s = _
  rw [execTmov, runWord_go h, flaggedWave_of_noFlags, multiWave, hmask]
  rfl

/-! ### Words that write a tile (R144, R145) -/

theorem tileByte_setTile (t : Cells Byte) (k : Nat) (ok : Nat → Bool) (f : Nat → Byte) (q : Nat) {b : Nat} (hb : b < 512) :
    ∀ n, n ≤ 512 → tileByte (setTile t k ok f n) q b = if q = k ∧ b < n ∧ ok b = true then f b else tileByte t q b
  | 0, _ => by simp [setTile]
  | n + 1, hn => by
    have ih := tileByte_setTile t k ok f q hb n (by omega)
    by_cases hbn : b = n
    · subst hbn
      rw [if_neg (by omega)] at ih
      have hplace : 512 * q + b = 512 * k + b ↔ q = k := by omega
      cases hok : ok b with
      | false => simpa [setTile, hok] using ih
      | true =>
        simp only [setTile, hok, if_true, tileByte, getAt_setAt, hplace, Nat.lt_succ_self, and_true]
        rw [tileByte, tileByte] at ih
        rw [ih]
    · have hlt : b < n + 1 ↔ b < n := by omega
      have hplace : 512 * q + b ≠ 512 * k + n := by omega
      simp only [hlt, ← ih, setTile]
      split
      · exact getAt_setAt_ne 0 _ _ hplace
      · rfl

/-- The wave after a word that writes bytes of a tile. -/
def tileWave (c : Cur) (k : Nat) (ok : Nat → Bool) (f : Nat → Byte) : Wave := { c.wv with t := setTile c.wv.t k ok f 512 }

theorem tileByte_tileWave (c : Cur) (k : Nat) (ok : Nat → Bool) (f : Nat → Byte) (q : Nat) {b : Nat} (hb : b < 512) :
    tileByte (tileWave c k ok f).t q b = if q = k ∧ ok b = true then f b else tileByte c.wv.t q b := by
  rw [tileWave, tileByte_setTile c.wv.t k ok f q hb 512 (Nat.le_refl _)]
  simp only [hb, true_and]

theorem tileWave_v (c : Cur) (k : Nat) (ok : Nat → Bool) (f : Nat → Byte) : (tileWave c k ok f).v = c.wv.v := by rw [tileWave]
theorem tileWave_s (c : Cur) (k : Nat) (ok : Nat → Bool) (f : Nat → Byte) : (tileWave c k ok f).s = c.wv.s := by rw [tileWave]
theorem tileWave_p (c : Cur) (k : Nat) (ok : Nat → Bool) (f : Nat → Byte) : (tileWave c k ok f).p = c.wv.p := by rw [tileWave]
theorem tileWave_flags (c : Cur) (k : Nat) (ok : Nat → Bool) (f : Nat → Byte) : (tileWave c k ok f).flags = c.wv.flags := by
  rw [tileWave]
theorem filesWritten_tileWave (c : Cur) (k : Nat) (ok : Nat → Bool) (f : Nat → Byte) : FilesWritten c.wv (tileWave c k ok f) := rfl

/-- How a word retires that writes bytes of a tile. -/
def tileDone (c : Cur) (k : Nat) (ok : Nat → Bool) (f : Nat → Byte) : Done :=
  { wave := tileWave c k ok f, writes := { noRegs with t := [k] }, lat := 4 }

/-- What such a word changes (R8, R13, R15). -/
theorem tileDone_retires {s : State} {c : Cur} (k : Nat) (ok : Nat → Bool) (f : Nat → Byte) (hc : s.cur? = some c) :
    let t := retire s c (tileDone c k ok f)
    ∃ u, OnlyWave s t c.blk c.iss.wave u ∧ WaveKept c.wv u ∧ Moved s t c u { noRegs with t := [k] } 4 1 none ∧
      u.v = c.wv.v ∧ u.s = c.wv.s ∧ u.p = c.wv.p ∧ u.flags = c.wv.flags ∧
      ∀ q b, b < 512 → tileByte u.t q b = if q = k ∧ ok b = true then f b else tileByte c.wv.t q b := by
  obtain ⟨u, honly, hkept, hmoved, hv, hs, hp, ht, hflags⟩ :=
    retire_leaves { noRegs with t := [k] } 4 1 hc (filesWritten_tileWave c k ok f)
  refine ⟨u, honly, hkept, hmoved, hv.trans (tileWave_v ..), hs.trans (tileWave_s ..), hp.trans (tileWave_p ..),
    hflags.trans (tileWave_flags ..), fun q b hb => ?_⟩
  rw [ht, tileByte_tileWave c k ok f q hb]

theorem exec_tmov_toTile {s : State} {c : Cur} {v : BitVec 8} {t : BitVec 5} (h : Issues s c (formTmov false v t)) :
    exec (.tmov false v t) s = .next (retire s c (tileDone c t.toNat (fun b => c.liveMask.getLsbD (b / 16))
      fun b => byteOf (vLane c.wv.v (v.toNat + b % 16 / 4) (b / 16)) (b % 4))) := by
  show execTmov false v t s = _
  rw [execTmov, runWord_go h]
  rfl

theorem exec_tzero {s : State} {c : Cur} {t : BitVec 5} (h : Issues s c (formTzero t)) :
    exec (.tzero t) s = .next (retire s c (tileDone c t.toNat (fun _ => true) fun _ => 0)) := by
  show execTzero t s = _
  rw [execTzero, runWord_go h]
  rfl

end Sys2Proof.Machine

open Sys2Proof Sys2Proof.Machine Sys2Proof.Claims

/-- Settles O12: a word to registers leaves its wave as `flaggedWave`, a word to a tile as `tileWave`, and a product's
elements are sums over the bytes that `Cur.tile` reads. -/
theorem tileWords : Obligations.TileWords := by
  unfold Obligations.TileWords
  refine ⟨fun d a b ty => ?_, fun d a b ty => ?_, fun v t => ?_, fun v t s c h => ?_, fun t s c h => ?_, fun c d a b i l => ?_⟩
  · exact multiWord_of_fragResult (execTmma d a b ty) (fun _ => rfl) (fun _ => rfl) (fun _ => rfl) fun _ => rfl
  · exact multiWord_of_fragResult (execTmmac d a b ty) (fun _ => rfl) (fun _ => rfl) (fun _ => rfl) fun _ => rfl
  · refine multiWord_of_leaves (fun _ => rfl) (fun _ => rfl) fun s c h hmask => ⟨_, exec_tmov_toRegs h hmask, ?_⟩
    exact retire_leaves _ 4 1 h.cur (filesWritten_flaggedWave c v.toNat 4 fun j l => (tileWord c.wv.t t.toNat j l, 0))
  · obtain ⟨u, hu⟩ := tileDone_retires t.toNat (fun b => c.liveMask.getLsbD (b / 16))
      (fun b => byteOf (vLane c.wv.v (v.toNat + b % 16 / 4) (b / 16)) (b % 4)) h.cur
    exact ⟨_, u, exec_tmov_toTile h, hu⟩
  · obtain ⟨u, honly, hkept, hmoved, hv, hs, hp, hflags, hbytes⟩ := tileDone_retires t.toNat (fun _ => true) (fun _ => 0) h.cur
    refine ⟨_, u, exec_tzero h, honly, hkept, hmoved, hv, hs, hp, hflags, fun k b hb => ?_⟩
    rw [hbytes k b hb]
    simp only [and_true]
  · intro row col old byte wide dot bytes halves
    have hbyte : c.tile = byte := funext fun x => funext (tile_eq c x)
    have hwide : c.tileHalf = wide := funext fun x => funext fun o => by rw [tileHalf_eq, hbyte]
    clear_value byte wide
    subst hbyte hwide
    exact ⟨rfl, rfl, tmmaElem_int8 c d a b i l, rfl, rfl⟩
end
